-- ==== Sys2Proof/Word.lean ====
section
/-! DEFINITION. Word.lean: bytes, time-counter values, and the fixed-length tables that hold the part's like records
(sixteen points, twelve sections, four groups). -/

namespace Sys2Proof

/-- A byte of a frame, record or image. -/
abbrev Byte := BitVec 8

/-- A value of the free-running 32-bit time counter, in units of 10 µs (00_scope.md, Time): it wraps at 2^32, and
every difference of two values is taken modulo 2^32. -/
abbrev Time := BitVec 32

/-- A 16-bit quantity that wraps (a restoration counter, the up and down tallies, entries and exits). -/
abbrev Word16 := BitVec 16

/-- A fixed number `n` of like records, numbered from 0. -/
structure Table (n : Nat) (α : Type) where
  items : List α
  size  : items.length = n
deriving DecidableEq, Repr

namespace Table

variable {n : Nat} {α : Type}

/-- The record with number `i`. -/
def get (t : Table n α) (i : Fin n) : α := t.items.get ⟨i.val, by rw [t.size]; exact i.isLt⟩

/-- The table with record `i` replaced. -/
def set (t : Table n α) (i : Fin n) (a : α) : Table n α :=
  ⟨t.items.set i.val a, by rw [List.length_set]; exact t.size⟩

/-- `n` equal records. -/
def replicate (n : Nat) (a : α) : Table n α := ⟨List.replicate n a, List.length_replicate⟩

/-- The table of the values of a function. -/
def ofFn (f : Fin n → α) : Table n α := ⟨List.ofFn f, List.length_ofFn⟩

/-- A function applied to every record. -/
def map {β : Type} (f : α → β) (t : Table n α) : Table n β :=
  ⟨t.items.map f, by rw [List.length_map]; exact t.size⟩

end Table

end Sys2Proof
end

