-- ==== Sys2Proof/Syntax.lean ====
section
/-! DEFINITION. Syntax.lean: the commands of the block. One constructor of `Instr` for each row of
spec/opcode_table.json: an event at the part's inputs or timers, or a command frame taken on a port. -/

namespace Sys2Proof

/-- Counting points 0 to 15. -/
abbrev PointId := Fin 16
/-- Track sections 0 to 11. -/
abbrev SectionId := Fin 12
/-- Supply groups 0 to 3. -/
abbrev GroupId := Fin 4

/-- The two detector systems of a counting point (R1). -/
inductive Sys
  | a
  | b
deriving DecidableEq, Repr

/-- A detector system, named by its point and letter. -/
structure SystemId where
  point : PointId
  sys   : Sys
deriving DecidableEq, Repr

/-- The line or lines of a point whose accepted level changes at one sample with one change time (R7). -/
inductive Lines
  | a
  | b
  | both
deriving DecidableEq, Repr

/-- The two message ports (R182). -/
inductive PortId
  | control
  | service
deriving DecidableEq, Repr

/-- Why a received frame is discarded, other than by the gap timer (R183). -/
inductive DiscardReason
  | badLength
  | crcMismatch
  | characterError
deriving DecidableEq, Repr

/-- A received character: a byte, or a character whose stop bit reads low (R182). -/
inductive Character
  | byte (b : Byte)
  | stopBitLow
deriving DecidableEq, Repr

/-- What the external serial memory gave to the read of the configuration image (R164): no acknowledgement of the
read of address 0, or the bytes from address 0 upward as far as the memory acknowledged. -/
inductive MemoryRead
  | noAcknowledge
  | bytes (read : List Byte)
deriving DecidableEq, Repr

/-- The block's commands. A command frame carries the port it is taken on, its TAG and its body as received. -/
inductive Instr
  -- reset
  | reset
  -- detector lines and counting points
  | acceptedChange (point : PointId) (lines : Lines) (changeTime : Time)
  | glitch (point : PointId) (sys : Sys) (start : Time) (length : Byte)
  | quietTimerExpiry (point : PointId)
  | leakTimerExpiry
  -- detector proving
  | dueTimerExpiry (point : PointId) (sys : Sys)
  | overdueTimerExpiry (point : PointId) (sys : Sys)
  | assertWindowExpiry
  | releaseWindowExpiry
  | abortWaitExpiry
  -- sections
  | clearDelayExpiry (sec : SectionId)
  | holdoffTimerExpiry (sec : SectionId)
  -- detector supplies
  | supplyGoodChange (group : GroupId)
  | supplyGoodTimeout (group : GroupId)
  | settleTimerExpiry (group : GroupId)
  | offTimeExpiry (group : GroupId)
  | turnTimerExpiry
  -- outputs
  | phaseTimerExpiry
  -- ports
  | gapTimerExpiry (port : PortId)
  | frameDiscarded (port : PortId) (reason : DiscardReason)
  | refillTimerExpiry (port : PortId)
  | imageTimerExpiry
  | linkTimerExpiry
  | transmitComplete (port : PortId)
  -- serial memory
  | imageLoadComplete (memory : MemoryRead)
  | storeWriteAck
  | storeDone
  | storeFailed
  -- command frames
  | unknownCommand (port : PortId) (kind : Byte) (tag : Byte) (body : List Byte)
  | restoreSection (port : PortId) (tag : Byte) (body : List Byte)
  | cancelRestore (port : PortId) (tag : Byte) (body : List Byte)
  | queryDevice (port : PortId) (tag : Byte) (body : List Byte)
  | linkCheck (port : PortId) (tag : Byte) (body : List Byte)
  | querySections (port : PortId) (tag : Byte) (body : List Byte)
  | queryPoints (port : PortId) (tag : Byte) (body : List Byte)
  | disturbSection (port : PortId) (tag : Byte) (body : List Byte)
  | setReportMask (port : PortId) (tag : Byte) (body : List Byte)
  | setTopology (port : PortId) (tag : Byte) (body : List Byte)
  | setPointMode (port : PortId) (tag : Byte) (body : List Byte)
  | setPointParameters (port : PortId) (tag : Byte) (body : List Byte)
  | clearPointFault (port : PortId) (tag : Byte) (body : List Byte)
  | setSectionParameters (port : PortId) (tag : Byte) (body : List Byte)
  | setDeviceParameters (port : PortId) (tag : Byte) (body : List Byte)
  | setSupplyParameters (port : PortId) (tag : Byte) (body : List Byte)
  | setPortParameters (port : PortId) (tag : Byte) (body : List Byte)
  | setTrace (port : PortId) (tag : Byte) (body : List Byte)
  | start (port : PortId) (tag : Byte) (body : List Byte)
  | halt (port : PortId) (tag : Byte) (body : List Byte)
  | storeImage (port : PortId) (tag : Byte) (body : List Byte)
  | recycleGroup (port : PortId) (tag : Byte) (body : List Byte)
  | forceSupply (port : PortId) (tag : Byte) (body : List Byte)
  | releaseSupply (port : PortId) (tag : Byte) (body : List Byte)
  -- a received character
  | characterReceived (port : PortId) (char : Character)
deriving DecidableEq, Repr

end Sys2Proof
end

