-- ==== Sys2Proof/Decode.lean ====
section
/-! DEFINITION. Decode.lean: the command that a word spells by the bits of spec/opcode_table.json. No row of the table
gives bits ("fields" is empty in all 53 rows), so no word spells a command. -/

namespace Sys2Proof

/-- The command read from a word of `nbits` bits numbered as spec/opcode_table.json numbers them: none, because the
table gives no row any bits (notes/assumptions/9.md). -/
def decodeTableWord (_nbits _w : Nat) : Option Instr := none

end Sys2Proof
end

