-- ==== Sys2Proof/Config.lean ====
section
/-! DEFINITION. Config.lean: the free values. Where the spec says that either of two orders may come first, or leaves a
value unstated, the model takes it from one of these constants, which have no body: no proof can see a value. -/

namespace Sys2Proof.Config

/-- FREE VALUE (notes/assumptions/2.md). The order among events that fall at one time-counter value: the `k`th choice
the machine makes (00_scope.md, Time: where two events reach the same state, the owning rule gives the outcome of
either order). -/
opaque eventOrder : Nat → Nat

/-- FREE VALUE (notes/assumptions/3.md). Whether, at the `k`th choice, staged parameters are applied before the proof
channel takes a system (R143: either may come first). -/
opaque stagedFirst : Nat → Bool

/-- FREE VALUE (notes/assumptions/4.md). Whether, at the `k`th choice, the tested system's change goes to the proof
controller before the partner system's change of the same sample (R7, R62: no order is given). -/
opaque testedFirst : Nat → Bool

/-- FREE VALUE (notes/assumptions/30.md). Whether, at the `k`th choice, a proof channel that the tested system's change
has freed takes a system before the partner system's change of the same sample (R62: it may come first or second). -/
opaque takeFirst : Nat → Bool

/-- FREE VALUE (notes/assumptions/12.md). How many bytes beyond the first the body write begun at the `k`th choice would
hold, as far as the image reaches (R174 gives no sizes). -/
opaque writeSize : Nat → Nat

/-- FREE VALUE (notes/assumptions/12.md). The time units in which the part finishes sending the memory write begun at the
`k`th choice (R174 gives no times). -/
opaque sendTime : Nat → Nat

/-- FREE VALUE (notes/assumptions/5.md). The index byte of a device change report: R203 gives every report an index
and the device has none. -/
opaque deviceReportIndex : Byte

end Sys2Proof.Config
end

