-- ==== Sys2Proof/Machine/State.lean ====
section
/-! DEFINITION. Machine/State.lean: everything the spec gives the part, as plain data, and its value after reset.
Levels are Booleans whose docstring says which level `true` is. A 16-bit tally that wraps is a `Word16`; a tally or
level that saturates is a `Nat`, bounded by the operations that raise it. -/

namespace Sys2Proof.Machine

/-! ## Timers (00_scope.md, Time) -/

/-- A running timer: its start value and its length in time units. A stopped timer is `none`. -/
structure Timer where
  start  : Time
  length : Nat
deriving DecidableEq, Repr

/-! ## Detector lines (chapter 1) -/

/-- One detector line in the Detector Input Unit (R1, R2, R5). -/
structure Line where
  /-- the level outside the part: `true` is low -/
  pinLow     : Bool
  /-- the raw sample: `true` is occupied -/
  raw        : Bool
  /-- the accepted level: `true` is occupied -/
  accepted   : Bool
  /-- the run length -/
  run        : Nat
  /-- the start time of the run -/
  runStart   : Time
  /-- the change time of the last accepted change -/
  changeTime : Time
deriving DecidableEq, Repr

/-! ## Counting points (chapters 1, 2, 3 and 7) -/

/-- The states of the direction machine (section 1.3). -/
inductive DirectionMachine
  | idle
  | up1
  | up2
  | up3
  | dn1
  | dn2
  | dn3
  | confused
deriving DecidableEq, Repr

inductive Direction
  | up
  | down
deriving DecidableEq, Repr

/-- The passage record in flight (R10). -/
structure Passage where
  onset    : Time
  aOn      : Option Time
  bOn      : Option Time
  aOff     : Option Time
  bOff     : Option Time
  reversal : Bool
  partly   : Bool
deriving DecidableEq, Repr

/-- Why the machine is CONFUSED (R16). The start-up mark is set when the cause is START_UP and clear otherwise. -/
inductive ConfusionCause
  | simultaneousOnset
  | jump
  | startUp
deriving DecidableEq, Repr

/-- What the machine keeps while it is CONFUSED (R16). -/
structure Confusion where
  cause : ConfusionCause
  entry : Time
deriving DecidableEq, Repr

inductive Mode
  | outOfUse
  | supervising
  | counting
deriving DecidableEq, Repr

inductive Health
  | ok
  | warn
  | fault
deriving DecidableEq, Repr

inductive FaultCause
  | level
  | proofFailures
deriving DecidableEq, Repr

inductive ProofResult
  | pass
  | noResponse
  | noRelease
  | aborted
  | unfinished
deriving DecidableEq, Repr

/-- The proof status of a detector system (section 3.2). Eligibility and the phase are read from the state
(`eligible`, `phaseOf` in Machine/Flags.lean). -/
structure ProofStatus where
  proven       : Bool
  lastPass     : Option Time
  due          : Bool
  overdue      : Bool
  dueTimer     : Option Timer
  overdueTimer : Option Timer
  failures     : Nat
  lastResult   : Option ProofResult
deriving DecidableEq, Repr

/-- Spacing in mm and filter length in samples (section 7.5). -/
structure PointParams where
  spacing : Nat
  filter  : Nat
deriving DecidableEq, Repr

/-- A counting point: its two lines, its engine and the proof status of its two systems. -/
structure Point where
  lineA         : Line
  lineB         : Line
  machine       : DirectionMachine
  passage       : Option Passage
  confusion     : Option Confusion
  quietTimer    : Option Timer
  mode          : Mode
  startMode     : Mode
  level         : Nat
  health        : Health
  faultCause    : Option FaultCause
  faultTime     : Option Time
  lastSpeed     : Option Nat
  upTally       : Word16
  downTally     : Word16
  retreatTally  : Nat
  glitchTally   : Nat
  irregularTally : Nat
  overspeedTally : Nat
  confusedTally : Nat
  proofFailTally : Nat
  params        : PointParams
  staged        : Option PointParams
  proofA        : ProofStatus
  proofB        : ProofStatus
deriving DecidableEq, Repr

/-- A point's entry in the Topology Table (R71); NONE is `none`. -/
structure TopologyEntry where
  up   : Option SectionId
  down : Option SectionId
deriving DecidableEq, Repr

/-- A point's entry in the Section Monitor's point view (R88). -/
structure PointView where
  active  : Bool
  overdue : Bool
deriving DecidableEq, Repr

/-! ## The proof channel (chapter 3) -/

inductive Phase
  | assert
  | release
  | abortWait
deriving DecidableEq, Repr

/-- The proof that holds the channel (R56 to R64). -/
structure Proof where
  system       : SystemId
  phase        : Phase
  takeTime     : Time
  /-- the time ASSERT was met -/
  responseTime : Option Time
  /-- the response window, or the wait of ABORT_WAIT -/
  window       : Timer
  /-- in ABORT_WAIT: the tested system has read free at some moment since the abort (R63) -/
  readFree     : Bool
deriving DecidableEq, Repr

/-! ## Sections (chapters 5 and 6) -/

inductive SectionState
  | unused
  | disturbed
  | restoring
  | occupied
  | clearing
  | clear
deriving DecidableEq, Repr

/-- The disturbance causes (R102). -/
inductive Cause
  | powerUp
  | deviceHalt
  | supplyLoss
  | supplyOff
  | pointWithdrawn
  | pointFault
  | confusedPassage
  | underflow
  | overflow
  | hostRequest
  | restoreCancelled
deriving DecidableEq, Repr

/-- A section record (R85, R111, R112). -/
structure SectionRecord where
  state         : SectionState
  count         : Nat
  cause         : Option Cause
  rc            : Word16
  entries       : Word16
  exits         : Word16
  sweep         : Bool
  hold          : Bool
  clearTimer    : Option Timer
  holdoffTimer  : Option Timer
  lastRestore   : Option Time
  lastChange    : Time
  /-- in units of 100 ms, 0 to 100 -/
  clearDelay    : Nat
  /-- in s, 0 to 60 -/
  holdoff       : Nat
  directPermitted : Bool
deriving DecidableEq, Repr

/-! ## Detector supplies (chapter 8) -/

inductive GroupState
  | off
  | enabling
  | settling
  | ready
  | failed
  | disabling
  | manual
deriving DecidableEq, Repr

inductive FailReason
  | enableTimeout
  | settleDrop
  | supplyLoss
  | notOff
  | releasedUnpowered
  | releasedOff
deriving DecidableEq, Repr

/-- A group record and the filter of its supply-good input (R145, R146). The enable level is read from the state
(`enableLevel` in Machine/Flags.lean). -/
structure Group where
  state      : GroupState
  /-- the level of SGD outside the part: `true` is high -/
  pinHigh    : Bool
  /-- the accepted supply-good level -/
  good       : Bool
  /-- how many samples in a row have differed from the accepted level -/
  run        : Nat
  timer      : Option Timer
  failReason : Option FailReason
  /-- `some true` is forced on -/
  forced     : Option Bool
  lastChange : Time
deriving DecidableEq, Repr

/-- The sequencer's activity (R159). -/
inductive Activity
  | none
  | powerOn
  | powerOff
  | recycle (group : GroupId)
deriving DecidableEq, Repr

/-- Supply parameters in ms (R147). -/
structure SupplyParams where
  delay01 : Nat
  delay12 : Nat
  delay23 : Nat
  settle  : Nat
deriving DecidableEq, Repr

/-- The Supply Sequencer apart from its group records (R147, R152, R159). -/
structure Sequencer where
  params    : SupplyParams
  activity  : Activity
  /-- the group whose turn comes next, while a sequence has a turn to give -/
  nextTurn  : Option GroupId
  turnTimer : Option Timer
deriving DecidableEq, Repr

/-! ## The Device Controller (chapter 9) -/

inductive DeviceState
  | loading
  | configuring
  | starting
  | running
  | halting
deriving DecidableEq, Repr

inductive LoadResult
  | none
  | corrupt
  | loaded
deriving DecidableEq, Repr

/-- The item codes of a refused start (R79, R167), each with the index of the failing item. -/
inductive StartFault
  | sameSides (point : PointId)
  | members (sec : SectionId)
  | unbound (point : PointId)
  | filterWindow (point : PointId)
deriving DecidableEq, Repr

inductive AutostartResult
  | notRequested
  | started
  | refused (item : StartFault)
deriving DecidableEq, Repr

inductive StoreResult
  | done
  | failed
deriving DecidableEq, Repr

/-- The memory write that is outstanding (R174): `size` bytes of the body and CRC at an address, or the header at
address 0. -/
inductive StoreWrite
  | body (address size : Nat)
  | header
deriving DecidableEq, Repr

/-- A store in progress (R173, R174): the image formed at the acceptance, the write that the memory has still to
acknowledge, and the timer of its acknowledgement. -/
structure StoreProgress where
  image : List Byte
  write : StoreWrite
  timer : Timer
deriving DecidableEq, Repr

/-- The device record's own items (R175). -/
structure Device where
  state        : DeviceState
  loadResult   : Option LoadResult
  loadAdjusted : Bool
  autostart    : Option AutostartResult
  store        : Option StoreProgress
  lastStore    : Option StoreResult
deriving DecidableEq, Repr

/-- The twelve device-wide parameters (R27, R49, R172), in the units of SET DEVICE PARAMETERS. -/
structure DeviceParams where
  tol          : Nat
  vLimit       : Nat
  wGlitch      : Nat
  wIrregular   : Nat
  wOverspeed   : Nat
  wConfused    : Nat
  wProof       : Nat
  leakInterval : Nat
  warnOn       : Nat
  fault        : Nat
  interval     : Nat
  response     : Nat
deriving DecidableEq, Repr

/-! ## Outputs (chapter 10) -/

inductive Drive
  | low
  | armed
  | toggling
deriving DecidableEq, Repr

/-- The Section Output Unit (R176, R177, R179). The level of a CLR output is read from the state (`clrLevel` in
Machine/Flags.lean). -/
structure Outputs where
  phaseHigh  : Bool
  phaseTimer : Timer
  clr        : Table 12 Drive
  run        : Drive
  runHigh    : Bool
deriving DecidableEq, Repr

/-! ## Message ports (chapter 11) -/

/-- The subjects of change reports (R189). -/
inductive Subject
  | device
  | group (g : GroupId)
  | point (p : PointId)
  | sec (n : SectionId)
deriving DecidableEq, Repr

/-- The receive assembly (R183). COLLECTING holds LEN and the bytes kept so far. -/
inductive Assembly
  | hunting
  | length
  | collecting (len : Byte) (kept : List Byte)
deriving DecidableEq, Repr

/-- The refusal codes, in the order of R202. -/
inductive RefusalCode
  | unknownCommand
  | badLength
  | badArgument
  | notPermittedOnPort
  | wrongDeviceState
  | busy
  | configInvalid
  | sectionState
  | stale
  | holdoff
  | pointNotReady
  | pointActive
  | directNotPermitted
  | pointFault
  | notProven
  | state
  | groupState
deriving DecidableEq, Repr

/-- The result of a command with its encoded data (R184, R202). -/
inductive CommandResult
  | accepted (data : List Byte)
  | refused (code : RefusalCode) (data : List Byte)
deriving DecidableEq, Repr

/-- A reply (R184): the kind and TAG of its command, and the result. -/
structure Reply where
  kind   : Byte
  tag    : Byte
  result : CommandResult
deriving DecidableEq, Repr

/-- An entry of a report queue (R189). -/
structure ReportEntry where
  subject : Subject
  changes : Nat
deriving DecidableEq, Repr

/-- A class mask (R189). -/
structure ClassMask where
  sections : Bool
  points   : Bool
  supplies : Bool
  device   : Bool
deriving DecidableEq, Repr

/-- The four baud rates (R182). -/
inductive Baud
  | baud19200
  | baud57600
  | baud115200
  | baud460800
deriving DecidableEq, Repr

/-- What both ports have (R182 to R193, R199). -/
structure Port where
  /-- the rate that the straps gave at the end of reset -/
  baud         : Baud
  assembly     : Assembly
  gapTimer     : Option Timer
  frameErrors  : Nat
  overruns     : Nat
  replies      : List Reply
  queue        : List ReportEntry
  mask         : ClassMask
  tokens       : Nat
  burst        : Nat
  /-- in ms, 5 to 1000 -/
  refillPeriod : Nat
  refillTimer  : Timer
  sendSequence : Byte
  /-- the frame on the line; `none` when the transmitter is free -/
  sending      : Option (List Byte)
deriving DecidableEq, Repr

/-- What the control port alone has (R194, R195). -/
structure Link where
  imageTimer  : Timer
  imageDue    : Bool
  /-- in ms, 20 to 2000 -/
  imagePeriod : Nat
  up          : Bool
  timer       : Option Timer
  /-- in ms, 0 or 100 to 10000 -/
  timeout     : Nat
deriving DecidableEq, Repr

inductive Plausibility
  | pass
  | irregular
deriving DecidableEq, Repr

/-- A count event (R13). -/
structure CountEvent where
  point        : PointId
  direction    : Direction
  time         : Time
  speed        : Option Nat
  plausibility : Option Plausibility
  left         : Option SectionId
  entered      : Option SectionId
deriving DecidableEq, Repr

/-- A trace record (R25, R68, R197). -/
inductive TraceRecord
  | counted (e : CountEvent)
  | uncounted (e : CountEvent)
  | retreat (point : PointId) (direction : Direction) (onset time : Time)
  | confused (point : PointId) (cause : ConfusionCause) (entry expiry : Time)
  | glitch (point : PointId) (sys : Sys) (start : Time) (length : Byte)
  | proof (system : SystemId) (result : ProofResult) (take : Time) (response : Option Time) (finish : Time)
      (failures : Nat)
  | gap (drops : Nat)
deriving DecidableEq, Repr

/-- The trace filter, buffer and drop count of the service port (R196, R197): bit n of a mask stands for index n. -/
structure Trace where
  pointMask   : BitVec 16
  kindMask    : BitVec 8
  sectionMask : BitVec 16
  buffer      : List TraceRecord
  drops       : Nat
deriving DecidableEq, Repr

/-- The baud-rate strap pins (R182): two a port, strap 1 the upper bit, `1` high. -/
structure Straps where
  control : BitVec 2
  service : BitVec 2
deriving DecidableEq, Repr

/-! ## The whole state -/

/-- The state of the part. -/
structure State where
  /-- the time counter -/
  now       : Time
  /-- the MODEL's own: the samples of this time-counter value are still to be taken (set by reset alone) -/
  sampleDue : Bool
  points    : Table 16 Point
  topology  : Table 16 TopologyEntry
  view      : Table 16 PointView
  sections  : Table 12 SectionRecord
  groups    : Table 4 Group
  sequencer : Sequencer
  device    : Device
  params    : DeviceParams
  leakTimer : Timer
  /-- the proof channel: free, or held by a system under proof -/
  channel   : Option Proof
  /-- the proof queue, head first -/
  queue     : List SystemId
  outputs   : Outputs
  control   : Port
  service   : Port
  link      : Link
  trace     : Trace
  straps    : Straps
  /-- the commands that are waiting, first in first out -/
  pending   : List Instr
  /-- the MODEL's own: how many free choices have been made; the next choice is the free value at this number -/
  choices   : Nat
  /-- the MODEL's own: the 20 ms timer of a memory write has run out, and its STORE_FAILED still waits in the queue -/
  writeLapsed : Bool
deriving DecidableEq, Repr

/-- The reasons for which the machine stops with a fault. There are none: the spec gives every command an effect, and
an event that cannot happen in a state is no event there (notes/assumptions/7.md). -/
inductive Fault : Type
deriving DecidableEq, Repr

/-- The reasons for which the machine refuses a command. -/
inductive Refusal
  /-- Raised by `exec` alone, for a command that has no meaning yet (no command is left so). Safe: a claim about
  such a command cannot be proved. -/
  | notModelled (mnemonic : String)
deriving DecidableEq, Repr

/-! ## After reset -/

/-- A line after reset (R6): accepted level occupied, run length 0. -/
def Line.reset (pinLow : Bool) : Line :=
  { pinLow := pinLow, raw := pinLow, accepted := true, run := 0, runStart := 0, changeTime := 0 }

/-- A system's proof status after reset (R70). -/
def ProofStatus.reset : ProofStatus :=
  { proven := false, lastPass := none, due := false, overdue := true, dueTimer := none, overdueTimer := none,
    failures := 0, lastResult := none }

/-- A counting point after reset, its lines at the given levels (R26, R48, R144). -/
def Point.reset (aLow bLow : Bool) : Point :=
  { lineA := .reset aLow, lineB := .reset bLow, machine := .idle, passage := none, confusion := none,
    quietTimer := none, mode := .outOfUse, startMode := .outOfUse, level := 0, health := .ok, faultCause := none,
    faultTime := none, lastSpeed := none, upTally := 0, downTally := 0, retreatTally := 0, glitchTally := 0,
    irregularTally := 0, overspeedTally := 0, confusedTally := 0, proofFailTally := 0,
    params := ⟨140, 20⟩, staged := none, proofA := .reset, proofB := .reset }

/-- A section record after reset (R110, R128). -/
def SectionRecord.reset : SectionRecord :=
  { state := .unused, count := 0, cause := none, rc := 0, entries := 0, exits := 0, sweep := false, hold := false,
    clearTimer := none, holdoffTimer := none, lastRestore := none, lastChange := 0, clearDelay := 10, holdoff := 5,
    directPermitted := false }

/-- A supply group after reset (R161). -/
def Group.reset (pinHigh : Bool) : Group :=
  { state := .off, pinHigh := pinHigh, good := false, run := 0, timer := none, failReason := none, forced := none,
    lastChange := 0 }

/-- The baud rate of a port by the levels of its two straps (R182). -/
def Baud.ofStraps (straps : BitVec 2) : Baud :=
  match straps.getLsbD 1, straps.getLsbD 0 with
  | false, false => .baud19200
  | false, true => .baud57600
  | true, false => .baud115200
  | true, true => .baud460800

/-- A port after reset (R183, R185, R189, R193, R200). -/
def Port.reset (baud : Baud) (mask : ClassMask) : Port :=
  { baud := baud, assembly := .hunting, gapTimer := none, frameErrors := 0, overruns := 0, replies := [], queue := [],
    mask := mask, tokens := 4, burst := 4, refillPeriod := 50, refillTimer := ⟨0, 5000⟩, sendSequence := 0,
    sending := none }

/-- The part after reset, with the levels of its input pins as given: the points' lines, the supply-good inputs and the
straps; `pending`, `choices` and `writeLapsed` belong to the model. -/
def State.afterReset (points : Table 16 Point) (groups : Table 4 Group) (straps : Straps) (pending : List Instr)
    (choices : Nat) : State :=
  { now := 0
    sampleDue := true
    points := points
    topology := .replicate 16 ⟨none, none⟩
    view := .replicate 16 ⟨false, true⟩
    sections := .replicate 12 .reset
    groups := groups
    sequencer := { params := ⟨200, 200, 200, 500⟩, activity := .none, nextTurn := none, turnTimer := none }
    device := { state := .loading, loadResult := none, loadAdjusted := false, autostart := none, store := none,
                lastStore := none }
    params := { tol := 6, vLimit := 200, wGlitch := 1, wIrregular := 4, wOverspeed := 4, wConfused := 32,
                wProof := 64, leakInterval := 10, warnOn := 32, fault := 128, interval := 60, response := 20 }
    leakTimer := ⟨0, 1000000⟩
    channel := none
    queue := []
    outputs := { phaseHigh := false, phaseTimer := ⟨0, 500⟩, clr := .replicate 12 .low, run := .low,
                 runHigh := false }
    control := .reset (.ofStraps straps.control) ⟨true, false, false, true⟩
    service := .reset (.ofStraps straps.service) ⟨true, true, true, true⟩
    link := { imageTimer := ⟨0, 10000⟩, imageDue := false, imagePeriod := 100, up := true,
              timer := some ⟨0, 100000⟩, timeout := 1000 }
    trace := { pointMask := 0, kindMask := 0, sectionMask := 0, buffer := [], drops := 0 }
    straps := straps
    pending := pending
    choices := choices
    writeLapsed := false }

/-- The machine right after reset. Every detector line and supply-good input is low and every strap is low
(notes/assumptions/1.md); nothing waits. -/
def State.reset : State :=
  State.afterReset (.replicate 16 (.reset true true)) (.replicate 4 (.reset false)) ⟨0, 0⟩ [] 0

/-! ## Work in hand during one command -/

/-- The state while one command is taken, with the reportable changes and trace records of the event so far. They are
placed in the queues and the buffer when the event's work is done (R189, R197), so no state between commands holds
them. -/
structure Ev where
  s      : State
  posts  : List Subject
  traces : List TraceRecord
deriving DecidableEq, Repr

end Sys2Proof.Machine
end

