-- ==== Sys2Proof/Machine/Flags.lean ====
section
/-! DEFINITION. Machine/Flags.lean: the conditions the rules read from the state (lit, counting, eligible, under proof,
active and overdue members) and the output levels that follow from it. -/

namespace Sys2Proof

/-- The other system of the same point. -/
def Sys.other : Sys → Sys
  | .a => .b
  | .b => .a

/-- A change of this system's line alone. -/
def Sys.lines : Sys → Lines
  | .a => .a
  | .b => .b

/-- The code of a system carried beside its point: 0 for A and 1 for B (R202). -/
def Sys.code : Sys → Nat
  | .a => 0
  | .b => 1

end Sys2Proof

namespace Sys2Proof.Machine

/-! ## Lists of all the numbered things -/

def allPoints : List PointId := List.finRange 16
def allSections : List SectionId := List.finRange 12
def allGroups : List GroupId := List.finRange 4
def allPorts : List PortId := [.control, .service]
def bothSystems : List Sys := [.a, .b]

/-! ## Timers -/

/-- The time counter has reached the timer's start value plus its length (00_scope.md, Time; differences are taken
modulo 2^32). -/
def Timer.reached (now : Time) (t : Timer) : Bool := decide (t.length ≤ (now - t.start).toNat)

/-- The time at which a running timer expires. -/
def Timer.expiry (t : Timer) : Time := t.start + BitVec.ofNat 32 t.length

/-- The expiry of a timer that may be stopped is taken now. -/
def timerReached (now : Time) : Option Timer → Bool
  | none => false
  | some t => t.reached now

/-! ## Systems and lines -/

def Point.line (pt : Point) : Sys → Line
  | .a => pt.lineA
  | .b => pt.lineB

def Point.proof (pt : Point) : Sys → ProofStatus
  | .a => pt.proofA
  | .b => pt.proofB

/-- The point-level proof overdue indication is on while either system is overdue (R67). -/
def Point.overdueIndication (pt : Point) : Bool := pt.proofA.overdue || pt.proofB.overdue

/-! ## Points -/

/-- The supply group that feeds a point: group g feeds points 4g to 4g+3 (chapter 8). -/
def groupOf (p : PointId) : GroupId := ⟨p.val / 4, by omega⟩

/-- The points of a group, in ascending order. -/
def pointsOf (g : GroupId) : List PointId := allPoints.filter (fun p => groupOf p == g)

def State.point (s : State) (p : PointId) : Point := s.points.get p
def State.sec (s : State) (n : SectionId) : SectionRecord := s.sections.get n
def State.group (s : State) (g : GroupId) : Group := s.groups.get g
def State.entry (s : State) (p : PointId) : TopologyEntry := s.topology.get p

/-- A point is lit while its group is READY (R145). -/
def lit (s : State) (p : PointId) : Bool := (s.group (groupOf p)).state == .ready

/-- The point's mode is SUPERVISING or COUNTING. -/
def inUse (s : State) (p : PointId) : Bool := (s.point p).mode != .outOfUse

/-- A point is counting (R14, R130). -/
def counting (s : State) (p : PointId) : Bool :=
  (s.point p).mode == .counting && (s.point p).health != .fault && lit s p && s.device.state == .running

/-- A system, that is its point, is eligible for proving (R50). -/
def eligible (s : State) (p : PointId) : Bool := inUse s p && (s.point p).health != .fault && lit s p

/-- A system is under proof while it holds the channel (R57). -/
def underProof (s : State) (p : PointId) (x : Sys) : Bool :=
  match s.channel with
  | none => false
  | some pr => pr.system == ⟨p, x⟩

/-- Some system of the point is under proof. -/
def pointUnderProof (s : State) (p : PointId) : Bool := underProof s p .a || underProof s p .b

/-- The phase of a system under proof (section 3.2). -/
def phaseOf (s : State) (p : PointId) (x : Sys) : Option Phase :=
  match s.channel with
  | none => none
  | some pr => if pr.system == ⟨p, x⟩ then some pr.phase else none

/-- What the direction machine reads of a system: its accepted level, and free while it is under proof (R7);
`true` is occupied. -/
def reads (s : State) (p : PointId) (x : Sys) : Bool := ((s.point p).line x).accepted && !underProof s p x

/-- Why a point is not counting: the first of mode, health, group and device that fails (R115, R144). -/
inductive NotCounting
  | mode
  | health
  | group
  | device
deriving DecidableEq, Repr

def notCountingBecause (s : State) (p : PointId) : Option NotCounting :=
  if (s.point p).mode != .counting then some .mode
  else if (s.point p).health == .fault then some .health
  else if !lit s p then some .group
  else if s.device.state != .running then some .device
  else none

/-! ## Topology (chapter 4) -/

/-- The table's entry names the section on either side (R74). -/
def TopologyEntry.names (e : TopologyEntry) (n : SectionId) : Bool := e.up == some n || e.down == some n

/-- The members of a section, in ascending point order (R74). -/
def membersIn (t : Table 16 TopologyEntry) (n : SectionId) : List PointId :=
  allPoints.filter (fun p => (t.get p).names n)

def members (s : State) (n : SectionId) : List PointId := membersIn s.topology n

/-- The sections a point bounds, each once (R20, R82). -/
def TopologyEntry.bounds (e : TopologyEntry) : List SectionId :=
  match e.up, e.down with
  | none, none => []
  | some u, none => [u]
  | none, some d => [d]
  | some u, some d => if u = d then [u] else [u, d]

/-- The section a passage leaves (R72). -/
def TopologyEntry.left (e : TopologyEntry) : Direction → Option SectionId
  | .up => e.down
  | .down => e.up

/-- The section a passage enters (R72). -/
def TopologyEntry.entered (e : TopologyEntry) : Direction → Option SectionId
  | .up => e.up
  | .down => e.down

/-- Some member of the section is an active member (R88). -/
def anyActive (s : State) (n : SectionId) : Bool := (members s n).any (fun p => (s.view.get p).active)

/-- Some member of the section is an overdue member (R88). -/
def anyOverdue (s : State) (n : SectionId) : Bool := (members s n).any (fun p => (s.view.get p).overdue)

/-- The occupancy family: OCCUPIED, CLEARING and CLEAR (chapter 5). -/
def SectionState.inFamily : SectionState → Bool
  | .occupied => true
  | .clearing => true
  | .clear => true
  | .unused => false
  | .disturbed => false
  | .restoring => false

/-- The count is trusted: RESTORING or the occupancy family (chapter 5). -/
def SectionState.trusted : SectionState → Bool
  | .restoring => true
  | .occupied => true
  | .clearing => true
  | .clear => true
  | .unused => false
  | .disturbed => false

/-! ## Device -/

/-- The device takes live commands: CONFIGURING, STARTING or RUNNING (section 9.5). -/
def DeviceState.live : DeviceState → Bool
  | .configuring => true
  | .starting => true
  | .running => true
  | .loading => false
  | .halting => false

/-! ## Outputs -/

/-- The level driven on SEN of a group, `true` on (R145): fixed by its state, and by the forced level in MANUAL. -/
def enableLevel (g : Group) : Bool :=
  match g.state with
  | .off => false
  | .enabling => true
  | .settling => true
  | .ready => true
  | .failed => false
  | .disabling => false
  | .manual => g.forced == some true

/-- The level of CLR of a section, `true` high (R177). -/
def clrLevel (o : Outputs) (n : SectionId) : Bool := o.clr.get n == .toggling && o.phaseHigh

/-- The level of RUN, `true` high (R179). -/
def runLevel (o : Outputs) : Bool := o.run == .toggling && o.runHigh

/-- The level of a system's test line, `true` high: driven in ASSERT alone (R56, R58, R59). -/
def testLine (s : State) (p : PointId) (x : Sys) : Bool := phaseOf s p x == some .assert

end Sys2Proof.Machine
end

