-- ==== Sys2Proof/Machine/Operands.lean ====
section
/-! DEFINITION. Machine/Operands.lean: the fields of command bodies, records and images (R202), the codes of the
enumerated items, the CRC-16 (R183), and the ranges into which parameters are clamped (R171). -/

namespace Sys2Proof.Machine

/-! ## Numbers in bytes -/

/-- One byte of a number. -/
def byte (n : Nat) : Byte := BitVec.ofNat 8 n

/-- A two-byte field, most significant byte first. -/
def bytes2 (n : Nat) : List Byte := [byte (n / 256), byte n]

/-- A four-byte time-counter value, most significant byte first. -/
def bytes4 (t : Time) : List Byte :=
  [byte (t.toNat / 16777216), byte (t.toNat / 65536), byte (t.toNat / 256), byte t.toNat]

/-- A two-byte field read. -/
def word (hi lo : Byte) : Nat := hi.toNat * 256 + lo.toNat

/-- A flag bit at a position. -/
def flag (b : Bool) (bit : Nat) : Nat := if b then 2 ^ bit else 0

/-- A flag byte. -/
def flagByte (b : Bool) : Byte := if b then 1 else 0

/-- An absent one-byte value, code or section side (R202). -/
def absent : Byte := 0xFF

/-- A one-byte value that may be absent. -/
def byteOr (n : Option Nat) : Byte :=
  match n with
  | none => absent
  | some n => byte n

/-- A two-byte value that may be absent: 0xFFFF (R202). -/
def bytes2Or (n : Option Nat) : List Byte :=
  match n with
  | none => [absent, absent]
  | some n => bytes2 n

/-- A time that may be absent: an absent time is four zero bytes (R202). -/
def bytes4Or (t : Option Time) : List Byte :=
  match t with
  | none => bytes4 0
  | some t => bytes4 t

/-- A set of points or sections as a 16-bit mask, bit n for index n (R202). -/
def maskOf (l : List Nat) : Nat := l.foldl (fun m i => m ||| 2 ^ i) 0

/-! ## Indices in commands -/

def pointIndex (b : Byte) : Option PointId := if h : b.toNat < 16 then some ⟨b.toNat, h⟩ else none
def sectionIndex (b : Byte) : Option SectionId := if h : b.toNat < 12 then some ⟨b.toNat, h⟩ else none
def groupIndex (b : Byte) : Option GroupId := if h : b.toNat < 4 then some ⟨b.toNat, h⟩ else none

def portIndex (b : Byte) : Option PortId :=
  if b = 0 then some .control else if b = 1 then some .service else none

/-- A section side (R71): 0 to 11 for a section and 0xFF for NONE; any other value is out of range. -/
def sideField (b : Byte) : Option (Option SectionId) :=
  if b = absent then some none else (sectionIndex b).map some

/-! ## Codes of the enumerated items (R202), counted from 0 in the order listed -/

def DeviceState.code : DeviceState → Nat
  | .loading => 0
  | .configuring => 1
  | .starting => 2
  | .running => 3
  | .halting => 4

def SectionState.code : SectionState → Nat
  | .unused => 0
  | .disturbed => 1
  | .restoring => 2
  | .occupied => 3
  | .clearing => 4
  | .clear => 5

def Cause.code : Cause → Nat
  | .powerUp => 0
  | .deviceHalt => 1
  | .supplyLoss => 2
  | .supplyOff => 3
  | .pointWithdrawn => 4
  | .pointFault => 5
  | .confusedPassage => 6
  | .underflow => 7
  | .overflow => 8
  | .hostRequest => 9
  | .restoreCancelled => 10

def Mode.code : Mode → Nat
  | .outOfUse => 0
  | .supervising => 1
  | .counting => 2

def Mode.ofCode (b : Byte) : Option Mode :=
  if b = 0 then some .outOfUse else if b = 1 then some .supervising else if b = 2 then some .counting else none

def NotCounting.code : NotCounting → Nat
  | .mode => 1
  | .health => 2
  | .group => 3
  | .device => 4

/-- The item "not counting because": 0 while the point is counting (R202). -/
def notCountingByte (s : State) (p : PointId) : Byte := byte (((notCountingBecause s p).map NotCounting.code).getD 0)

def DirectionMachine.code : DirectionMachine → Nat
  | .idle => 0
  | .up1 => 1
  | .up2 => 2
  | .up3 => 3
  | .dn1 => 4
  | .dn2 => 5
  | .dn3 => 6
  | .confused => 7

def ConfusionCause.code : ConfusionCause → Nat
  | .simultaneousOnset => 0
  | .jump => 1
  | .startUp => 2

def Health.code : Health → Nat
  | .ok => 0
  | .warn => 1
  | .fault => 2

def FaultCause.code : FaultCause → Nat
  | .level => 0
  | .proofFailures => 1

def ProofResult.code : ProofResult → Nat
  | .pass => 0
  | .noResponse => 1
  | .noRelease => 2
  | .aborted => 3
  | .unfinished => 4

/-- The phase codes start with "none". -/
def phaseCode : Option Phase → Nat
  | none => 0
  | some .assert => 1
  | some .release => 2
  | some .abortWait => 3

def GroupState.code : GroupState → Nat
  | .off => 0
  | .enabling => 1
  | .settling => 2
  | .ready => 3
  | .failed => 4
  | .disabling => 5
  | .manual => 6

def FailReason.code : FailReason → Nat
  | .enableTimeout => 0
  | .settleDrop => 1
  | .supplyLoss => 2
  | .notOff => 3
  | .releasedUnpowered => 4
  | .releasedOff => 5

def Activity.code : Activity → Nat
  | .none => 0
  | .powerOn => 1
  | .powerOff => 2
  | .recycle _ => 3

def LoadResult.code : LoadResult → Nat
  | .none => 0
  | .corrupt => 1
  | .loaded => 2

def AutostartResult.code : AutostartResult → Nat
  | .notRequested => 0
  | .started => 1
  | .refused _ => 2

def StoreResult.code : StoreResult → Nat
  | .done => 0
  | .failed => 1

/-- The item codes start with "none". -/
def StartFault.code : StartFault → Nat
  | .sameSides _ => 1
  | .members _ => 2
  | .unbound _ => 3
  | .filterWindow _ => 4

def StartFault.index : StartFault → Nat
  | .sameSides p => p.val
  | .members n => n.val
  | .unbound p => p.val
  | .filterWindow p => p.val

def Drive.code : Drive → Nat
  | .low => 0
  | .armed => 1
  | .toggling => 2

def Direction.code : Direction → Nat
  | .up => 0
  | .down => 1

def Plausibility.code : Plausibility → Nat
  | .pass => 0
  | .irregular => 1

/-- The baud code: strap 1 the upper bit (R182, R202; notes/assumptions/17.md). -/
def Baud.code : Baud → Nat
  | .baud19200 => 0
  | .baud57600 => 1
  | .baud115200 => 2
  | .baud460800 => 3

def RefusalCode.code : RefusalCode → Nat
  | .unknownCommand => 0
  | .badLength => 1
  | .badArgument => 2
  | .notPermittedOnPort => 3
  | .wrongDeviceState => 4
  | .busy => 5
  | .configInvalid => 6
  | .sectionState => 7
  | .stale => 8
  | .holdoff => 9
  | .pointNotReady => 10
  | .pointActive => 11
  | .directNotPermitted => 12
  | .pointFault => 13
  | .notProven => 14
  | .state => 15
  | .groupState => 16

/-! ## CRC-16 (R183): polynomial x^16 + x^12 + x^5 + 1, initial value 0xFFFF, not reflected, not inverted -/

def crcBit (crc : BitVec 16) : BitVec 16 := if crc.msb then (crc <<< 1) ^^^ 0x1021#16 else crc <<< 1

def crcByte (crc : BitVec 16) (b : Byte) : BitVec 16 :=
  crcBit (crcBit (crcBit (crcBit (crcBit (crcBit (crcBit (crcBit (crc ^^^ (b.zeroExtend 16 <<< 8)))))))))

def crc16 (l : List Byte) : BitVec 16 := l.foldl crcByte 0xFFFF#16

/-- The CRC as sent, high byte first. -/
def crcBytes (l : List Byte) : List Byte := bytes2 (crc16 l).toNat

/-! ## Characters on a line (R182) -/

/-- The rate of a port in bits per second. -/
def Baud.rate : Baud → Nat
  | .baud19200 => 19200
  | .baud57600 => 57600
  | .baud115200 => 115200
  | .baud460800 => 460800

/-- The levels of a character on the line, `true` high: the low start bit, the data bits least significant bit first, and
the high stop bit. -/
def characterLevels (b : Byte) : List Bool := false :: (List.range 8).map b.getLsbD ++ [true]

/-- A received character by its data byte and the level of its stop bit: one whose stop bit reads low gives no byte. -/
def receivedCharacter (data : Byte) (stop : Bool) : Character := if stop then .byte data else .stopBitLow

/-- The level of a port's transmit line, CTXD or STXD, `true` high: the bit at position `k` of the frame being sent, and
high before and between frames. Which position the line has reached is a time that the model leaves out
(notes/assumptions/28.md). -/
def Port.lineLevel (q : Port) (k : Nat) : Bool :=
  match q.sending with
  | none => true
  | some f => (f.flatMap characterLevels).getD k true

/-! ## Clamping (R171) -/

/-- A value brought into its range. -/
def clamp (lo hi v : Nat) : Nat := max lo (min hi v)

/-- A range of a numeric parameter. -/
structure Range where
  lo : Nat
  hi : Nat
deriving DecidableEq, Repr

def Range.clamp (r : Range) (v : Nat) : Nat := Machine.clamp r.lo r.hi v
def Range.holds (r : Range) (v : Nat) : Bool := decide (r.lo ≤ v) && decide (v ≤ r.hi)

def spacingRange : Range := ⟨80, 250⟩
def filterRange : Range := ⟨5, 250⟩
def clearDelayRange : Range := ⟨0, 100⟩
def holdoffRange : Range := ⟨0, 60⟩
def delayRange : Range := ⟨0, 4095⟩
def settleRange : Range := ⟨50, 5000⟩
def burstRange : Range := ⟨1, 16⟩
def refillRange : Range := ⟨5, 1000⟩
def imagePeriodRange : Range := ⟨20, 2000⟩

/-- A link timeout of 0 stays 0; any other is brought into 100 to 10000 (R199). -/
def clampLinkTimeout (v : Nat) : Nat := if v = 0 then 0 else clamp 100 10000 v

/-! ## The twelve device-wide parameters (R172), in parameter-code order -/

inductive ParamCode
  | tol
  | vLimit
  | wGlitch
  | wIrregular
  | wOverspeed
  | wConfused
  | wProof
  | leakInterval
  | warnOn
  | fault
  | interval
  | response
deriving DecidableEq, Repr

def allParams : List ParamCode :=
  [.tol, .vLimit, .wGlitch, .wIrregular, .wOverspeed, .wConfused, .wProof, .leakInterval, .warnOn, .fault, .interval,
    .response]

/-- The parameter code of a SET DEVICE PARAMETERS item (R201). -/
def ParamCode.ofByte (b : Byte) : Option ParamCode := allParams[b.toNat]?

def ParamCode.range : ParamCode → Range
  | .tol => ⟨1, 15⟩
  | .vLimit => ⟨20, 500⟩
  | .wGlitch => ⟨0, 255⟩
  | .wIrregular => ⟨0, 255⟩
  | .wOverspeed => ⟨0, 255⟩
  | .wConfused => ⟨0, 255⟩
  | .wProof => ⟨0, 255⟩
  | .leakInterval => ⟨1, 60⟩
  | .warnOn => ⟨1, 254⟩
  | .fault => ⟨2, 255⟩
  | .interval => ⟨10, 600⟩
  | .response => ⟨5, 100⟩

def DeviceParams.get (d : DeviceParams) : ParamCode → Nat
  | .tol => d.tol
  | .vLimit => d.vLimit
  | .wGlitch => d.wGlitch
  | .wIrregular => d.wIrregular
  | .wOverspeed => d.wOverspeed
  | .wConfused => d.wConfused
  | .wProof => d.wProof
  | .leakInterval => d.leakInterval
  | .warnOn => d.warnOn
  | .fault => d.fault
  | .interval => d.interval
  | .response => d.response

def DeviceParams.put (d : DeviceParams) (c : ParamCode) (v : Nat) : DeviceParams :=
  match c with
  | .tol => { d with tol := v }
  | .vLimit => { d with vLimit := v }
  | .wGlitch => { d with wGlitch := v }
  | .wIrregular => { d with wIrregular := v }
  | .wOverspeed => { d with wOverspeed := v }
  | .wConfused => { d with wConfused := v }
  | .wProof => { d with wProof := v }
  | .leakInterval => { d with leakInterval := v }
  | .warnOn => { d with warnOn := v }
  | .fault => { d with fault := v }
  | .interval => { d with interval := v }
  | .response => { d with response := v }

/-- The threshold pair brought into order (R171): warn_on at fault or above becomes fault − 1. -/
def DeviceParams.ordered (d : DeviceParams) : DeviceParams :=
  if d.fault ≤ d.warnOn then { d with warnOn := d.fault - 1 } else d

/-- The bytes a parameter's value takes in the device record and the image: v_limit and P two, the others one
(R203, R204). -/
def ParamCode.bytes (c : ParamCode) (v : Nat) : List Byte :=
  match c with
  | .vLimit => bytes2 v
  | .interval => bytes2 v
  | .tol => [byte v]
  | .wGlitch => [byte v]
  | .wIrregular => [byte v]
  | .wOverspeed => [byte v]
  | .wConfused => [byte v]
  | .wProof => [byte v]
  | .leakInterval => [byte v]
  | .warnOn => [byte v]
  | .fault => [byte v]
  | .response => [byte v]

/-- The twelve values in parameter-code order, 14 bytes. -/
def DeviceParams.bytes (d : DeviceParams) : List Byte := allParams.flatMap (fun c => c.bytes (d.get c))

/-! ## Times in time units of 10 µs -/

/-- Milliseconds. -/
def ms (n : Nat) : Nat := 100 * n
/-- Seconds. -/
def seconds (n : Nat) : Nat := 100000 * n
/-- Tenths of a second, the unit of the clear delay. -/
def tenths (n : Nat) : Nat := 10000 * n
/-- The response window Tr, carried in units of 0.1 ms (R49). -/
def windowUnits (tr : Nat) : Nat := 10 * tr
/-- The quiet timer's fixed length, 500 ms (R17). -/
def quietLength : Nat := 50000
/-- The supply-good timeout, 100 ms (R147). -/
def supplyTimeout : Nat := 10000
/-- The off-time, 100 ms (R147). -/
def offTime : Nat := 10000
/-- The phase timer's fixed length, 5 ms (R176). -/
def phaseLength : Nat := 500
/-- The gap timer's length, 5 ms (R183). -/
def gapLength : Nat := 500
/-- The time within which the memory acknowledges a write once it is sent, 20 ms (R174). -/
def writeTimeout : Nat := 2000
/-- A supply-good level is accepted at the tenth differing sample (R146). -/
def supplyFilter : Nat := 10

end Sys2Proof.Machine
end

