-- ==== Sys2Proof/Machine/Ops.lean ====
section
/-! DEFINITION. Machine/Ops.lean: the named operations over the state. Every change of a point, section, group or of the
device record goes through one operation here, which posts the subject when its reportable content changes and keeps
what follows the change at the same event (the time of last change, the output drives). -/

namespace Sys2Proof.Machine

/-! ## Timers -/

/-- A timer started now. -/
def startTimer (now : Time) (length : Nat) : Timer := ⟨now, length⟩

/-- A periodic timer after its expiry: it runs again with the expiry time as its new start value (R37, R176, R193,
R194). -/
def Timer.again (t : Timer) : Timer := ⟨t.expiry, t.length⟩

/-- The change rule of R38, for a periodic timer: the period in progress keeps its start value and takes the new
length; if that is already reached the expiry is taken now and the next period starts now. -/
def Timer.retime (now : Time) (length : Nat) (t : Timer) : Timer :=
  if (Timer.mk t.start length).reached now then ⟨now, length⟩ else ⟨t.start, length⟩

/-- The change rule of R38 takes an expiry at the change. -/
def Timer.retimeExpires (now : Time) (length : Nat) (t : Timer) : Bool := (Timer.mk t.start length).reached now

/-- A saturating 16-bit tally raised by one. -/
def raise (tally : Nat) : Nat := min 65535 (tally + 1)

/-! ## Reportable content (R24, R47, R67, R78, R108, R129, R160, R175) -/

/-- The reportable content of a point, but for its topology entry. -/
structure PointContent where
  confused : Bool
  health   : Health
  cause    : Option FaultCause
  mode     : Mode
  provenA  : Bool
  provenB  : Bool
  overdueA : Bool
  overdueB : Bool
deriving DecidableEq, Repr

def Point.content (pt : Point) : PointContent :=
  { confused := pt.machine == .confused, health := pt.health, cause := pt.faultCause, mode := pt.mode,
    provenA := pt.proofA.proven, provenB := pt.proofB.proven, overdueA := pt.proofA.overdue,
    overdueB := pt.proofB.overdue }

/-- The reportable content of a section, but for its member set (R108). -/
structure SectionContent where
  state : SectionState
  count : Nat
  cause : Option Cause
  hold  : Bool
  sweep : Bool
  rc    : Word16
deriving DecidableEq, Repr

def SectionRecord.content (r : SectionRecord) : SectionContent :=
  { state := r.state, count := r.count, cause := r.cause, hold := r.hold, sweep := r.sweep, rc := r.rc }

/-- The reportable content of a group (R160). -/
structure GroupContent where
  state  : GroupState
  reason : Option FailReason
  forced : Option Bool
deriving DecidableEq, Repr

def Group.content (g : Group) : GroupContent := { state := g.state, reason := g.failReason, forced := g.forced }

/-- The reportable content of the device (R175). -/
structure DeviceContent where
  state      : DeviceState
  loadResult : Option LoadResult
  autostart  : Option AutostartResult
  storing    : Bool
  lastStore  : Option StoreResult
deriving DecidableEq, Repr

def Device.content (d : Device) : DeviceContent :=
  { state := d.state, loadResult := d.loadResult, autostart := d.autostart, storing := d.store.isSome,
    lastStore := d.lastStore }

/-! ## Changing a record -/

/-- A subject posted when a change is one of its reportable content. -/
def Ev.postIf (changed : Bool) (subject : Subject) (w : Ev) : Ev :=
  if changed then { w with posts := w.posts ++ [subject] } else w

/-- A trace record posted (R25, R68). -/
def Ev.trace (r : TraceRecord) (w : Ev) : Ev := { w with traces := w.traces ++ [r] }

/-- One change of a point's record. -/
def Ev.onPoint (p : PointId) (f : Point → Point) (w : Ev) : Ev :=
  Ev.postIf ((f (w.s.point p)).content != (w.s.point p).content) (.point p)
    { w with s := { w.s with points := w.s.points.set p (f (w.s.point p)) } }

/-- The drive state of a CLR output after a change of its section's state (R177). -/
def Drive.follow (before after : SectionState) (d : Drive) : Drive :=
  if before != .clear && after == .clear then .armed
  else if before == .clear && after != .clear then .low
  else d

/-- The time of last change is set when the state or the count changes (R108). -/
def SectionRecord.stamped (now : Time) (before after : SectionRecord) : SectionRecord :=
  if after.state != before.state || after.count != before.count then { after with lastChange := now } else after

/-- One change of a section's record: the time of last change, the posting and the section's clear output follow
(R108, R177). -/
def Ev.onSection (n : SectionId) (f : SectionRecord → SectionRecord) (w : Ev) : Ev :=
  Ev.postIf ((f (w.s.sec n)).content != (w.s.sec n).content) (.sec n)
    { w with s := { w.s with
        sections := w.s.sections.set n ((w.s.sec n).stamped w.s.now (f (w.s.sec n)))
        outputs := { w.s.outputs with
          clr := w.s.outputs.clr.set n
            ((w.s.outputs.clr.get n).follow (w.s.sec n).state (f (w.s.sec n)).state) } } }

/-- The time of last change is set at each change of state and of the forced level (R145). -/
def Group.stamped (now : Time) (before after : Group) : Group :=
  if after.state != before.state || after.forced != before.forced then { after with lastChange := now } else after

/-- One change of a group's record. -/
def Ev.onGroup (g : GroupId) (f : Group → Group) (w : Ev) : Ev :=
  Ev.postIf ((f (w.s.group g)).content != (w.s.group g).content) (.group g)
    { w with s := { w.s with groups := w.s.groups.set g ((w.s.group g).stamped w.s.now (f (w.s.group g))) } }

/-- RUN follows the device state: armed at the entry to RUNNING, low at the leaving (R179). -/
def Outputs.followDevice (before after : DeviceState) (o : Outputs) : Outputs :=
  if before != .running && after == .running then { o with run := .armed }
  else if before == .running && after != .running then { o with run := .low, runHigh := false }
  else o

/-- One change of the device record. -/
def Ev.onDevice (f : Device → Device) (w : Ev) : Ev :=
  Ev.postIf ((f w.s.device).content != w.s.device.content) .device
    { w with s := { w.s with
        device := f w.s.device
        outputs := w.s.outputs.followDevice w.s.device.state (f w.s.device).state } }

/-- A change of a point's entry in the point view (R88). -/
def Ev.onView (p : PointId) (f : PointView → PointView) (w : Ev) : Ev :=
  { w with s := { w.s with view := w.s.view.set p (f (w.s.view.get p)) } }

/-- A change of the supply sequencer outside its group records. -/
def Ev.onSequencer (f : Sequencer → Sequencer) (w : Ev) : Ev :=
  { w with s := { w.s with sequencer := f w.s.sequencer } }

/-- A change of the proof channel and the proof queue. -/
def Ev.onProofs (channel : Option Proof) (queue : List SystemId) (w : Ev) : Ev :=
  { w with s := { w.s with channel := channel, queue := queue } }

/-- A change of the device-wide parameters. -/
def Ev.onParams (f : DeviceParams → DeviceParams) (w : Ev) : Ev :=
  { w with s := { w.s with params := f w.s.params } }

/-! ## Parts of a point -/

def Point.onLine (x : Sys) (f : Line → Line) (pt : Point) : Point :=
  match x with
  | .a => { pt with lineA := f pt.lineA }
  | .b => { pt with lineB := f pt.lineB }

def Point.onProof (x : Sys) (f : ProofStatus → ProofStatus) (pt : Point) : Point :=
  match x with
  | .a => { pt with proofA := f pt.proofA }
  | .b => { pt with proofB := f pt.proofB }

/-! ## Ports -/

def State.port (s : State) : PortId → Port
  | .control => s.control
  | .service => s.service

def State.onPort (i : PortId) (f : Port → Port) (s : State) : State :=
  match i with
  | .control => { s with control := f s.control }
  | .service => { s with service := f s.service }

/-! ## The proof queue (R54, R55) -/

/-- A system joins the tail. The queue holds each system once, and a system under proof does not join. -/
def joinTail (x : SystemId) (s : State) : List SystemId :=
  if s.queue.contains x || underProof s x.point x.sys then s.queue else s.queue ++ [x]

/-- Both systems of a point leave the queue (R55). -/
def withoutPoint (p : PointId) (q : List SystemId) : List SystemId := q.filter (fun x => x.point != p)

end Sys2Proof.Machine
end

