-- ==== Sys2Proof/Machine/Sections.lean ====
section
/-! DEFINITION. Machine/Sections.lean: what a section does with count sides, notices, disturbances and its timers
(chapters 5 and 6), and the notices a counting point sends (sections 1.4 and 4.5). -/

namespace Sys2Proof.Machine

/-! ## One section (R89 to R105, R122) -/

/-- Entry to DISTURBED (R102). A section already DISTURBED keeps its cause, and an UNUSED one is left as it is. -/
def SectionRecord.disturb (cause : Cause) (r : SectionRecord) : SectionRecord :=
  if r.state.trusted then
    { r with state := .disturbed, cause := some cause, clearTimer := none, hold := false, sweep := false }
  else r

/-- The expiry check of R93. -/
def SectionRecord.expiryCheck (overdue : Bool) (r : SectionRecord) : SectionRecord :=
  if overdue then { r with state := .clearing, clearTimer := none, hold := true }
  else { r with state := .clear, clearTimer := none, hold := false }

/-- Entry to CLEARING (R93); with a clear delay of 0 the expiry check is applied at this event (R94). -/
def SectionRecord.enterClearing (now : Time) (overdue : Bool) (r : SectionRecord) : SectionRecord :=
  if r.clearDelay = 0 then r.expiryCheck overdue
  else { r with state := .clearing, clearTimer := some (startTimer now (tenths r.clearDelay)), hold := false }

/-- The evaluation of a section of the occupancy family (R92). -/
def SectionRecord.evaluate (now : Time) (active overdue : Bool) (r : SectionRecord) : SectionRecord :=
  let occupied := decide (0 < r.count) || active
  match r.state with
  | .occupied => if occupied then r else r.enterClearing now overdue
  | .clearing => if occupied then { r with state := .occupied, clearTimer := none, hold := false } else r
  | .clear => if occupied then { r with state := .occupied } else r
  | .unused => r
  | .disturbed => r
  | .restoring => r

/-- The evaluation of a RESTORING section (R122). -/
def SectionRecord.sweepEvaluate (now : Time) (active overdue : Bool) (r : SectionRecord) : SectionRecord :=
  if 0 < r.count then { r with sweep := true }
  else if r.sweep && !active then r.enterClearing now overdue
  else r

/-- What a section does after a count change or an active or quiet notice (R91 step 3, R92, R101, R122). -/
def SectionRecord.settle (now : Time) (active overdue : Bool) (r : SectionRecord) : SectionRecord :=
  match r.state with
  | .restoring => r.sweepEvaluate now active overdue
  | .occupied => r.evaluate now active overdue
  | .clearing => r.evaluate now active overdue
  | .clear => r.evaluate now active overdue
  | .unused => r
  | .disturbed => r

/-- The exit side of a counted count event (R89). -/
def SectionRecord.exitSide (r : SectionRecord) : SectionRecord :=
  if r.state.trusted then
    if r.count = 0 then r.disturb .underflow
    else { r with count := r.count - 1, exits := r.exits + 1 }
  else r

/-- The entry side of a counted count event (R90). -/
def SectionRecord.entrySide (r : SectionRecord) : SectionRecord :=
  if r.state.trusted then
    if 1023 ≤ r.count then r.disturb .overflow
    else { r with count := r.count + 1, entries := r.entries + 1 }
  else r

/-- A CLEAR section takes "proof overdue" (R97, R98). -/
def SectionRecord.takeOverdue (r : SectionRecord) : SectionRecord :=
  match r.state with
  | .clear => { r with state := .clearing, hold := true, clearTimer := none }
  | .unused => r
  | .disturbed => r
  | .restoring => r
  | .occupied => r
  | .clearing => r

/-- A CLEARING section held by its proof-hold flag takes "proof current" (R96, R98). -/
def SectionRecord.takeCurrent (overdue : Bool) (r : SectionRecord) : SectionRecord :=
  match r.state with
  | .clearing => if r.hold && !overdue then { r with state := .clear, hold := false } else r
  | .unused => r
  | .disturbed => r
  | .restoring => r
  | .occupied => r
  | .clear => r

/-- New section parameters with their effect on running timers (R86, R87, R112). -/
def SectionRecord.setParams (now : Time) (overdue : Bool) (clearDelay holdoff : Nat) (direct : Bool)
    (r : SectionRecord) : SectionRecord :=
  let r := { r with clearDelay := clearDelay, holdoff := holdoff, directPermitted := direct }
  let r := match r.holdoffTimer with
    | none => r
    | some t =>
      if (Timer.mk t.start (seconds holdoff)).reached now then { r with holdoffTimer := none }
      else { r with holdoffTimer := some ⟨t.start, seconds holdoff⟩ }
  match r.clearTimer with
  | none => r
  | some t =>
    if (Timer.mk t.start (tenths clearDelay)).reached now then r.expiryCheck overdue
    else { r with clearTimer := some ⟨t.start, tenths clearDelay⟩ }

/-- The kinds of restoration (chapter 6). -/
inductive RestoreKind
  | sweep
  | direct
deriving DecidableEq, Repr

def RestoreKind.code : RestoreKind → Nat
  | .sweep => 0
  | .direct => 1

def RestoreKind.ofCode (b : Byte) : Option RestoreKind :=
  if b = 0 then some .sweep else if b = 1 then some .direct else none

/-- The holdoff timer started at an acceptance: with a holdoff of 0 it is not left running (R112). -/
def holdoffStarted (now : Time) (holdoff : Nat) : Option Timer :=
  if holdoff = 0 then none else some (startTimer now (seconds holdoff))

/-- An accepted restore (R117), and the state it leads to by its kind (R118, R119). -/
def SectionRecord.restore (now : Time) (overdue : Bool) (kind : RestoreKind) (r : SectionRecord) : SectionRecord :=
  let r := { r with
    rc := r.rc + 1, count := 0, entries := 0, exits := 0, cause := none, sweep := false, hold := false,
    lastRestore := some now, holdoffTimer := holdoffStarted now r.holdoff }
  match kind with
  | .sweep => { r with state := .restoring, clearTimer := none }
  | .direct => r.enterClearing now overdue

/-- A change of the section's membership (R76): the section has, after it, at least one member or none. -/
def SectionRecord.takeMembership (used : Bool) (r : SectionRecord) : SectionRecord :=
  if used then
    if r.state = .unused then
      { r with state := .disturbed, cause := some .powerUp, count := 0, sweep := false, hold := false,
               clearTimer := none }
    else r
  else
    if r.state = .unused then r
    else { r with state := .unused, count := 0, cause := none, sweep := false, hold := false, clearTimer := none }

/-! ## Notices (R20, R21, R82, R88) -/

/-- One change at every section the point bounds, each once (R82). -/
def Ev.atSections (p : PointId) (f : State → SectionId → SectionRecord → SectionRecord) (w : Ev) : Ev :=
  (w.s.entry p).bounds.foldl (fun w n => w.onSection n (f w.s n)) w

/-- An active or quiet notice at one section. -/
def settleAt (s : State) (n : SectionId) (r : SectionRecord) : SectionRecord :=
  r.settle s.now (anyActive s n) (anyOverdue s n)

/-- "Point active" (R20). -/
def Ev.pointActive (p : PointId) (w : Ev) : Ev :=
  (w.onView p (fun v => { v with active := true })).atSections p settleAt

/-- "Point quiet" (R20). -/
def Ev.pointQuiet (p : PointId) (w : Ev) : Ev :=
  (w.onView p (fun v => { v with active := false })).atSections p settleAt

/-- "Point stopped counting" with its cause (R21, R103), and the CONFUSED_PASSAGE disturbance (R104): the point view
does not change. -/
def Ev.disturbAll (p : PointId) (cause : Cause) (w : Ev) : Ev :=
  w.atSections p (fun _ _ => SectionRecord.disturb cause)

/-- "Proof overdue" (R67, R97, R98). -/
def Ev.proofOverdue (p : PointId) (w : Ev) : Ev :=
  (w.onView p (fun v => { v with overdue := true })).atSections p (fun _ _ => SectionRecord.takeOverdue)

/-- "Proof current" (R67, R96, R98). -/
def Ev.proofCurrent (p : PointId) (w : Ev) : Ev :=
  (w.onView p (fun v => { v with overdue := false })).atSections p
    (fun s n => SectionRecord.takeCurrent (anyOverdue s n))

/-- One side of a counted count event at its section (R91): the side, then the evaluation, with the point's active
indication already off. -/
def Ev.takeSide (side : SectionRecord → SectionRecord) (n : Option SectionId) (w : Ev) : Ev :=
  match n with
  | none => w
  | some n => w.onSection n (fun r => settleAt w.s n (side r))

/-- A counted count event handed to the section it leaves and to the section it enters, standing as the point's quiet
notice (R15 step 3, R20, R81, R91). -/
def Ev.handOver (e : CountEvent) (w : Ev) : Ev :=
  ((w.onView e.point (fun v => { v with active := false })).takeSide SectionRecord.exitSide e.left).takeSide
    SectionRecord.entrySide e.entered

end Sys2Proof.Machine
end

