-- ==== Sys2Proof/Machine/Passages.lean ====
section
/-! DEFINITION. Machine/Passages.lean: the direction machine, the passage record and the timing arithmetic of a
completed passage (chapter 1 sections 1.3 and 1.4, chapter 2 section 2.2). -/

namespace Sys2Proof.Machine

/-! ## The passage record (R10, R11) -/

/-- A record opened at a change time, with no time field yet. -/
def Passage.opened (onset : Time) : Passage :=
  { onset := onset, aOn := none, bOn := none, aOff := none, bOff := none, reversal := false, partly := false }

/-- A system's change recorded (R11): to occupied keeps a present on-time and makes the off-time absent; to free
records the off-time. -/
def Passage.record (x : Sys) (occupied : Bool) (t : Time) (r : Passage) : Passage :=
  match x, occupied with
  | .a, true => { r with aOn := r.aOn.or (some t), aOff := none }
  | .a, false => { r with aOff := some t }
  | .b, true => { r with bOn := r.bOn.or (some t), bOff := none }
  | .b, false => { r with bOff := some t }

/-- A delivered change recorded for each system it changes, to the levels of the new pair. -/
def Passage.recordChange (chg : Lines) (a b : Bool) (t : Time) (r : Passage) : Passage :=
  match chg with
  | .a => r.record .a a t
  | .b => r.record .b b t
  | .both => (r.record .a a t).record .b b t

/-- The tested system's on-time made absent, and the partial flag set (R64). -/
def Passage.partlyFor (tested : Sys) (r : Passage) : Passage :=
  match tested with
  | .a => { r with aOn := none, partly := true }
  | .b => { r with bOn := none, partly := true }

/-! ## Timing of a completed passage (R28 to R34) -/

/-- A difference of two change times modulo 2^32, saturated at 65535 (R30). -/
def interval (later earlier : Time) : Nat := min 65535 (later - earlier).toNat

/-- The mean interval, rounded to nearest, halves upward (R33). -/
def meanInterval (lead trail : Nat) : Nat := (lead + trail + 1) / 2

/-- The speed in km/h from the spacing and the mean interval, rounded to nearest, halves upward, clamped to 511
(R33). -/
def speedOf (spacing mean : Nat) : Nat := min 511 ((spacing * 360 + mean / 2) / mean)

/-- The plausibility test (R32): diff × 16 ≤ tol × max. -/
def plausible (tol lead trail : Nat) : Bool :=
  decide ((max lead trail - min lead trail) * 16 ≤ tol * max lead trail)

/-- What the timing arithmetic gives (R28). -/
structure Timing where
  speed        : Option Nat
  plausibility : Option Plausibility
  irregular    : Bool
  overspeed    : Bool
deriving DecidableEq, Repr

/-- No result: a reversed or partial passage (R29). -/
def noTiming : Timing := { speed := none, plausibility := none, irregular := false, overspeed := false }

/-- The arithmetic on the two intervals (R31 to R34). -/
def timingOf (d : DeviceParams) (spacing lead trail : Nat) : Timing :=
  if lead = 65535 ∨ trail = 65535 then
    { speed := some 0, plausibility := none, irregular := false, overspeed := false }
  else
    { speed := some (speedOf spacing (meanInterval lead trail))
      plausibility := some (if plausible d.tol lead trail then .pass else .irregular)
      irregular := !plausible d.tol lead trail
      overspeed := decide (d.vLimit < speedOf spacing (meanInterval lead trail)) }

/-- The timing arithmetic of a count event (R28 to R34). -/
def Passage.timing (d : DeviceParams) (spacing : Nat) (dir : Direction) (r : Passage) : Timing :=
  if r.reversal || r.partly then noTiming
  else
    match r.aOn, r.bOn, r.aOff, r.bOff with
    | some aOn, some bOn, some aOff, some bOff =>
      match dir with
      | .up => timingOf d spacing (interval bOn aOn) (interval bOff aOff)
      | .down => timingOf d spacing (interval aOn bOn) (interval aOff bOff)
    | _, _, _, _ => noTiming

/-! ## The transition table (R9) -/

/-- The action named in a cell of the transition table. -/
inductive MoveAction
  | plain
  | openRecord
  | retreat (dir : Direction)
  | count (dir : Direction)
  | confuse (cause : ConfusionCause)
  | reversal
deriving DecidableEq, Repr

/-- The transition table of R9 for the seven states other than CONFUSED: the present state and the new pair (A,B),
`true` occupied. A cell that is "–" is `none`. -/
def transition : DirectionMachine → Bool → Bool → Option (DirectionMachine × MoveAction)
  | .idle, false, false => none
  | .idle, true, false => some (.up1, .openRecord)
  | .idle, false, true => some (.dn1, .openRecord)
  | .idle, true, true => some (.confused, .confuse .simultaneousOnset)
  | .up1, false, false => some (.idle, .retreat .up)
  | .up1, true, false => none
  | .up1, false, true => some (.confused, .confuse .jump)
  | .up1, true, true => some (.up2, .plain)
  | .up2, false, false => some (.confused, .confuse .jump)
  | .up2, true, false => some (.up1, .plain)
  | .up2, false, true => some (.up3, .plain)
  | .up2, true, true => none
  | .up3, false, false => some (.idle, .count .up)
  | .up3, true, false => some (.confused, .confuse .jump)
  | .up3, false, true => none
  | .up3, true, true => some (.up2, .reversal)
  | .dn1, false, false => some (.idle, .retreat .down)
  | .dn1, true, false => some (.confused, .confuse .jump)
  | .dn1, false, true => none
  | .dn1, true, true => some (.dn2, .plain)
  | .dn2, false, false => some (.confused, .confuse .jump)
  | .dn2, true, false => some (.dn3, .plain)
  | .dn2, false, true => some (.dn1, .plain)
  | .dn2, true, true => none
  | .dn3, false, false => some (.idle, .count .down)
  | .dn3, true, false => none
  | .dn3, false, true => some (.confused, .confuse .jump)
  | .dn3, true, true => some (.dn2, .reversal)
  | .confused, _, _ => none

/-- The quiet timer of a CONFUSED machine: running from a time while the pair is (0,0), otherwise stopped (R17). -/
def quietTimerFor (a b : Bool) (t : Time) : Option Timer := if a || b then none else some (startTimer t quietLength)

/-! ## Moves of the machine -/

/-- Entry to CONFUSED (R16, R17): the record in flight is closed; a machine that left IDLE sends "point active". -/
def Ev.enterConfused (p : PointId) (cause : ConfusionCause) (t : Time) (quiet : Option Timer) (w : Ev) : Ev :=
  let fromIdle := (w.s.point p).machine == .idle
  let w := w.onPoint p (fun pt =>
    { pt with machine := .confused, confusion := some ⟨cause, t⟩, passage := none, quietTimer := quiet })
  if fromIdle then w.pointActive p else w

/-- The machine moved to a state by an opening of a record, and "point active" sent (R9, R10, R20, R62, R64). What
belongs to CONFUSED alone is absent in every other state (R16, R17). -/
def Ev.openPassage (p : PointId) (m : DirectionMachine) (r : Passage) (w : Ev) : Ev :=
  (w.onPoint p (fun pt =>
    { pt with machine := m, passage := some r, confusion := none, quietTimer := none })).pointActive p

/-- A retreat (R12). -/
def Ev.retreat (p : PointId) (dir : Direction) (t : Time) (w : Ev) : Ev :=
  let onset := ((w.s.point p).passage.map Passage.onset).getD t
  let w := w.onPoint p (fun pt =>
    { pt with machine := .idle, passage := none, retreatTally := raise pt.retreatTally })
  (w.trace (.retreat p dir onset t)).pointQuiet p

/-- One delivered change of the systems `chg` to the pair (a,b) at change time `t`, for every cell of the table but the
two counts (R9, R11, R17). A proof's end delivers by this (R8): a system becoming occupied never completes a
crossing. -/
def Ev.deliverChange (p : PointId) (chg : Lines) (a b : Bool) (t : Time) (w : Ev) : Ev :=
  match (w.s.point p).machine with
  | .confused => w.onPoint p (fun pt => { pt with quietTimer := quietTimerFor a b t })
  | m =>
    match transition m a b with
    | none => w
    | some (next, .openRecord) => w.openPassage p next ((Passage.opened t).recordChange chg a b t)
    | some (next, .plain) =>
      w.onPoint p (fun pt => { pt with machine := next, passage := pt.passage.map (Passage.recordChange chg a b t) })
    | some (next, .reversal) =>
      w.onPoint p (fun pt =>
        { pt with machine := next
                  passage := pt.passage.map (fun r => { r.recordChange chg a b t with reversal := true }) })
    | some (_, .retreat dir) => w.retreat p dir t
    | some (_, .confuse cause) => w.enterConfused p cause t (quietTimerFor a b t)
    | some (_, .count _) => w

/-- The machine set to IDLE with its record discarded (R22); "point quiet" is sent if it was not IDLE. -/
def Ev.resetMachine (p : PointId) (w : Ev) : Ev :=
  let wasIdle := (w.s.point p).machine == .idle
  let w := w.onPoint p (fun pt =>
    { pt with machine := .idle, passage := none, confusion := none, quietTimer := none })
  if wasIdle then w else w.pointQuiet p

/-- Initialisation from the present accepted levels, a system under proof reading free (R19): IDLE when both read free,
else CONFUSED with cause START_UP and the quiet timer stopped. It begins from IDLE. -/
def Ev.initialise (p : PointId) (w : Ev) : Ev :=
  if reads w.s p .a || reads w.s p .b then w.enterConfused p .startUp w.s.now none else w

end Sys2Proof.Machine
end

