-- ==== Sys2Proof/Machine/Engine.lean ====
section
/-! DEFINITION. Machine/Engine.lean: proven epochs, point health and FAULT, count events, the proof channel, and the work
done when an event is done (chapters 1, 2 and 3, and sections 7.1 and 7.5). -/

namespace Sys2Proof.Machine

/-! ## Proof status and its notices (R51, R67) -/

/-- A change of a point's proof statuses; "proof overdue" or "proof current" is sent when the point's indication comes
on or goes off (R67). -/
def Ev.onProofStatus (p : PointId) (f : Point → Point) (w : Ev) : Ev :=
  let before := (w.s.point p).overdueIndication
  let w := w.onPoint p f
  let after := (w.s.point p).overdueIndication
  if !before && after then w.proofOverdue p
  else if before && !after then w.proofCurrent p
  else w

/-- The start of a proven epoch (R51). -/
def ProofStatus.epochStart (st : ProofStatus) : ProofStatus :=
  { st with proven := false, lastPass := none, due := true, overdue := true, dueTimer := none, overdueTimer := none }

/-- The end of a proven epoch (R51). -/
def ProofStatus.epochEnd (st : ProofStatus) : ProofStatus :=
  { st with due := false, overdue := true, dueTimer := none, overdueTimer := none }

/-- A pass (R60). -/
def ProofStatus.passed (now : Time) (interval : Nat) : ProofStatus :=
  { proven := true, lastPass := some now, due := false, overdue := false
    dueTimer := some (startTimer now (seconds interval))
    overdueTimer := some (startTimer now (2 * seconds interval))
    failures := 0, lastResult := some .pass }

/-- A system joins the tail of the queue (R54). -/
def Ev.join (x : SystemId) (w : Ev) : Ev := w.onProofs w.s.channel (joinTail x w.s)

/-- One system of a newly eligible point starts its epoch and joins the queue (R51). -/
def Ev.startEpoch (p : PointId) (x : Sys) (w : Ev) : Ev :=
  (w.onProofStatus p (Point.onProof x ProofStatus.epochStart)).join ⟨p, x⟩

/-- Both systems of a point become eligible, A before B (R50, R51, R54). -/
def Ev.gainEligibility (p : PointId) (w : Ev) : Ev := (w.startEpoch p .a).startEpoch p .b

/-- The PROOF trace record of the proof `pr` that ended at `finish` (R68). -/
def Ev.traceProof (pr : Proof) (result : ProofResult) (finish : Time) (w : Ev) : Ev :=
  w.trace (.proof pr.system result pr.takeTime pr.responseTime finish
    ((w.s.point pr.system.point).proof pr.system.sys).failures)

/-- At a proof's end a tested system that reads occupied is delivered as a change to occupied (R8). -/
def Ev.deliverEnd (x : SystemId) (t : Time) (w : Ev) : Ev :=
  if ((w.s.point x.point).line x.sys).accepted then
    w.deliverChange x.point x.sys.lines (reads w.s x.point .a) (reads w.s x.point .b) t
  else w

/-- The last result of a system (R53). -/
def Point.withResult (x : Sys) (r : ProofResult) (pt : Point) : Point :=
  pt.onProof x (fun st => { st with lastResult := some r })

/-- A proof under way on the point ends unfinished (R66). `deliver` is set when the cause is a FAULT entry: R8 then
applies. -/
def Ev.endUnfinished (p : PointId) (deliver : Bool) (w : Ev) : Ev :=
  match w.s.channel with
  | none => w
  | some pr =>
    if pr.system.point = p then
      let w := (w.onProofs none w.s.queue).onPoint p (Point.withResult pr.system.sys .unfinished)
      let w := w.traceProof pr .unfinished w.s.now
      if deliver then w.deliverEnd pr.system w.s.now else w
    else w

/-- Both systems of a point cease to be eligible (R51, R55, R66, R67): they leave the queue, a proof under way ends
unfinished, and their epochs end. -/
def Ev.loseEligibility (p : PointId) (deliver : Bool) (w : Ev) : Ev :=
  ((w.onProofs w.s.channel (withoutPoint p w.s.queue)).endUnfinished p deliver).onProofStatus p
    (fun pt => (pt.onProof .a ProofStatus.epochEnd).onProof .b ProofStatus.epochEnd)

/-! ## Health (section 2.3) -/

/-- The health state that follows from a level (R39). -/
def nextHealth (d : DeviceParams) (h : Health) (level : Nat) : Health :=
  match h with
  | .fault => .fault
  | .ok => if d.fault ≤ level then .fault else if d.warnOn ≤ level then .warn else .ok
  | .warn => if d.fault ≤ level then .fault else if level ≤ d.warnOn / 2 then .ok else .warn

/-- Entry to FAULT with its consequences (R41, R22, R66). -/
def Ev.enterFault (p : PointId) (cause : FaultCause) (w : Ev) : Ev :=
  let wasCounting := counting w.s p
  let w := w.onPoint p (fun pt =>
    { pt with health := .fault, faultCause := some cause, faultTime := some w.s.now })
  let w := if wasCounting then w.disturbAll p .pointFault else w
  let w := w.resetMachine p
  let w := if lit w.s p && inUse w.s p then w.initialise p else w
  w.loseEligibility p true

/-- The health state evaluated at the level as it stands (R39, R41). -/
def Ev.evaluateHealth (p : PointId) (w : Ev) : Ev :=
  let pt := w.s.point p
  match nextHealth w.s.params pt.health pt.level with
  | .fault => if pt.health = .fault then w else w.enterFault p .level
  | .ok => w.onPoint p (fun pt => { pt with health := .ok })
  | .warn => w.onPoint p (fun pt => { pt with health := .warn })

/-- The weights of one occasion added in one step, with its tallies, and one evaluation (R35, R36). -/
def Ev.addWeight (p : PointId) (weight : Nat) (tallies : Point → Point) (w : Ev) : Ev :=
  (w.onPoint p (fun pt => { tallies pt with level := min 255 (pt.level + weight) })).evaluateHealth p

/-- A device-wide leak at every point above level 0 (R37). -/
def Ev.leak (w : Ev) : Ev :=
  allPoints.foldl (fun w p =>
    if 0 < (w.s.point p).level then
      (w.onPoint p (fun pt => { pt with level := pt.level - 1 })).evaluateHealth p
    else w) w

/-! ## Count events (R13, R14, R15) -/

/-- The tallies and the last speed after a count event (R14, R34). -/
def Point.afterCount (dir : Direction) (speed : Option Nat) (pt : Point) : Point :=
  { pt with
    machine := .idle
    passage := none
    upTally := if dir = .up then pt.upTally + 1 else pt.upTally
    downTally := if dir = .down then pt.downTally + 1 else pt.downTally
    lastSpeed := speed.or pt.lastSpeed }

/-- The count event formed when a crossing in direction `dir` is completed at time `t` (R13). -/
def formEvent (s : State) (p : PointId) (dir : Direction) (t : Time) (tm : Timing) : CountEvent :=
  { point := p, direction := dir, time := t, speed := tm.speed, plausibility := tm.plausibility,
    left := (s.entry p).left dir, entered := (s.entry p).entered dir }

/-- The tallies of the anomalies of a count event (R35). -/
def Point.raiseTimingTallies (tm : Timing) (pt : Point) : Point :=
  { pt with
    irregularTally := if tm.irregular then raise pt.irregularTally else pt.irregularTally
    overspeedTally := if tm.overspeed then raise pt.overspeedTally else pt.overspeedTally }

/-- The weight of a count event: irregular and overspeed summed (R36). -/
def timingWeight (d : DeviceParams) (tm : Timing) : Nat :=
  (if tm.irregular then d.wIrregular else 0) + (if tm.overspeed then d.wOverspeed else 0)

/-- The work of one count event in the order of R15. `r` is the passage record as the last change left it. -/
def Ev.countEvent (p : PointId) (dir : Direction) (t : Time) (r : Passage) (w : Ev) : Ev :=
  let tm := r.timing w.s.params (w.s.point p).params.spacing dir
  let e := formEvent w.s p dir t tm
  let counted := counting w.s p
  let w := w.onPoint p (Point.afterCount dir tm.speed)
  let w := if counted && (e.left.isSome || e.entered.isSome) then w.handOver e else w.pointQuiet p
  let w := if tm.irregular || tm.overspeed then
      w.addWeight p (timingWeight w.s.params tm) (Point.raiseTimingTallies tm)
    else w
  w.trace (if counted then .counted e else .uncounted e)

/-- One delivered change, for every cell of the table (R9): the two counts, and the rest by `Ev.deliverChange`. -/
def Ev.deliver (p : PointId) (chg : Lines) (t : Time) (w : Ev) : Ev :=
  let a := reads w.s p .a
  let b := reads w.s p .b
  match transition (w.s.point p).machine a b with
  | some (_, .count dir) =>
    w.countEvent p dir t (((w.s.point p).passage.getD (Passage.opened t)).recordChange chg a b t)
  | _ => w.deliverChange p chg a b t

/-! ## Proofs (sections 3.4 to 3.6) -/

/-- A proof passes (R60). -/
def Ev.passProof (pr : Proof) (w : Ev) : Ev :=
  let p := pr.system.point
  let w := w.onProofs none w.s.queue
  let w := w.onProofStatus p (Point.onProof pr.system.sys (fun _ => ProofStatus.passed w.s.now w.s.params.interval))
  w.traceProof pr .pass w.s.now

/-- The engine's handling of a reported proof failure (R43). -/
def Ev.proofFailure (p : PointId) (failures : Nat) (w : Ev) : Ev :=
  let w := w.addWeight p w.s.params.wProof (fun pt => { pt with proofFailTally := raise pt.proofFailTally })
  if (w.s.point p).health != .fault && decide (2 ≤ failures) then w.enterFault p .proofFailures else w

/-- The failure recorded (R53, R61): the consecutive failure count does not pass 2. -/
def ProofStatus.failed (result : ProofResult) (st : ProofStatus) : ProofStatus :=
  { st with failures := min 2 (st.failures + 1), lastResult := some result }

/-- A proof fails at the expiry of its window, in the order of R61. The take of R56 that follows at this event may go to the
same system again. A change of that system to occupied at the same time value then goes to the proof controller (R57),
and not to the machine as R58 has it of a change after the proof: the model's choice (notes/assumptions/38.md). -/
def Ev.failProof (pr : Proof) (result : ProofResult) (w : Ev) : Ev :=
  let p := pr.system.point
  let finish := pr.window.expiry
  let w := (w.onProofs none w.s.queue).deliverEnd pr.system finish
  let w := w.onPoint p (Point.onProof pr.system.sys (ProofStatus.failed result))
  let failures := ((w.s.point p).proof pr.system.sys).failures
  let w := w.proofFailure p failures
  let w := if eligible w.s p then w.join pr.system else w
  w.trace (.proof pr.system result pr.takeTime pr.responseTime finish failures)

/-- The first state of the direction in which a system leads. -/
def firstState : Sys → DirectionMachine
  | .a => .up1
  | .b => .dn1

/-- The overlap state of the direction in which a system leads. -/
def overlapState : Sys → DirectionMachine
  | .a => .up2
  | .b => .dn2

/-- The partial record opened at an abort: the arriving system's on-time, and none for the tested system (R62). -/
def partialRecord (arriving : Sys) (t : Time) : Passage :=
  { (Passage.opened t).record arriving true t with partly := true }

/-- A proof is aborted by the other system's change to occupied at change time `t` (R62). -/
def Ev.abortProof (pr : Proof) (t : Time) (w : Ev) : Ev :=
  let p := pr.system.point
  let w := w.onProofs
    (some { pr with
      phase := .abortWait
      window := startTimer w.s.now (windowUnits w.s.params.response)
      readFree := !((w.s.point p).line pr.system.sys).accepted }) w.s.queue
  w.openPassage p (firstState pr.system.sys.other) (partialRecord pr.system.sys.other t)

/-- The proof controller takes an accepted change of the tested system (R58, R59, R63). -/
def Ev.testedChange (pr : Proof) (w : Ev) : Ev :=
  let occupied := ((w.s.point pr.system.point).line pr.system.sys).accepted
  match pr.phase with
  | .assert =>
    if occupied then
      w.onProofs (some { pr with
        phase := .release, responseTime := some w.s.now,
        window := startTimer w.s.now (windowUnits w.s.params.response) }) w.s.queue
    else w
  | .release => if occupied then w else w.passProof pr
  | .abortWait => if occupied then w else w.onProofs (some { pr with readFree := true }) w.s.queue

/-- The tested system delivered after an abort decision, with its own change time (R64). -/
def Ev.deliverOwn (x : SystemId) (w : Ev) : Ev := w.deliverEnd x ((w.s.point x.point).line x.sys).changeTime

/-- The abort decision acts on the machine as it stands (R64, the table). The system is no longer under proof. -/
def Ev.abortPlace (pr : Proof) (w : Ev) : Ev :=
  let p := pr.system.point
  let x := pr.system.sys
  let m := (w.s.point p).machine
  if m == firstState x.other then
    let w := w.onPoint p (fun pt => { pt with passage := pt.passage.map (Passage.partlyFor x) })
    if pr.readFree then w.deliverOwn pr.system
    else w.onPoint p (fun pt => { pt with machine := overlapState x })
  else if m == .idle then
    if pr.readFree then w.deliverOwn pr.system
    else w.openPassage p (firstState x) { Passage.opened pr.window.expiry with partly := true }
  else w

/-- A system returns to the head of the queue, which holds each system once (R54, R64). -/
def joinHead (x : SystemId) (s : State) : List SystemId := x :: s.queue.filter (fun y => y != x)

/-- The abort wait expires (R64): the decision, then the system returns to the head of the queue. -/
def Ev.decideAbort (pr : Proof) (w : Ev) : Ev :=
  let p := pr.system.point
  let w := (w.onProofs none w.s.queue).abortPlace pr
  let w := w.onPoint p (Point.withResult pr.system.sys .aborted)
  let w := if eligible w.s p then w.onProofs none (joinHead pr.system w.s) else w
  w.traceProof pr .aborted pr.window.expiry

/-- An entry of the queue the channel may take: its point's machine is IDLE and no staged pair waits (R56). -/
def takeable (s : State) (x : SystemId) : Bool :=
  (s.point x.point).machine == .idle && (s.point x.point).staged.isNone

/-- The free channel takes the first system of the queue that may be taken (R56). -/
def Ev.takeProof (w : Ev) : Ev :=
  match w.s.channel with
  | some _ => w
  | none =>
    match w.s.queue.find? (takeable w.s) with
    | none => w
    | some x =>
      w.onProofs
        (some { system := x, phase := .assert, takeTime := w.s.now, responseTime := none,
                window := startTimer w.s.now (windowUnits w.s.params.response), readFree := false })
        (w.s.queue.erase x)

/-! ## Staged parameters (R142) -/

/-- A point's staged pair may be applied: its machine is IDLE and no system of it is under proof (R141, R142). -/
def pairApplicable (s : State) (p : PointId) : Bool :=
  (s.point p).machine == .idle && !pointUnderProof s p

/-- The staged pair becomes the active pair (R141). -/
def Point.applyStaged (pt : Point) : Point :=
  match pt.staged with
  | none => pt
  | some q => { pt with params := q, staged := none }

/-- Every staged pair that may be applied is applied. -/
def Ev.applyStaged (w : Ev) : Ev :=
  allPoints.foldl (fun w p => if pairApplicable w.s p then w.onPoint p Point.applyStaged else w) w

/-- Some staged pair may be applied now. -/
def stagedReady (s : State) : Bool := allPoints.any (fun p => (s.point p).staged.isSome && pairApplicable s p)

/-- A free choice is made (Config.lean): the next choice has the next number. -/
def Ev.choose (w : Ev) : Ev := { w with s := { w.s with choices := w.s.choices + 1 } }

/-- Staged pairs and the proof channel when the work of an event is done (R56, R142). When both may act, either may
come first (R143): a free choice. -/
def Ev.settleProofs (w : Ev) : Ev :=
  if stagedReady w.s && w.s.channel.isNone && !w.s.queue.isEmpty then
    if Config.stagedFirst w.s.choices then w.choose.applyStaged.takeProof
    else w.choose.takeProof.applyStaged.takeProof
  else w.applyStaged.takeProof

end Sys2Proof.Machine
end

