-- ==== Sys2Proof/Machine/Supplies.lean ====
section
/-! DEFINITION. Machine/Supplies.lean: the supply groups, their sequences and recycles, and the lighting and darkening of
points (chapter 8), with the device-state changes that end a sequence (R153, R155, R169). -/

namespace Sys2Proof.Machine

/-! ## Group states (R145) -/

/-- A group changed to a state whose timer is stopped; the fail reason belongs to FAILED alone and the forced level to
MANUAL alone (R145). -/
def Group.toState (st : GroupState) (g : Group) : Group :=
  { g with state := st, timer := none, failReason := none, forced := none }

/-- A group in FAILED with its reason. -/
def Group.toFailed (reason : FailReason) (g : Group) : Group :=
  { g with state := .failed, timer := none, failReason := some reason, forced := none }

/-- A group in a state with its timer running. -/
def Group.toTimed (st : GroupState) (t : Timer) (g : Group) : Group :=
  { g with state := st, timer := some t, failReason := none, forced := none }

/-- A group in MANUAL with its forced level (R157). -/
def Group.toManual (on : Bool) (g : Group) : Group :=
  { g with state := .manual, timer := none, failReason := none, forced := some on }

/-- Entry to SETTLING (R149). -/
def Ev.enterSettling (g : GroupId) (w : Ev) : Ev :=
  w.onGroup g (Group.toTimed .settling (startTimer w.s.now (ms w.s.sequencer.params.settle)))

/-- Entry to ENABLING (R148): a supply already good goes on to SETTLING at the same event. -/
def Ev.enterEnabling (g : GroupId) (w : Ev) : Ev :=
  let w := w.onGroup g (Group.toTimed .enabling (startTimer w.s.now supplyTimeout))
  if (w.s.group g).good then w.enterSettling g else w

/-- Entry to DISABLING (R155). -/
def Ev.enterDisabling (g : GroupId) (w : Ev) : Ev :=
  w.onGroup g (Group.toTimed .disabling (startTimer w.s.now offTime))

/-! ## Lighting and darkening (R150, R151) -/

/-- One point lights (R150). -/
def Ev.lightPoint (p : PointId) (w : Ev) : Ev :=
  let w := if inUse w.s p then w.initialise p else w
  if eligible w.s p then w.gainEligibility p else w

/-- A group becomes READY and its points light in ascending order (R150). -/
def Ev.enterReady (g : GroupId) (w : Ev) : Ev :=
  (pointsOf g).foldl (fun w p => w.lightPoint p) (w.onGroup g (Group.toState .ready))

/-- The point was counting just before its group left READY, the device state and the point's own conditions being as
they stand. -/
def wasCounting (s : State) (p : PointId) : Bool :=
  (s.point p).mode == .counting && (s.point p).health != .fault && s.device.state == .running

/-- One point goes dark (R151, R22). -/
def Ev.darkenPoint (cause : Cause) (p : PointId) (w : Ev) : Ev :=
  let w := if wasCounting w.s p then w.disturbAll p cause else w
  (w.resetMachine p).loseEligibility p false

/-- A group leaves the state it is in by `f`; if that was READY its points go dark in ascending order (R151). -/
def Ev.leaveGroup (g : GroupId) (cause : Cause) (f : Group → Group) (w : Ev) : Ev :=
  let wasReady := (w.s.group g).state == .ready
  let w := w.onGroup g f
  if wasReady then (pointsOf g).foldl (fun w p => w.darkenPoint cause p) w else w

/-! ## Sequences (R152 to R155) -/

/-- The turn of a group in the power-on sequence (R152). -/
def Ev.turnOn (g : GroupId) (w : Ev) : Ev :=
  match (w.s.group g).state with
  | .off => w.enterEnabling g
  | .enabling => w
  | .settling => w
  | .ready => w
  | .failed => w
  | .disabling => w
  | .manual => w

/-- The turn of a group in the power-off sequence (R154). -/
def Ev.turnOff (g : GroupId) (w : Ev) : Ev :=
  match (w.s.group g).state with
  | .ready => w.leaveGroup g .supplyOff (Group.toTimed .disabling (startTimer w.s.now offTime))
  | .enabling => w.enterDisabling g
  | .settling => w.enterDisabling g
  | .off => w
  | .failed => w
  | .disabling => w
  | .manual => w

/-- The delay between two neighbouring groups, named by the lower (R147). -/
def SupplyParams.delay (q : SupplyParams) (lower : Nat) : Nat :=
  match lower with
  | 0 => q.delay01
  | 1 => q.delay12
  | _ => q.delay23

/-- The groups that still have their turn after `g`, with the delay to each from the one before it (R152, R154). -/
def turnsAfter (on : Bool) (q : SupplyParams) (g : GroupId) : List (GroupId × Nat) :=
  if on then ((allGroups.filter (fun h => g.val < h.val)).map (fun h => (h, q.delay (h.val - 1))))
  else ((allGroups.filter (fun h => h.val < g.val)).reverse.map (fun h => (h, q.delay h.val)))

/-- The turn of a group, then the turn timer to the next turn, or the next turn at this same event when its delay is 0
(R152, R154). -/
def Ev.giveTurns (on : Bool) (g : GroupId) : List (GroupId × Nat) → Ev → Ev
  | [], w =>
    (if on then w.turnOn g else w.turnOff g).onSequencer (fun q => { q with nextTurn := none, turnTimer := none })
  | (next, delay) :: rest, w =>
    let w := if on then w.turnOn g else w.turnOff g
    if delay = 0 then Ev.giveTurns on next rest w
    else w.onSequencer (fun q =>
      { q with nextTurn := some next, turnTimer := some (startTimer w.s.now (ms delay)) })

/-- The turn of a group of the running sequence. -/
def Ev.turn (on : Bool) (g : GroupId) (w : Ev) : Ev := w.giveTurns on g (turnsAfter on w.s.sequencer.params g)

/-- The power-on sequence starts: the turn of group 0 comes at this event (R152). -/
def Ev.startPowerOn (w : Ev) : Ev := (w.onSequencer (fun q => { q with activity := .powerOn })).turn true 0

/-- The power-off sequence starts: the turn of group 3 comes at this event (R154). -/
def Ev.startPowerOff (w : Ev) : Ev := (w.onSequencer (fun q => { q with activity := .powerOff })).turn false 3

/-- Some group is in one of the states. -/
def anyGroup (s : State) (f : GroupState → Bool) : Bool := allGroups.any (fun g => f (s.group g).state)

/-- A recycle is over when its group is READY, FAILED or MANUAL (R156). -/
def GroupState.endsRecycle : GroupState → Bool
  | .ready => true
  | .failed => true
  | .manual => true
  | .off => false
  | .enabling => false
  | .settling => false
  | .disabling => false

/-- No activity runs. -/
def Ev.endActivity (w : Ev) : Ev :=
  w.onSequencer (fun q => { q with activity := .none, nextTurn := none, turnTimer := none })

/-- The end of a sequence or recycle, tested when the work of an event is done (R153, R155, R156): the device enters
RUNNING after a power-on sequence (R169) and CONFIGURING after a power-off sequence (R170). -/
def Ev.settleActivity (w : Ev) : Ev :=
  match w.s.sequencer.activity with
  | .none => w
  | .powerOn =>
    if w.s.sequencer.nextTurn.isNone && !anyGroup w.s (fun st => st == .enabling || st == .settling) then
      w.endActivity.onDevice (fun d => { d with state := .running })
    else w
  | .powerOff =>
    if w.s.sequencer.nextTurn.isNone && !anyGroup w.s (fun st => st == .disabling) then
      w.endActivity.onDevice (fun d => { d with state := .configuring })
    else w
  | .recycle g => if (w.s.group g).state.endsRecycle then w.endActivity else w

/-- The work of an event is done: staged pairs, the proof channel, and the sequencer's activity. -/
def Ev.settle (w : Ev) : Ev := w.settleProofs.settleActivity

/-! ## The accepted supply-good level (R146, R148, R149, R151) -/

/-- The accepted supply-good level changes and acts by the group's state. -/
def Ev.supplyGoodChange (g : GroupId) (w : Ev) : Ev :=
  let good := !(w.s.group g).good
  let w := w.onGroup g (fun r => { r with good := good, pinHigh := good, run := 0 })
  match (w.s.group g).state with
  | .enabling => if good then w.enterSettling g else w
  | .settling => if good then w else w.onGroup g (Group.toFailed .settleDrop)
  | .ready => if good then w else w.leaveGroup g .supplyLoss (Group.toFailed .supplyLoss)
  | .off => w
  | .failed => w
  | .disabling => w
  | .manual => w

/-- The off-time expires (R155, R156). -/
def Ev.offTimeExpiry (g : GroupId) (w : Ev) : Ev :=
  if (w.s.group g).good then w.onGroup g (Group.toFailed .notOff)
  else if w.s.sequencer.activity = .recycle g then w.enterEnabling g
  else w.onGroup g (Group.toState .off)

end Sys2Proof.Machine
end

