-- ==== Sys2Proof/Machine/Records.lean ====
section
/-! DEFINITION. Machine/Records.lean: the frame envelope (R201), and the byte layouts of the section, point, group and
device records, the change report, the status image and the trace records (R203). -/

namespace Sys2Proof.Machine

/-! ## The envelope (R201) -/

/-- A frame of a kind with its TAG and body: the start byte, LEN, KIND, TAG, the body and the CRC. -/
def frame (kind tag : Byte) (body : List Byte) : List Byte :=
  let covered := byte (body.length + 2) :: kind :: tag :: body
  0xC3 :: covered ++ crcBytes covered

def replyKind : Byte := 0x80
def reportKind : Byte := 0x81
def statusKind : Byte := 0x82
def traceKind : Byte := 0x83

/-! ## Section record, 28 + 2m bytes -/

def memberBytes (s : State) (n : SectionId) (p : PointId) : List Byte :=
  [byte p.val,
   byte (flag ((s.entry p).up == some n) 0 + flag ((s.entry p).down == some n) 1 + flag (s.view.get p).active 2
     + flag (s.view.get p).overdue 3)]

def sectionRecord (s : State) (n : SectionId) : List Byte :=
  let r := s.sec n
  [byte n.val, byte r.state.code] ++ bytes2 r.count ++ [byteOr (r.cause.map Cause.code)]
    ++ bytes2 r.rc.toNat ++ bytes2 r.entries.toNat ++ bytes2 r.exits.toNat
    ++ [byte (flag r.sweep 0 + flag r.hold 1 + flag r.clearTimer.isSome 2 + flag r.lastRestore.isSome 3)]
    ++ bytes4Or (r.clearTimer.map Timer.expiry) ++ bytes4Or r.lastRestore ++ bytes4 r.lastChange
    ++ [byte (members s n).length] ++ (members s n).flatMap (memberBytes s n)
    ++ [byte r.clearDelay, byte r.holdoff, flagByte r.directPermitted]

/-! ## Point record, 61 bytes -/

def systemBytes (s : State) (p : PointId) (x : Sys) : List Byte :=
  let st := (s.point p).proof x
  [byte (flag (eligible s p) 0 + flag st.proven 1 + flag st.due 2 + flag st.overdue 3 + flag st.lastPass.isSome 4)]
    ++ bytes4Or st.lastPass
    ++ [byte st.failures, byteOr (st.lastResult.map ProofResult.code), byte (phaseCode (phaseOf s p x))]

def pointRecord (s : State) (p : PointId) : List Byte :=
  let pt := s.point p
  let e := s.entry p
  [byte p.val, byteOr (e.up.map Fin.val), byteOr (e.down.map Fin.val), byte pt.mode.code, byte pt.startMode.code,
   notCountingByte s p,
   byte (flag pt.lineA.accepted 0 + flag pt.lineB.accepted 1), byte pt.machine.code,
   byteOr (pt.confusion.map (fun c => c.cause.code))]
    ++ bytes4Or (pt.confusion.map Confusion.entry)
    ++ bytes2 pt.upTally.toNat ++ bytes2 pt.downTally.toNat
    ++ [byte pt.level, byte pt.health.code, byteOr (pt.faultCause.map FaultCause.code)] ++ bytes4Or pt.faultTime
    ++ bytes2Or pt.lastSpeed
    ++ bytes2 pt.glitchTally ++ bytes2 pt.retreatTally ++ bytes2 pt.irregularTally ++ bytes2 pt.overspeedTally
    ++ bytes2 pt.confusedTally ++ bytes2 pt.proofFailTally
    ++ bytes2 pt.params.spacing ++ [byte pt.params.filter]
    ++ bytes2Or (pt.staged.map PointParams.spacing) ++ [byteOr (pt.staged.map PointParams.filter)]
    ++ [byte (flag ((pt.confusion.map Confusion.cause) == some .startUp) 0 + flag pt.overdueIndication 1)]
    ++ systemBytes s p .a ++ systemBytes s p .b

/-! ## Group record, 13 bytes -/

def groupRecord (s : State) (g : GroupId) : List Byte :=
  let r := s.group g
  [byte g.val, byte r.state.code, byte (flag (enableLevel r) 0 + flag r.good 1 + flag r.timer.isSome 2),
   byteOr (r.failReason.map FailReason.code), byteOr (r.forced.map (fun on => if on then 1 else 0))]
    ++ bytes4Or (r.timer.map Timer.expiry) ++ bytes4 r.lastChange

/-! ## Device record, 168 bytes -/

/-- A detector system in one byte: point × 2, plus 1 for B (R202). -/
def systemByte (x : SystemId) : Byte := byte (x.point.val * 2 + x.sys.code)

/-- The load result, autostart result, item code and index. An autostart that is not REFUSED has item code none and no
index (notes/assumptions/13.md). -/
def autostartBytes (d : Device) : List Byte :=
  match d.autostart with
  | some (.refused item) => [byte (AutostartResult.refused item).code, byte item.code, byte item.index]
  | some r => [byte r.code, 0, absent]
  | none => [absent, 0, absent]

/-- The group a sequence gives its next turn to, or the group of a recycle (R159). -/
def activityGroup (q : Sequencer) : Option GroupId :=
  match q.activity with
  | .recycle g => some g
  | .none => q.nextTurn
  | .powerOn => q.nextTurn
  | .powerOff => q.nextTurn

def ClassMask.bits (m : ClassMask) : Nat :=
  flag m.sections 0 + flag m.points 1 + flag m.supplies 2 + flag m.device 3

def portBytes (q : Port) : List Byte :=
  [byte q.baud.code] ++ bytes2 q.frameErrors ++ bytes2 q.overruns
    ++ [byte q.mask.bits, byte q.queue.length, byte q.tokens, byte q.burst] ++ bytes2 q.refillPeriod
    ++ [q.sendSequence]

/-- The device record (R203). R147 has the supply parameters read by query, and no record of R203 has a place for them:
the model sends the 168 bytes of R203 and no delay or settle time, its own choice (notes/assumptions/34.md). -/
def deviceRecord (s : State) : List Byte :=
  let d := s.device
  [byte d.state.code, byteOr (d.loadResult.map LoadResult.code),
   byte (flag d.loadAdjusted 0 + flag d.store.isSome 1 + flag s.outputs.phaseHigh 2)]
    ++ autostartBytes d ++ [byteOr (d.lastStore.map StoreResult.code)]
    ++ s.params.bytes ++ bytes4 s.now
    ++ [(s.channel.map (fun pr => systemByte pr.system)).getD absent, byte (phaseCode (s.channel.map Proof.phase)),
        byte s.queue.length]
    ++ (s.queue.map systemByte ++ List.replicate (32 - s.queue.length) absent)
    ++ [byte s.sequencer.activity.code, byteOr ((activityGroup s.sequencer).map Fin.val)]
    ++ bytes4Or (s.sequencer.turnTimer.map Timer.expiry)
    ++ allGroups.flatMap (groupRecord s)
    ++ (allSections.map (fun n => byte (s.outputs.clr.get n).code) ++ [byte s.outputs.run.code])
    ++ portBytes s.control ++ portBytes s.service
    ++ [byte (if s.link.up then 0 else 1)] ++ bytes2 s.link.timeout ++ bytes2 s.link.imagePeriod
    ++ bytes2 s.trace.pointMask.toNat ++ [s.trace.kindMask] ++ bytes2 s.trace.sectionMask.toNat
    ++ [byte s.trace.buffer.length] ++ bytes2 s.trace.drops

/-! ## Change reports, status image and trace records -/

/-- The device's content in a change report, 11 bytes (R190, R203). -/
def deviceReport (s : State) : List Byte :=
  [byte s.device.state.code, byteOr (s.device.loadResult.map LoadResult.code)] ++ autostartBytes s.device
    ++ [flagByte s.device.store.isSome, byteOr (s.device.lastStore.map StoreResult.code)] ++ bytes4 s.now

/-- The class and index of a subject, and its content as it stands (R190). -/
def reportBody (s : State) (e : ReportEntry) : List Byte :=
  match e.subject with
  | .sec n => [0, byte n.val, byte e.changes] ++ sectionRecord s n
  | .point p => [1, byte p.val, byte e.changes] ++ pointRecord s p
  | .group g => [2, byte g.val, byte e.changes] ++ groupRecord s g
  | .device => [3, Config.deviceReportIndex, byte e.changes] ++ deviceReport s

/-- The status image (R194, R203). -/
def statusBody (s : State) : List Byte :=
  [byte s.device.state.code, byte (if s.link.up then 0 else 1)]
    ++ allSections.flatMap (fun n => byte (s.sec n).state.code :: bytes2 (s.sec n).count)

def countBytes (e : CountEvent) : List Byte :=
  [byte e.point.val, byte e.direction.code] ++ bytes4 e.time ++ bytes2Or e.speed
    ++ [byteOr (e.plausibility.map Plausibility.code), byteOr (e.left.map Fin.val), byteOr (e.entered.map Fin.val)]

/-- The kind byte of a trace record: COUNTED 0 to PROOF 5, GAP 6 (R203). -/
def TraceRecord.kind : TraceRecord → Nat
  | .counted _ => 0
  | .uncounted _ => 1
  | .retreat _ _ _ _ => 2
  | .confused _ _ _ _ => 3
  | .glitch _ _ _ _ => 4
  | .proof _ _ _ _ _ _ => 5
  | .gap _ => 6

/-- A time with its presence byte (R202). -/
def presentTime (t : Option Time) : List Byte := flagByte t.isSome :: bytes4Or t

def TraceRecord.fields : TraceRecord → List Byte
  | .counted e => countBytes e
  | .uncounted e => countBytes e
  | .retreat p d onset t => [byte p.val, byte d.code] ++ bytes4 onset ++ bytes4 t
  | .confused p cause entry expiry =>
    [byte p.val, byte cause.code] ++ bytes4 entry ++ bytes4 expiry ++ [flagByte (cause == .startUp)]
  | .glitch p x start length => [byte p.val, byte x.code] ++ bytes4 start ++ [length]
  | .proof x result take response finish failures =>
    [byte x.point.val, byte x.sys.code, byte result.code] ++ bytes4 take ++ presentTime response ++ bytes4 finish
      ++ [byte failures]
  | .gap drops => bytes2 drops

def traceBody (r : TraceRecord) : List Byte := byte r.kind :: r.fields

/-- A reply body (R202): the command's KIND, the result, then the data, or the refusal code and its data. -/
def Reply.body (r : Reply) : List Byte :=
  match r.result with
  | .accepted data => r.kind :: 0 :: data
  | .refused code data => r.kind :: 1 :: byte code.code :: data

end Sys2Proof.Machine
end

