-- ==== Sys2Proof/Machine/Ports.lean ====
section
/-! DEFINITION. Machine/Ports.lean: the report queues, the trace buffer, the transmitters, and the taking of a command
frame (chapter 11). -/

namespace Sys2Proof.Machine

/-! ## Report queues (R189) -/

def Subject.inMask (m : ClassMask) : Subject → Bool
  | .sec _ => m.sections
  | .point _ => m.points
  | .group _ => m.supplies
  | .device => m.device

/-- `n` reportable changes of a subject posted to one queue: the subject joins at the tail, or keeps its place with its
changes count raised, saturating at 255 (R189). -/
def postToQueue (x : Subject) (n : Nat) (q : List ReportEntry) : List ReportEntry :=
  if q.any (fun e => e.subject == x) then
    q.map (fun e => if e.subject == x then { e with changes := min 255 (e.changes + n) } else e)
  else q ++ [⟨x, min 255 n⟩]

/-- The posting as one port takes it, by its own mask (R189). -/
def Port.post (x : Subject) (n : Nat) (q : Port) : Port :=
  if x.inMask q.mask then { q with queue := postToQueue x n q.queue } else q

/-- The subjects in the order in which those changed at one event join (R189). -/
def allSubjects : List Subject :=
  .device :: (allGroups.map Subject.group ++ allPoints.map Subject.point ++ allSections.map Subject.sec)

/-- The changes of one event posted to a port: each reportable change counts once (R189). -/
def Port.postAll (posts : List Subject) (q : Port) : Port :=
  allSubjects.foldl (fun q x => if posts.contains x then q.post x (posts.count x) else q) q

/-! ## Trace (R196, R197) -/

def TraceRecord.point : TraceRecord → Option PointId
  | .counted e => some e.point
  | .uncounted e => some e.point
  | .retreat p _ _ _ => some p
  | .confused p _ _ _ => some p
  | .glitch p _ _ _ => some p
  | .proof x _ _ _ _ _ => some x.point
  | .gap _ => none

/-- A passage record names the section. -/
def CountEvent.names (e : CountEvent) (n : Nat) : Bool :=
  (e.left.map Fin.val) == some n || (e.entered.map Fin.val) == some n

/-- The section mask (R196): empty, or a passage record whose section left or entered is in the set. Where R68 and R196
differ, on a PROOF record under a mask that is not empty, the model follows R196, the rule of the block that owns the
filter: its own choice (notes/assumptions/31.md). -/
def passesSections (mask : BitVec 16) : TraceRecord → Bool
  | .counted e => mask == 0 || (List.range 12).any (fun n => mask.getLsbD n && e.names n)
  | .uncounted e => mask == 0 || (List.range 12).any (fun n => mask.getLsbD n && e.names n)
  | .retreat _ _ _ _ => mask == 0
  | .confused _ _ _ _ => mask == 0
  | .glitch _ _ _ _ => mask == 0
  | .proof _ _ _ _ _ _ => mask == 0
  | .gap _ => mask == 0

/-- A record passes all three masks of the filter in force (R196). -/
def Trace.passes (t : Trace) (r : TraceRecord) : Bool :=
  (match r.point with
   | none => false
   | some p => t.pointMask.getLsbD p.val) && t.kindMask.getLsbD r.kind && passesSections t.sectionMask r

/-- A record that passes the filter is placed by the table of R197. -/
def Trace.place (r : TraceRecord) (t : Trace) : Trace :=
  if t.drops = 0 then
    if t.buffer.length < 64 then { t with buffer := t.buffer ++ [r] } else { t with drops := 1 }
  else if t.buffer.length + 2 ≤ 64 then { t with buffer := t.buffer ++ [.gap t.drops, r], drops := 0 }
  else { t with drops := raise t.drops }

/-- A posted record filtered and placed, or discarded. -/
def Trace.take (r : TraceRecord) (t : Trace) : Trace := if t.passes r then t.place r else t

/-- The records of one event in ascending point order, and those of one point in ascending order of kind (R197). -/
def traceOrder (l : List TraceRecord) : List TraceRecord :=
  allPoints.flatMap (fun p =>
    (List.range 6).flatMap (fun k => l.filter (fun r => r.point == some p && r.kind == k)))

/-! ## Transmitters (R188) -/

/-- A frame of a kind that the part sends unasked: its TAG is the port's send sequence, which rises by one (R188). -/
def Port.sendUnasked (kind : Byte) (body : List Byte) (q : Port) : Port :=
  { q with sending := some (frame kind q.sendSequence body), sendSequence := q.sendSequence + 1 }

/-- The trace buffer's turn, on the service port alone (R188, R197). -/
def State.sendTrace (i : PortId) (s : State) : State :=
  match i, s.trace.buffer with
  | .service, r :: rest =>
    { s with service := s.service.sendUnasked traceKind (traceBody r), trace := { s.trace with buffer := rest } }
  | _, _ => s

/-- A report is ready: the queue is not empty, a token is held, and on the control port the link is UP (R188). -/
def reportReady (s : State) (i : PortId) : Bool :=
  !(s.port i).queue.isEmpty && decide (0 < (s.port i).tokens) && (i == .service || s.link.up)

/-- The report of the head of the queue begins (R190). -/
def State.sendReport (i : PortId) (s : State) : State :=
  match (s.port i).queue with
  | [] => s
  | e :: rest =>
    s.onPort i (fun q =>
      { q with queue := rest, tokens := q.tokens - 1 }.sendUnasked reportKind (reportBody s e))

/-- The status image begins: the due flag is cleared (R194). -/
def State.sendStatus (s : State) : State :=
  { s with control := s.control.sendUnasked statusKind (statusBody s), link := { s.link with imageDue := false } }

/-- A free transmitter chooses the next frame: reply, status image, report, trace (R188). -/
def State.transmit (i : PortId) (s : State) : State :=
  match (s.port i).sending with
  | some _ => s
  | none =>
    match (s.port i).replies with
    | r :: rest =>
      s.onPort i (fun q => { q with replies := rest, sending := some (frame replyKind r.tag r.body) })
    | [] =>
      if i == .control && s.link.imageDue then s.sendStatus
      else if reportReady s i then s.sendReport i
      else s.sendTrace i

/-- Both transmitters choose. -/
def State.transmitBoth (s : State) : State := (s.transmit .control).transmit .service

/-- The end of an event: its changes are posted to both queues, its trace records placed, and the transmitters
choose. The postings come before the sends of their event, and each command's sends before the next command's postings,
also when both are taken at one time-counter value. R95, R192 and R197 leave either order open: the model's choice
(notes/assumptions/35.md). -/
def Ev.finish (w : Ev) : State :=
  State.transmitBoth { w.s with
    control := w.s.control.postAll w.posts
    service := w.s.service.postAll w.posts
    trace := (traceOrder w.traces).foldl (fun t r => t.take r) w.s.trace }

/-- The work of one event from a state. -/
def runEvent (f : Ev → Ev) (s : State) : State := (f ⟨s, [], []⟩).finish

/-! ## Commands (R184) -/

/-- What the owning block answers: a refusal, which changes nothing, or its changes and the data of the acceptance. -/
abbrev Answer := Except (RefusalCode × List Byte) (Ev × List Byte)

def refuse (code : RefusalCode) (data : List Byte) : Answer := .error (code, data)

def accept (w : Ev) (data : List Byte) : Answer := .ok (w, data)

/-- The first check: refused with a code and its data when it does not hold. -/
def require (ok : Bool) (code : RefusalCode) (data : List Byte) (next : Answer) : Answer :=
  if ok then next else refuse code data

/-- An index or code that must be in its set, else BAD_ARGUMENT. -/
def withArgument {α : Type} (x : Option α) (next : α → Answer) : Answer :=
  match x with
  | none => refuse .badArgument []
  | some a => next a

/-- A valid frame taken by link supervision (R195): the timer restarts and the link is UP. -/
def Link.frameTaken (now : Time) (l : Link) : Link :=
  { l with up := true, timer := if l.timeout = 0 then none else some (startTimer now (ms l.timeout)) }

/-- A valid frame completes on a port: the assembly takes up the next character in HUNTING (R183), and on the control
port link supervision takes the frame (R184 step 1, R195). -/
def State.frameTaken (i : PortId) (s : State) : State :=
  match i with
  | .control =>
    { s with control := { s.control with assembly := .hunting, gapTimer := none }, link := s.link.frameTaken s.now }
  | .service => { s with service := { s.service with assembly := .hunting, gapTimer := none } }

/-- A reply placed at the tail of the reply FIFO (R184 step 5, R185). -/
def State.reply (i : PortId) (r : Reply) (s : State) : State :=
  s.onPort i (fun q => { q with replies := q.replies ++ [r] })

/-- A command discarded by overrun (R184 step 2). -/
def State.overrun (i : PortId) (s : State) : State := s.onPort i (fun q => { q with overruns := raise q.overruns })

/-- The reply of an answer placed, and the event finished. -/
def Answer.conclude (i : PortId) (kind tag : Byte) (s : State) : Answer → State
  | .ok (w, data) => ({ w with s := w.s.reply i ⟨kind, tag, .accepted data⟩ }).finish
  | .error (code, data) => (Ev.mk (s.reply i ⟨kind, tag, .refused code data⟩) [] []).finish

/-- The ports on which a command is permitted (R186). -/
inductive Permitted
  | both
  | controlOnly
  | serviceOnly
deriving DecidableEq, Repr

def Permitted.on : Permitted → PortId → Bool
  | .both, _ => true
  | .controlOnly, .control => true
  | .controlOnly, .service => false
  | .serviceOnly, .control => false
  | .serviceOnly, .service => true

/-- A valid frame of a command kind, in the steps of R184: link supervision, overrun, the port checks, the owning block,
the reply. `fits` judges the body length. -/
def takeCommand (kind : Byte) (permitted : Permitted) (fits : Nat → Bool) (act : List Byte → Ev → Answer)
    (i : PortId) (tag : Byte) (body : List Byte) (s : State) : State :=
  let s := s.frameTaken i
  if 4 ≤ (s.port i).replies.length then runEvent id (s.overrun i)
  else Answer.conclude i kind tag s
    (require (permitted.on i) .notPermittedOnPort []
      (require (fits body.length) .badLength [] (act body ⟨s, [], []⟩)))

/-! ## Pacing and link parameters (R193, R194, R195, R199) -/

/-- One token more, up to burst (R193). -/
def Port.addToken (q : Port) : Port := { q with tokens := if q.tokens < q.burst then q.tokens + 1 else q.tokens }

/-- New burst and refill period (R193). The burst is in force before the refill period acts, so the token of an expiry taken
at the change is judged against the new burst: the model's choice (notes/assumptions/36.md). -/
def Port.setPacing (now : Time) (burst period : Nat) (q : Port) : Port :=
  let q := { q with burst := burst, tokens := min q.tokens burst }
  if period = q.refillPeriod then q
  else
    let r := { q with refillPeriod := period, refillTimer := q.refillTimer.retime now (ms period) }
    if q.refillTimer.retimeExpires now (ms period) then r.addToken else r

/-- A new image period (R194). -/
def Link.setImagePeriod (now : Time) (period : Nat) (l : Link) : Link :=
  if period = l.imagePeriod then l
  else
    { l with imagePeriod := period, imageTimer := l.imageTimer.retime now (ms period)
             imageDue := l.imageDue || l.imageTimer.retimeExpires now (ms period) }

/-- A new link timeout (R195). -/
def Link.setTimeout (now : Time) (timeout : Nat) (l : Link) : Link :=
  if timeout = l.timeout then l
  else if timeout = 0 then { l with timeout := 0, timer := none, up := true }
  else if l.timeout = 0 then { l with timeout := timeout, timer := some (startTimer now (ms timeout)) }
  else
    match l.timer with
    | none => { l with timeout := timeout }
    | some t =>
      if (Timer.mk t.start (ms timeout)).reached now then { l with timeout := timeout, timer := none, up := false }
      else { l with timeout := timeout, timer := some ⟨t.start, ms timeout⟩ }

end Sys2Proof.Machine
end

