-- ==== Sys2Proof/Machine/Configuration.lean ====
section
/-! DEFINITION. Machine/Configuration.lean: setting the topology and the parameters, the start checks, and the
configuration image (chapter 4, chapter 9 and R204). -/

namespace Sys2Proof.Machine

/-! ## Topology (R76, R78) -/

/-- The membership of one section after a change of the table: R76, and a reportable change when the member set has
changed (R78, R108). -/
def Ev.takeMembership (old : Table 16 TopologyEntry) (n : SectionId) (w : Ev) : Ev :=
  let before := w.s.sec n
  let w := w.onSection n (SectionRecord.takeMembership (!(members w.s n).isEmpty))
  Ev.postIf (membersIn old n != members w.s n && (w.s.sec n).content == before.content) (.sec n) w

/-- The table replaced at one event, with membership derived anew from the whole table (R78, R84). -/
def Ev.setTopology (t : Table 16 TopologyEntry) (w : Ev) : Ev :=
  let old := w.s.topology
  let w := { w with s := { w.s with topology := t } }
  let w := allPoints.foldl (fun w p => w.postIf (old.get p != t.get p) (.point p)) w
  allSections.foldl (fun w n => w.takeMembership old n) w

/-! ## Start checks (R79, R166, R167) -/

/-- The point's start mode is SUPERVISING or COUNTING. -/
def startsInUse (s : State) (p : PointId) : Bool := (s.point p).startMode != .outOfUse

/-- Checks 3 to 6 of START, each in ascending index order: the first failing item. -/
def startFault (s : State) : Option StartFault :=
  match allPoints.find? (fun p => (s.entry p).up.isSome && (s.entry p).up == (s.entry p).down) with
  | some p => some (.sameSides p)
  | none =>
    match allSections.find? (fun n => decide (4 < (members s n).length)) with
    | some n => some (.members n)
    | none =>
      match allPoints.find? (fun p => startsInUse s p && (s.entry p).bounds.isEmpty) with
      | some p => some (.unbound p)
      | none =>
        (allPoints.find? (fun p =>
          startsInUse s p && decide (windowUnits s.params.response ≤ (s.point p).params.filter - 1))).map .filterWindow

/-! ## Device-wide parameters (R38, R44, R52, R172) -/

/-- The due timer expires: the system is due and joins the tail of the queue (R52, R54). -/
def Ev.dueExpiry (p : PointId) (x : Sys) (w : Ev) : Ev :=
  (w.onProofStatus p (Point.onProof x (fun st => { st with due := true, dueTimer := none }))).join ⟨p, x⟩

/-- The overdue timer expires: the system is overdue (R52, R67). -/
def Ev.overdueExpiry (p : PointId) (x : Sys) (w : Ev) : Ev :=
  w.onProofStatus p (Point.onProof x (fun st => { st with overdue := true, overdueTimer := none }))

/-- A new proof interval on one system's due timer (R52). -/
def Ev.retimeDue (interval : Nat) (p : PointId) (x : Sys) (w : Ev) : Ev :=
  match ((w.s.point p).proof x).dueTimer with
  | none => w
  | some t =>
    if (Timer.mk t.start (seconds interval)).reached w.s.now then w.dueExpiry p x
    else w.onPoint p (Point.onProof x (fun st => { st with dueTimer := some ⟨t.start, seconds interval⟩ }))

/-- A new proof interval on one system's overdue timer (R52). -/
def Ev.retimeOverdue (interval : Nat) (p : PointId) (x : Sys) (w : Ev) : Ev :=
  match ((w.s.point p).proof x).overdueTimer with
  | none => w
  | some t =>
    if (Timer.mk t.start (2 * seconds interval)).reached w.s.now then w.overdueExpiry p x
    else w.onPoint p (Point.onProof x (fun st =>
      { st with overdueTimer := some ⟨t.start, 2 * seconds interval⟩ }))

/-- A new proof interval on every system's timers (R52). Systems that become due join in ascending order, A before B
(R54). A system's due timer acts before its overdue timer: the model's choice (notes/assumptions/37.md). -/
def Ev.retimeProofs (interval : Nat) (w : Ev) : Ev :=
  allPoints.foldl (fun w p =>
    bothSystems.foldl (fun w x => (w.retimeDue interval p x).retimeOverdue interval p x) w) w

/-- A new leak interval on the running leak period (R38): at most one leak is taken for the change. -/
def Ev.retimeLeak (interval : Nat) (w : Ev) : Ev :=
  let t := w.s.leakTimer
  let w := { w with s := { w.s with leakTimer := t.retime w.s.now (seconds interval) } }
  if t.retimeExpires w.s.now (seconds interval) then w.leak else w

/-- Every point's health state evaluated once (R44), in ascending order: the model's choice (notes/assumptions/37.md). -/
def Ev.evaluateAll (w : Ev) : Ev := allPoints.foldl (fun w p => w.evaluateHealth p) w

/-- New device-wide parameters with their effects (R172); `thresholds` is set when the pair is among the new values. A leak
taken at the change comes first (R38), then the due and overdue expiries taken at the change (R52), and last the
evaluation of the points (R44). R172 lists these effects and states no order among them, and R44 lets a leak come before
or after the evaluation: the order is the model's choice (notes/assumptions/37.md). -/
def Ev.setDeviceParams (d : DeviceParams) (thresholds : Bool) (w : Ev) : Ev :=
  let old := w.s.params
  let w := w.onParams (fun _ => d)
  let w := if d.leakInterval = old.leakInterval then w else w.retimeLeak d.leakInterval
  let w := if d.interval = old.interval then w else w.retimeProofs d.interval
  if thresholds then w.evaluateAll else w

/-! ## Start (R138, R168) -/

/-- Taking a point out of use, after the mode change (R134). -/
def Ev.takeOutOfUse (p : PointId) (wasCounting : Bool) (w : Ev) : Ev :=
  let w := if wasCounting then w.disturbAll p .pointWithdrawn else w
  (w.resetMachine p).loseEligibility p false

/-- Bringing a point into use, after the mode change (R135). -/
def Ev.bringIntoUse (p : PointId) (w : Ev) : Ev :=
  let w := if lit w.s p then w.initialise p else w
  if eligible w.s p then w.gainEligibility p else w

/-- A point's mode changed to `m` with the effects of the change (R133, R134, R135, R136, R138). -/
def Ev.changeMode (p : PointId) (m : Mode) (w : Ev) : Ev :=
  let before := (w.s.point p).mode
  let was := counting w.s p
  let w := w.onPoint p (fun pt => { pt with mode := m })
  match before, m with
  | .outOfUse, .outOfUse => w
  | .outOfUse, .supervising => w.bringIntoUse p
  | .outOfUse, .counting => w.bringIntoUse p
  | .supervising, .outOfUse => w.takeOutOfUse p was
  | .counting, .outOfUse => w.takeOutOfUse p was
  | .supervising, .supervising => w
  | .supervising, .counting => w
  | .counting, .counting => w
  | .counting, .supervising => if was then w.disturbAll p .pointWithdrawn else w

/-- Each point's mode set to its start mode (R138). -/
def Ev.applyStartModes (w : Ev) : Ev :=
  allPoints.foldl (fun w p => w.changeMode p (w.s.point p).startMode) w

/-- An accepted start, after the device state has become STARTING (R168 steps 2 and 3). -/
def Ev.beginStart (w : Ev) : Ev := w.applyStartModes.startPowerOn

/-! ## The configuration image (R164, R165, R173, R204) -/

/-- A section's parameters (R85). -/
structure SectionParams where
  clearDelay : Nat
  holdoff    : Nat
  direct     : Bool
deriving DecidableEq, Repr

/-- A point's stored items: start mode and active pair. -/
structure PointConfig where
  startMode : Mode
  params    : PointParams
deriving DecidableEq, Repr

/-- What the image stores (section 9.2). -/
structure Configuration where
  topology      : Table 16 TopologyEntry
  points        : Table 16 PointConfig
  sections      : Table 12 SectionParams
  device        : DeviceParams
  supplies      : SupplyParams
  controlBurst  : Nat
  controlRefill : Nat
  imagePeriod   : Nat
  linkTimeout   : Nat
  serviceBurst  : Nat
  serviceRefill : Nat
  autostart     : Bool
deriving DecidableEq, Repr

/-- The configuration as it stands, with the autostart flag to be written (R173). -/
def Configuration.ofState (s : State) (autostart : Bool) : Configuration :=
  { topology := s.topology
    points := s.points.map (fun pt => ⟨pt.startMode, pt.params⟩)
    sections := s.sections.map (fun r => ⟨r.clearDelay, r.holdoff, r.directPermitted⟩)
    device := s.params
    supplies := s.sequencer.params
    controlBurst := s.control.burst
    controlRefill := s.control.refillPeriod
    imagePeriod := s.link.imagePeriod
    linkTimeout := s.link.timeout
    serviceBurst := s.service.burst
    serviceRefill := s.service.refillPeriod
    autostart := autostart }

def entryBytes (e : TopologyEntry) : List Byte := [byteOr (e.up.map Fin.val), byteOr (e.down.map Fin.val)]

def pointConfigBytes (c : PointConfig) : List Byte :=
  [byte c.startMode.code] ++ bytes2 c.params.spacing ++ [byte c.params.filter]

def sectionParamBytes (c : SectionParams) : List Byte := [byte c.clearDelay, byte c.holdoff, flagByte c.direct]

/-- The body of format 0x01, 165 bytes (R204). -/
def Configuration.body (c : Configuration) : List Byte :=
  c.topology.items.flatMap entryBytes ++ c.points.items.flatMap pointConfigBytes
    ++ c.sections.items.flatMap sectionParamBytes ++ c.device.bytes
    ++ bytes2 c.supplies.delay01 ++ bytes2 c.supplies.delay12 ++ bytes2 c.supplies.delay23
    ++ bytes2 c.supplies.settle
    ++ [byte c.controlBurst] ++ bytes2 c.controlRefill ++ bytes2 c.imagePeriod ++ bytes2 c.linkTimeout
    ++ [byte c.serviceBurst] ++ bytes2 c.serviceRefill ++ [flagByte c.autostart]

/-- The body size of format 0x01. -/
def bodySize : Nat := 165

/-- The whole image, 172 bytes (R204): the CRC covers the format byte, the length field and the body. -/
def Configuration.image (c : Configuration) : List Byte :=
  let covered := [0x01] ++ bytes2 (bodySize + 2) ++ c.body
  [0x5E, 0x91] ++ covered ++ crcBytes covered

/-- The checks of R164 on what the memory gave, in order: the load result, and the body when it is LOADED. -/
def loadCheck (m : MemoryRead) : LoadResult × List Byte :=
  match m with
  | .noAcknowledge => (.none, [])
  | .bytes (s0 :: s1 :: rest) =>
    if s0 = 0x5E ∧ s1 = 0x91 then
      match rest with
      | format :: hi :: lo :: tail =>
        let length := word hi lo
        if length < 2 ∨ 1019 < length then (.corrupt, [])
        else if tail.length < length then (.corrupt, [])
        else
          let body := tail.take (length - 2)
          let crc := (tail.drop (length - 2)).take 2
          if crc = crcBytes (format :: hi :: lo :: body) then
            if format = 0x01 ∧ length - 2 = bodySize then (.loaded, body) else (.corrupt, [])
          else (.corrupt, [])
      | _ => (.corrupt, [])
    else (.none, [])
  | .bytes _ => (.none, [])

/-- A byte of the body by its offset. -/
def at1 (l : List Byte) (k : Nat) : Nat := (l.getD k 0).toNat

/-- A two-byte field of the body by its offset. -/
def at2 (l : List Byte) (k : Nat) : Nat := word (l.getD k 0) (l.getD (k + 1) 0)

/-- A stored side: 0 to 11 is that section, and any other value NONE (R84). -/
def storedSide (l : List Byte) (k : Nat) : Option SectionId := sectionIndex (l.getD k 0)

/-- A stored start mode: another code is taken as OUT_OF_USE (R165). -/
def storedMode (l : List Byte) (k : Nat) : Mode := (Mode.ofCode (l.getD k 0)).getD .outOfUse

/-- The values as the body holds them, before clamping. Offsets are addresses less 5 (R204). -/
def Configuration.raw (l : List Byte) : Configuration :=
  { topology := .ofFn (fun p => ⟨storedSide l (2 * p.val), storedSide l (2 * p.val + 1)⟩)
    points := .ofFn (fun p =>
      ⟨storedMode l (32 + 4 * p.val), ⟨at2 l (33 + 4 * p.val), at1 l (35 + 4 * p.val)⟩⟩)
    sections := .ofFn (fun n =>
      ⟨at1 l (96 + 3 * n.val), at1 l (97 + 3 * n.val), at1 l (98 + 3 * n.val) != 0⟩)
    device :=
      { tol := at1 l 132, vLimit := at2 l 133, wGlitch := at1 l 135, wIrregular := at1 l 136,
        wOverspeed := at1 l 137, wConfused := at1 l 138, wProof := at1 l 139, leakInterval := at1 l 140,
        warnOn := at1 l 141, fault := at1 l 142, interval := at2 l 143, response := at1 l 145 }
    supplies := ⟨at2 l 146, at2 l 148, at2 l 150, at2 l 152⟩
    controlBurst := at1 l 154
    controlRefill := at2 l 155
    imagePeriod := at2 l 157
    linkTimeout := at2 l 159
    serviceBurst := at1 l 161
    serviceRefill := at2 l 162
    autostart := at1 l 164 != 0 }

def DeviceParams.clamped (d : DeviceParams) : DeviceParams :=
  (allParams.foldl (fun d c => d.put c (c.range.clamp (d.get c))) d).ordered

def PointParams.clamped (q : PointParams) : PointParams :=
  ⟨spacingRange.clamp q.spacing, filterRange.clamp q.filter⟩

def SectionParams.clamped (q : SectionParams) : SectionParams :=
  ⟨clearDelayRange.clamp q.clearDelay, holdoffRange.clamp q.holdoff, q.direct⟩

def SupplyParams.clamped (q : SupplyParams) : SupplyParams :=
  ⟨delayRange.clamp q.delay01, delayRange.clamp q.delay12, delayRange.clamp q.delay23, settleRange.clamp q.settle⟩

/-- Every value brought into range as a SET command's value would be (R165, R171). -/
def Configuration.clamped (c : Configuration) : Configuration :=
  { c with
    points := c.points.map (fun q => ⟨q.startMode, q.params.clamped⟩)
    sections := c.sections.map SectionParams.clamped
    device := c.device.clamped
    supplies := c.supplies.clamped
    controlBurst := burstRange.clamp c.controlBurst
    controlRefill := refillRange.clamp c.controlRefill
    imagePeriod := imagePeriodRange.clamp c.imagePeriod
    linkTimeout := clampLinkTimeout c.linkTimeout
    serviceBurst := burstRange.clamp c.serviceBurst
    serviceRefill := refillRange.clamp c.serviceRefill }

/-- Some side or start-mode code of the body was replaced (R84, R165). -/
def codesReplaced (l : List Byte) : Bool :=
  (List.range 32).any (fun k => (sideField (l.getD k 0)).isNone)
    || allPoints.any (fun p => (Mode.ofCode (l.getD (32 + 4 * p.val) 0)).isNone)

/-- The configuration a body gives, and whether a value was clamped or replaced (R165). -/
def Configuration.ofBody (l : List Byte) : Configuration × Bool :=
  let raw := Configuration.raw l
  (raw.clamped, codesReplaced l || raw.clamped != raw)

/-- The port parameters loaded (R199). -/
def State.loadPorts (c : Configuration) (s : State) : State :=
  { s with
    control := s.control.setPacing s.now c.controlBurst c.controlRefill
    service := s.service.setPacing s.now c.serviceBurst c.serviceRefill
    link := (s.link.setImagePeriod s.now c.imagePeriod).setTimeout s.now c.linkTimeout }

/-- One point's start mode and active pair loaded. -/
def Ev.loadPoint (c : PointConfig) (p : PointId) (w : Ev) : Ev :=
  w.onPoint p (fun pt => { pt with startMode := c.startMode, params := c.params })

/-- One section's parameters loaded. -/
def Ev.loadSection (c : SectionParams) (n : SectionId) (w : Ev) : Ev :=
  w.onSection n (SectionRecord.setParams w.s.now (anyOverdue w.s n) c.clearDelay c.holdoff c.direct)

/-- The supply parameters loaded. -/
def Ev.loadSupplies (c : SupplyParams) (w : Ev) : Ev := w.onSequencer (fun q => { q with params := c })

/-- A loaded configuration applied, the topology last (R165). -/
def Ev.applyConfiguration (c : Configuration) (w : Ev) : Ev :=
  let w := (w.setDeviceParams c.device true).loadSupplies c.supplies
  let w := { w with s := w.s.loadPorts c }
  let w := allPoints.foldl (fun w p => w.loadPoint (c.points.get p) p) w
  let w := allSections.foldl (fun w n => w.loadSection (c.sections.get n) n) w
  w.setTopology c.topology

/-- The load completes (R164, R165, R166). -/
def Ev.completeLoad (m : MemoryRead) (w : Ev) : Ev :=
  match loadCheck m with
  | (.loaded, body) =>
    let (c, adjusted) := Configuration.ofBody body
    let w := w.applyConfiguration c
    match c.autostart, startFault w.s with
    | false, _ =>
      w.onDevice (fun d => { d with
        state := .configuring, loadResult := some .loaded, loadAdjusted := adjusted,
        autostart := some .notRequested })
    | true, some item =>
      w.onDevice (fun d => { d with
        state := .configuring, loadResult := some .loaded, loadAdjusted := adjusted,
        autostart := some (.refused item) })
    | true, none =>
      (w.onDevice (fun d => { d with
        state := .starting, loadResult := some .loaded, loadAdjusted := adjusted,
        autostart := some .started })).beginStart
  | (r, _) =>
    w.onDevice (fun d => { d with
      state := .configuring, loadResult := some r, loadAdjusted := false, autostart := some .notRequested })

end Sys2Proof.Machine
end

