-- ==== Sys2Proof/Machine/DetectorEvents.lean ====
section
/-! DEFINITION. Machine/DetectorEvents.lean: the meanings of RESET, ACCEPTED_CHANGE, GLITCH, QUIET_TIMER_EXPIRY and
LEAK_TIMER_EXPIRY (chapters 1 and 2, R163). An expiry whose timer is stopped or not yet due is no event: the state is
left as it is (notes/assumptions/7.md). -/

namespace Sys2Proof.Machine

/-! ## RESET (R163) -/

/-- Every block at its value after reset; the input pins keep their levels, and the straps are read (R182). The queue stays,
and with it whether the expiry of a memory write waits in it (notes/assumptions/12.md). -/
def State.resetAgain (s : State) : State :=
  { State.afterReset (s.points.map (fun pt => Point.reset pt.lineA.pinLow pt.lineB.pinLow))
      (s.groups.map (fun g => Group.reset g.pinHigh)) s.straps s.pending s.choices with writeLapsed := s.writeLapsed }

def execReset (s : State) : Host.Outcome State Fault Refusal := .next s.resetAgain

/-! ## ACCEPTED_CHANGE (R2, R7, R62, R63) -/

/-- A line's accepted level changes to the raw level, and its run length returns to 0 (R2). -/
def Line.take (t : Time) (l : Line) : Line :=
  { l with accepted := !l.accepted, raw := !l.accepted, pinLow := !l.accepted, run := 0, changeTime := t }

/-- The line's change taken in the Detector Input Unit. -/
def Ev.takeLine (p : PointId) (x : Sys) (t : Time) (w : Ev) : Ev := w.onPoint p (Point.onLine x (Line.take t))

/-- The proof under way at a point. -/
def proofAt (s : State) (p : PointId) : Option Proof :=
  match s.channel with
  | none => none
  | some pr => if pr.system.point = p then some pr else none

/-- The other system's change at a point under proof (R62, R63): an arrival aborts a proof in ASSERT or RELEASE, and any
other change is delivered to the machine. -/
def Ev.partnerChange (pr : Proof) (t : Time) (w : Ev) : Ev :=
  let p := pr.system.point
  let arriving := pr.system.sys.other
  if pr.phase != .abortWait && ((w.s.point p).line arriving).accepted then w.abortProof pr t
  else w.deliver p arriving.lines t

/-- A change of one system, its accepted level already taken, at a lit point in use (R7). -/
def Ev.routeChange (p : PointId) (x : Sys) (t : Time) (w : Ev) : Ev :=
  match proofAt w.s p with
  | none => w.deliver p x.lines t
  | some pr => if pr.system.sys = x then w.testedChange pr else w.partnerChange pr t

/-- One system's accepted change taken and routed. -/
def Ev.changeOne (p : PointId) (x : Sys) (t : Time) (w : Ev) : Ev :=
  let w := w.takeLine p x t
  if lit w.s p && inUse w.s p then w.routeChange p x t else w

/-- What may follow from the tested system's change before the partner system's change of the same sample: a proof that
it ended leaves its point's staged pair to be applied (R142), and whether the freed channel takes a system first is a
free choice: the model's choice (R56, R62; notes/assumptions/30.md). -/
def Ev.betweenChanges (w : Ev) : Ev :=
  if Config.takeFirst w.s.choices then w.choose.settleProofs else w.choose.applyStaged

/-- Both systems' accepted changes at one sample with one change time (R7): one delivered change, or, when one of them
is under proof, each by itself in an order that is a free choice (notes/assumptions/4.md). -/
def Ev.changeBoth (p : PointId) (t : Time) (w : Ev) : Ev :=
  match lit w.s p && inUse w.s p, proofAt w.s p with
  | true, some pr =>
    if Config.testedFirst w.s.choices then
      (w.choose.changeOne p pr.system.sys t).betweenChanges.changeOne p pr.system.sys.other t
    else (w.choose.changeOne p pr.system.sys.other t).changeOne p pr.system.sys t
  | true, none => ((w.takeLine p .a t).takeLine p .b t).deliver p .both t
  | false, _ => (w.takeLine p .a t).takeLine p .b t

/-- The whole event. -/
def Ev.acceptedChange (p : PointId) (lines : Lines) (t : Time) (w : Ev) : Ev :=
  match lines with
  | .a => w.changeOne p .a t
  | .b => w.changeOne p .b t
  | .both => w.changeBoth p t

def execAcceptedChange (p : PointId) (lines : Lines) (t : Time) (s : State) : Host.Outcome State Fault Refusal :=
  .next (runEvent (fun w => (w.acceptedChange p lines t).settle) s)

/-! ## GLITCH (R3, R4) -/

/-- The engine takes a glitch (R4): the point is lit and in use and the system is not under proof. -/
def takesGlitch (s : State) (p : PointId) (x : Sys) : Bool := lit s p && inUse s p && !underProof s p x

/-- A glitch event: the run has ended (R2); taken, it adds the glitch weight and tally and posts its record (R4). An
excursion of fewer than 2 samples is no glitch (R3). -/
def Ev.glitch (p : PointId) (x : Sys) (start : Time) (length : Byte) (w : Ev) : Ev :=
  let w := w.onPoint p (Point.onLine x (fun l => { l with raw := l.accepted, pinLow := l.accepted, run := 0 }))
  if takesGlitch w.s p x && decide (2 ≤ length.toNat) then
    (w.addWeight p w.s.params.wGlitch (fun pt => { pt with glitchTally := raise pt.glitchTally })).trace
      (.glitch p x start length)
  else w

def execGlitch (p : PointId) (x : Sys) (start : Time) (length : Byte) (s : State) :
    Host.Outcome State Fault Refusal :=
  .next (runEvent (fun w => (w.glitch p x start length).settle) s)

/-! ## QUIET_TIMER_EXPIRY (R17, R18) -/

/-- The confused passage event without the start-up mark (R18): weight and tally, then the disturbance if the point is
counting (notes/assumptions/14.md). -/
def Ev.confusedPassage (p : PointId) (w : Ev) : Ev :=
  let w := w.addWeight p w.s.params.wConfused (fun pt => { pt with confusedTally := raise pt.confusedTally })
  if counting w.s p then w.disturbAll p .confusedPassage else w

/-- The exit from CONFUSED (R18, R20). -/
def Ev.quietExpiry (p : PointId) (c : Confusion) (expiry : Time) (w : Ev) : Ev :=
  let w := w.onPoint p (fun pt => { pt with machine := .idle, confusion := none, quietTimer := none })
  let w := if c.cause = .startUp then w else w.confusedPassage p
  let w := w.trace (.confused p c.cause c.entry expiry)
  if (w.s.point p).machine == .idle then w.pointQuiet p else w

def execQuietTimerExpiry (p : PointId) (s : State) : Host.Outcome State Fault Refusal :=
  match (s.point p).machine, (s.point p).confusion, (s.point p).quietTimer with
  | .confused, some c, some t =>
    if t.reached s.now then .next (runEvent (fun w => (w.quietExpiry p c t.expiry).settle) s) else .next s
  | _, _, _ => .next s

/-! ## LEAK_TIMER_EXPIRY (R37) -/

/-- One leak, and the timer running again from the expiry time. -/
def Ev.leakExpiry (w : Ev) : Ev := Ev.leak { w with s := { w.s with leakTimer := w.s.leakTimer.again } }

def execLeakTimerExpiry (s : State) : Host.Outcome State Fault Refusal :=
  if s.leakTimer.reached s.now then .next (runEvent (fun w => w.leakExpiry.settle) s) else .next s

end Sys2Proof.Machine
end

