-- ==== Sys2Proof/Machine/SectionEvents.lean ====
section
/-! DEFINITION. Machine/SectionEvents.lean: the meanings of CLEAR_DELAY_EXPIRY, HOLDOFF_TIMER_EXPIRY and the section
commands (chapters 5 and 6). -/

namespace Sys2Proof.Machine

/-- CLEAR_DELAY_EXPIRY (R93): the expiry check of a CLEARING section whose timer is due. -/
def execClearDelayExpiry (n : SectionId) (s : State) : Host.Outcome State Fault Refusal :=
  if (s.sec n).state == .clearing && timerReached s.now (s.sec n).clearTimer then
    .next (runEvent (fun w => w.onSection n (SectionRecord.expiryCheck (anyOverdue w.s n))) s)
  else .next s

/-- HOLDOFF_TIMER_EXPIRY (R112): the timer is stopped. -/
def execHoldoffTimerExpiry (n : SectionId) (s : State) : Host.Outcome State Fault Refusal :=
  if timerReached s.now (s.sec n).holdoffTimer then
    .next (runEvent (fun w => w.onSection n (fun r => { r with holdoffTimer := none })) s)
  else .next s

/-! ## RESTORE SECTION (R113 to R120) -/

/-- A member's own part of counting: mode, health and group (R115); RUNNING is check 1. -/
def memberReady (s : State) (p : PointId) : Bool :=
  (s.point p).mode == .counting && (s.point p).health != .fault && lit s p

/-- The refusal data of SECTION_STATE: the present state, and the cause when DISTURBED (R113). -/
def sectionStateData (r : SectionRecord) : List Byte := [byte r.state.code, byteOr (r.cause.map Cause.code)]

/-- The refusal data of POINT_NOT_READY: the member, and the first of mode, health or group that keeps it from
counting (R113, R115). -/
def notReadyData (s : State) (p : PointId) : List Byte :=
  [byte p.val, notCountingByte s p]

/-- Checks 3 to 8 and the acceptance (R113, R117, R120). The reply carries the state's code alone, so that CLEARING with
the proof-hold flag set is sent as CLEARING: the model's choice (notes/assumptions/32.md). -/
def restoreChecked (n : SectionId) (kind : RestoreKind) (rc : Nat) (w : Ev) : Answer :=
  let s := w.s
  let r := s.sec n
  require (r.state == .disturbed) .sectionState (sectionStateData r) <|
  require (decide (rc = r.rc.toNat)) .stale (bytes2 r.rc.toNat) <|
  match r.holdoffTimer with
  | some t => refuse .holdoff (bytes4 t.expiry)
  | none =>
    match (members s n).find? (fun p => !memberReady s p) with
    | some p => refuse .pointNotReady (notReadyData s p)
    | none =>
      match (members s n).find? (fun p => (s.point p).machine != .idle) with
      | some p => refuse .pointActive [byte p.val]
      | none =>
        require (kind == .sweep || r.directPermitted) .directNotPermitted [] <|
        let w := w.onSection n (SectionRecord.restore s.now (anyOverdue s n) kind)
        accept w ([byte n.val, byte kind.code] ++ bytes2 (w.s.sec n).rc.toNat ++ [byte (w.s.sec n).state.code])

/-- Checks 1 and 2. -/
def actRestoreSection (body : List Byte) (w : Ev) : Answer :=
  match body with
  | [sec, kind, hi, lo] =>
    require (w.s.device.state == .running) .wrongDeviceState [] <|
    withArgument (sectionIndex sec) fun n =>
    withArgument (RestoreKind.ofCode kind) fun k =>
    restoreChecked n k (word hi lo) w
  | _ => refuse .badLength []

def execRestoreSection (i : PortId) (tag : Byte) (body : List Byte) (s : State) :
    Host.Outcome State Fault Refusal :=
  .next (takeCommand 0x01 .controlOnly (fun n => n == 4) actRestoreSection i tag body s)

/-! ## CANCEL RESTORE (R125) -/

def actCancelRestore (body : List Byte) (w : Ev) : Answer :=
  match body with
  | [sec] =>
    withArgument (sectionIndex sec) fun n =>
    require ((w.s.sec n).state == .restoring) .sectionState (sectionStateData (w.s.sec n)) <|
    let w := w.onSection n (SectionRecord.disturb .restoreCancelled)
    accept w ([byte n.val] ++ bytes2 (w.s.sec n).rc.toNat ++ bytes2 (w.s.sec n).count)
  | _ => refuse .badLength []

def execCancelRestore (i : PortId) (tag : Byte) (body : List Byte) (s : State) : Host.Outcome State Fault Refusal :=
  .next (takeCommand 0x02 .controlOnly (fun n => n == 1) actCancelRestore i tag body s)

/-! ## DISTURB SECTION (R126) -/

def actDisturbSection (body : List Byte) (w : Ev) : Answer :=
  match body with
  | [sec] =>
    withArgument (sectionIndex sec) fun n =>
    let before := w.s.sec n
    require (before.state != .unused) .sectionState (sectionStateData before) <|
    let w := w.onSection n (SectionRecord.disturb .hostRequest)
    accept w ([byte n.val] ++ bytes2 (w.s.sec n).rc.toNat ++ bytes2 (w.s.sec n).count
      ++ [byteOr ((w.s.sec n).cause.map Cause.code), flagByte (before.state != .disturbed)])
  | _ => refuse .badLength []

def execDisturbSection (i : PortId) (tag : Byte) (body : List Byte) (s : State) : Host.Outcome State Fault Refusal :=
  .next (takeCommand 0x07 .both (fun n => n == 1) actDisturbSection i tag body s)

/-! ## SET SECTION PARAMETERS (R86, R87, R112) -/

/-- The parameters of one section replaced at one event; the reply carries the values in force and the clamped fields,
clear delay in bit 0 and holdoff in bit 1 (notes/assumptions/11.md). -/
def sectionParamsChecked (n : SectionId) (delay holdoff : Nat) (direct : Option Bool) (w : Ev) : Answer :=
  let d := clearDelayRange.clamp delay
  let h := holdoffRange.clamp holdoff
  let permitted := direct.getD (w.s.sec n).directPermitted
  accept (w.onSection n (SectionRecord.setParams w.s.now (anyOverdue w.s n) d h permitted))
    [byte d, byte h, flagByte permitted, byte (flag (d != delay) 0 + flag (h != holdoff) 1)]

def actSetSectionParameters (body : List Byte) (w : Ev) : Answer :=
  match body with
  | sec :: delay :: holdoff :: rest =>
    require w.s.device.state.live .wrongDeviceState [] <|
    withArgument (sectionIndex sec) fun n =>
    match rest with
    | [] => sectionParamsChecked n delay.toNat holdoff.toNat none w
    | direct :: _ =>
      require (w.s.device.state == .configuring) .wrongDeviceState [] <|
      sectionParamsChecked n delay.toNat holdoff.toNat (some (direct != 0)) w
  | _ => refuse .badLength []

def execSetSectionParameters (i : PortId) (tag : Byte) (body : List Byte) (s : State) :
    Host.Outcome State Fault Refusal :=
  .next (takeCommand 0x0D .serviceOnly (fun n => n == 3 || n == 4) actSetSectionParameters i tag body s)

/-! ## QUERY SECTIONS (R187) -/

/-- The whole records of a run that fit: each is taken while the reply's room lasts (R187). -/
def fitting : Nat → List (List Byte) → List (List Byte)
  | _, [] => []
  | room, r :: rest => if r.length ≤ room then r :: fitting (room - r.length) rest else []

/-- The room for records in a reply body of 240 bytes, after KIND, result, first index, asked and returned. -/
def recordRoom : Nat := 235

/-- The data of a query's reply: first index, records asked for after clamping, records returned, and the records. -/
def queryData (first asked : Nat) (records : List (List Byte)) : List Byte :=
  let sent := fitting recordRoom records
  [byte first, byte asked, byte sent.length] ++ sent.flatten

/-- The run of `n` indices from `first` upward, the index after the highest being 0. -/
def sectionRun (first : SectionId) (n : Nat) : List SectionId := (List.range n).map (fun k => first + Fin.ofNat 12 k)

def actQuerySections (body : List Byte) (w : Ev) : Answer :=
  match body with
  | [first, n] =>
    withArgument (sectionIndex first) fun f =>
    let asked := clamp 1 12 n.toNat
    accept w (queryData f.val asked ((sectionRun f asked).map (sectionRecord w.s)))
  | _ => refuse .badLength []

def execQuerySections (i : PortId) (tag : Byte) (body : List Byte) (s : State) : Host.Outcome State Fault Refusal :=
  .next (takeCommand 0x05 .both (fun n => n == 2) actQuerySections i tag body s)

end Sys2Proof.Machine
end

