-- ==== Sys2Proof/Machine/PointCommands.lean ====
section
/-! DEFINITION. Machine/PointCommands.lean: SET TOPOLOGY, SET POINT MODE, SET POINT PARAMETERS, CLEAR POINT FAULT and
QUERY POINTS (chapters 4 and 7, R187). -/

namespace Sys2Proof.Machine

/-! ## SET TOPOLOGY (R77, R78) -/

/-- An entry of the list: point, up_section and down_section. -/
structure TopologyItem where
  point : PointId
  entry : TopologyEntry
deriving DecidableEq, Repr

/-- A body cut into 3-byte entries; `none` when a part entry is left. -/
def triples : List Byte → Option (List (Byte × Byte × Byte))
  | [] => some []
  | x :: y :: z :: rest => (triples rest).map (fun l => (x, y, z) :: l)
  | [_] => none
  | [_, _] => none

def topologyItem (x : Byte × Byte × Byte) : Option TopologyItem :=
  match pointIndex x.1, sideField x.2.1, sideField x.2.2 with
  | some p, some u, some d => some ⟨p, ⟨u, d⟩⟩
  | _, _, _ => none

/-- Every item of a list read, or none. -/
def readAll {α β : Type} (f : α → Option β) : List α → Option (List β)
  | [] => some []
  | x :: rest =>
    match f x, readAll f rest with
    | some y, some l => some (y :: l)
    | _, _ => none

/-- No point is named twice. -/
def noRepeat {α : Type} [DecidableEq α] : List α → Bool
  | [] => true
  | x :: rest => !rest.contains x && noRepeat rest

/-- The sections of a table that are used (R74), as a list of numbers. -/
def usedIn (t : Table 16 TopologyEntry) (n : SectionId) : Bool := !(membersIn t n).isEmpty

def actSetTopology (body : List Byte) (w : Ev) : Answer :=
  require (w.s.device.state == .configuring) .wrongDeviceState [] <|
  match triples body with
  | none => refuse .badLength []
  | some items =>
    require (decide (1 ≤ items.length) && decide (items.length ≤ 16)) .badLength [] <|
    withArgument (readAll topologyItem items) fun entries =>
    require (noRepeat (entries.map TopologyItem.point)) .badArgument [] <|
    let old := w.s.topology
    let new := entries.foldl (fun t e => t.set e.point e.entry) old
    let lost := (allSections.filter (fun n => usedIn old n && !usedIn new n)).map Fin.val
    let gained := (allSections.filter (fun n => !usedIn old n && usedIn new n)).map Fin.val
    accept (w.setTopology new) (bytes2 (maskOf lost) ++ bytes2 (maskOf gained))

def execSetTopology (i : PortId) (tag : Byte) (body : List Byte) (s : State) : Host.Outcome State Fault Refusal :=
  .next (takeCommand 0x09 .serviceOnly (fun n => n % 3 == 0) actSetTopology i tag body s)

/-! ## SET POINT MODE (R131 to R136) -/

/-- The reply of a mode command: the point, the mode after it and whether the point is counting after it, and if not why
(R132, R202; section 7.7, "not counting (health)"). -/
def modeReply (p : PointId) (w : Ev) : Answer :=
  accept w [byte p.val, byte (w.s.point p).mode.code, notCountingByte w.s p]

/-- The refusal data of NOT_PROVEN: for each system, whether it is eligible and its proven flag (R132). -/
def notProvenData (s : State) (p : PointId) : List Byte :=
  bothSystems.flatMap (fun x => [flagByte (eligible s p), flagByte ((s.point p).proof x).proven])

/-- Both systems are eligible and have their proven flags set (R132). -/
def bothProven (s : State) (p : PointId) : Bool :=
  eligible s p && (s.point p).proofA.proven && (s.point p).proofB.proven

/-- SUPERVISING to COUNTING (R132, R136). -/
def supervisingToCounting (p : PointId) (w : Ev) : Answer :=
  require ((w.s.point p).health != .fault) .pointFault [byteOr ((w.s.point p).faultCause.map FaultCause.code)] <|
  require (bothProven w.s p) .notProven (notProvenData w.s p) <|
  require ((w.s.point p).machine == .idle) .pointActive [byte (w.s.point p).machine.code] <|
  modeReply p (w.changeMode p .counting)

/-- SET POINT MODE in STARTING and RUNNING (R132). -/
def changeModeCommand (p : PointId) (m : Mode) (w : Ev) : Answer :=
  match (w.s.point p).mode, m with
  | .outOfUse, .outOfUse => modeReply p w
  | .supervising, .supervising => modeReply p w
  | .counting, .counting => modeReply p w
  | .counting, .supervising => modeReply p (w.changeMode p .supervising).settle
  | .counting, .outOfUse => modeReply p (w.changeMode p .outOfUse).settle
  | .supervising, .outOfUse => modeReply p (w.changeMode p .outOfUse).settle
  | .outOfUse, .supervising => modeReply p (w.changeMode p .supervising).settle
  | .supervising, .counting => supervisingToCounting p w
  | .outOfUse, .counting => refuse .notProven (notProvenData w.s p)

/-- SET POINT MODE in CONFIGURING: the start mode (R131). -/
def setStartMode (p : PointId) (m : Mode) (w : Ev) : Answer :=
  accept (w.onPoint p (fun pt => { pt with startMode := m }))
    [byte p.val, byte m.code, byte (w.s.point p).mode.code]

def actSetPointMode (body : List Byte) (w : Ev) : Answer :=
  match body with
  | [point, mode] =>
    require w.s.device.state.live .wrongDeviceState [] <|
    withArgument (pointIndex point) fun p =>
    withArgument (Mode.ofCode mode) fun m =>
    if w.s.device.state = .configuring then setStartMode p m w else changeModeCommand p m w
  | _ => refuse .badLength []

def execSetPointMode (i : PortId) (tag : Byte) (body : List Byte) (s : State) : Host.Outcome State Fault Refusal :=
  .next (takeCommand 0x0A .serviceOnly (fun n => n == 2) actSetPointMode i tag body s)

/-! ## SET POINT PARAMETERS (R140, R141) -/

/-- The requested pair applied at the command or staged (R140, R141). The disposition is sent as a byte, 0 for APPLIED and
1 for STAGED: the model's choice (notes/assumptions/15.md). The clamped fields are spacing in bit 0 and filter length
in bit 1 (notes/assumptions/11.md). -/
def pointParamsChecked (p : PointId) (spacing filter : Nat) (w : Ev) : Answer :=
  let q := PointParams.clamped ⟨spacing, filter⟩
  let data := [byte p.val] ++ bytes2 q.spacing ++ [byte q.filter,
    byte (flag (q.spacing != spacing) 0 + flag (q.filter != filter) 1)]
  if pairApplicable w.s p then
    accept (w.onPoint p (fun pt => { pt with params := q, staged := none })).settle (data ++ [0])
  else accept (w.onPoint p (fun pt => { pt with staged := some q })) (data ++ [1])

def actSetPointParameters (body : List Byte) (w : Ev) : Answer :=
  match body with
  | [point, hi, lo, filter] =>
    require w.s.device.state.live .wrongDeviceState [] <|
    withArgument (pointIndex point) fun p =>
    pointParamsChecked p (word hi lo) filter.toNat w
  | _ => refuse .badLength []

def execSetPointParameters (i : PortId) (tag : Byte) (body : List Byte) (s : State) :
    Host.Outcome State Fault Refusal :=
  .next (takeCommand 0x0B .serviceOnly (fun n => n == 4) actSetPointParameters i tag body s)

/-! ## CLEAR POINT FAULT (R139, R45) -/

/-- The fault cleared and the mode made SUPERVISING: one reportable change (R139 steps 1 and 2). -/
def Point.clearFault (pt : Point) : Point :=
  { pt with
    level := 0, health := .ok, faultCause := none, faultTime := none, mode := .supervising
    proofA := { pt.proofA with failures := 0 }
    proofB := { pt.proofB with failures := 0 } }

/-- The work of an accepted CLEAR POINT FAULT (R139). -/
def Ev.clearFault (p : PointId) (w : Ev) : Ev :=
  let wasOut := (w.s.point p).mode == .outOfUse
  let w := w.onPoint p Point.clearFault
  let w := if wasOut && lit w.s p then w.initialise p else w
  if lit w.s p then w.gainEligibility p else w

def actClearPointFault (body : List Byte) (w : Ev) : Answer :=
  match body with
  | [point] =>
    require w.s.device.state.live .wrongDeviceState [] <|
    withArgument (pointIndex point) fun p =>
    require ((w.s.point p).health == .fault) .state [byte (w.s.point p).health.code] <|
    accept (w.clearFault p).settle [byte p.val, byte Mode.supervising.code, byte Health.ok.code]
  | _ => refuse .badLength []

def execClearPointFault (i : PortId) (tag : Byte) (body : List Byte) (s : State) :
    Host.Outcome State Fault Refusal :=
  .next (takeCommand 0x0C .serviceOnly (fun n => n == 1) actClearPointFault i tag body s)

/-! ## QUERY POINTS (R187) -/

def pointRun (first : PointId) (n : Nat) : List PointId := (List.range n).map (fun k => first + Fin.ofNat 16 k)

def actQueryPoints (body : List Byte) (w : Ev) : Answer :=
  match body with
  | [first, n] =>
    withArgument (pointIndex first) fun f =>
    let asked := clamp 1 16 n.toNat
    accept w (queryData f.val asked ((pointRun f asked).map (pointRecord w.s)))
  | _ => refuse .badLength []

def execQueryPoints (i : PortId) (tag : Byte) (body : List Byte) (s : State) : Host.Outcome State Fault Refusal :=
  .next (takeCommand 0x06 .both (fun n => n == 2) actQueryPoints i tag body s)

end Sys2Proof.Machine
end

