-- ==== Sys2Proof/Machine/DeviceCommands.lean ====
section
/-! DEFINITION. Machine/DeviceCommands.lean: the completion of the image load, the store of the image, and SET DEVICE
PARAMETERS, START, HALT, STORE IMAGE, QUERY DEVICE and LINK CHECK (chapter 9, R187). -/

namespace Sys2Proof.Machine

/-! ## IMAGE_LOAD_COMPLETE (R164, R165, R166) -/

/-- The load ends with what the memory gave. No load is under way outside LOADING (notes/assumptions/7.md). -/
def execImageLoadComplete (m : MemoryRead) (s : State) : Host.Outcome State Fault Refusal :=
  if s.device.state == .loading then .next (runEvent (fun w => (w.completeLoad m).settle) s) else .next s

/-! ## The store (R174) -/

/-- The size of the image header: signature, format and length (R204). -/
def headerSize : Nat := 5

/-- The write that follows when the memory holds the image up to `address`: the body and CRC go from address 5 upward in
writes of free sizes, and the header goes last, in one write (R174; notes/assumptions/12.md). -/
def nextWrite (image : List Byte) (address k : Nat) : StoreWrite :=
  if address < image.length then .body address (min (Config.writeSize k + 1) (image.length - address)) else .header

/-- The address and the bytes of the write that is outstanding. -/
def StoreProgress.sent (p : StoreProgress) : Nat × List Byte :=
  match p.write with
  | .body address size => (address, (p.image.drop address).take size)
  | .header => (0, p.image.take headerSize)

/-- A memory write begun, its acknowledgement awaited until 20 ms after the part has finished sending it (R174). The size
and the sending time are free values at the number of this choice. -/
def Ev.beginWrite (image : List Byte) (address : Nat) (w : Ev) : Ev :=
  let k := w.s.choices
  let store : StoreProgress :=
    { image := image, write := nextWrite image address k
      timer := startTimer w.s.now (Config.sendTime k + writeTimeout) }
  w.choose.onDevice (fun d => { d with store := some store })

/-- STORE_WRITE_ACK: the memory acknowledges the body write, and the next write is sent. It is no event unless a body write
is outstanding (notes/assumptions/7.md). -/
def execStoreWriteAck (s : State) : Host.Outcome State Fault Refusal :=
  match s.device.store with
  | some ⟨image, .body address size, _⟩ => .next (runEvent (Ev.beginWrite image (address + size)) s)
  | some ⟨_, .header, _⟩ => .next s
  | none => .next s

/-- The end of a store in progress: its result is recorded, and a device change report is posted with it, whatever the
result before (R174). -/
def Ev.endStore (r : StoreResult) (w : Ev) : Ev := w.onDevice (fun d => { d with store := none, lastStore := some r })

/-- STORE_DONE: the memory acknowledges the header write. It is no event unless that write is outstanding. -/
def execStoreDone (s : State) : Host.Outcome State Fault Refusal :=
  match s.device.store with
  | some ⟨_, .header, _⟩ => .next (runEvent (Ev.endStore .done) s)
  | some ⟨_, .body _ _, _⟩ => .next s
  | none => .next s

/-- The STORE_FAILED taken is the expiry of a write that has been acknowledged since: the write outstanding has not run out
of its own time (notes/assumptions/12.md). -/
def staleFailure (s : State) (store : StoreProgress) : Bool := s.writeLapsed && !store.timer.reached s.now

/-- STORE_FAILED: the memory does not acknowledge the start of a write, or a write within 20 ms of its sending (the expiry
of the store's timer, which `State.tick` puts into the queue). An expiry whose write was acknowledged before it is not
taken. -/
def execStoreFailed (s : State) : Host.Outcome State Fault Refusal :=
  let t : State := { s with writeLapsed := false }
  match s.device.store with
  | some store => if staleFailure s store then .next t else .next (runEvent (Ev.endStore .failed) t)
  | none => .next t

/-! ## SET DEVICE PARAMETERS (R171, R172) -/

/-- An item of the list: a parameter and its value as carried. -/
structure ParamItem where
  code  : ParamCode
  value : Nat
deriving DecidableEq, Repr

def paramItem (x : Byte × Byte × Byte) : Option ParamItem :=
  (ParamCode.ofByte x.1).map (fun c => ⟨c, word x.2.1 x.2.2⟩)

/-- The values carried, each clamped, over the values in force; the pair is not yet ordered. -/
def DeviceParams.putAll (items : List ParamItem) (d : DeviceParams) : DeviceParams :=
  items.foldl (fun d i => d.put i.code (i.code.range.clamp i.value)) d

/-- The clamped fields: a carried value that was out of its range, and warn_on when the pair was brought into order. Bit
n of the two-byte mask is the parameter of code n (notes/assumptions/11.md). -/
def clampedMask (items : List ParamItem) (carried ordered : DeviceParams) : Nat :=
  maskOf ((List.range 12).filter (fun k =>
    items.any (fun i => allParams[k]? == some i.code && i.code.range.clamp i.value != i.value)
      || (allParams[k]? == some .warnOn && ordered.warnOn != carried.warnOn)))

/-- warn_on or fault is among the values carried. -/
def carriesThreshold (items : List ParamItem) : Bool := items.any (fun i => i.code == .warnOn || i.code == .fault)

/-- The reply carries the twelve values in the 14-byte form of the device record and the image: the model's choice
(notes/assumptions/15.md). -/
def actSetDeviceParameters (body : List Byte) (w : Ev) : Answer :=
  require w.s.device.state.live .wrongDeviceState [] <|
  match triples body with
  | none => refuse .badLength []
  | some l =>
    require (decide (1 ≤ l.length) && decide (l.length ≤ 12)) .badLength [] <|
    withArgument (readAll paramItem l) fun items =>
    require (noRepeat (items.map ParamItem.code)) .badArgument [] <|
    let carried := w.s.params.putAll items
    let d := carried.ordered
    accept (w.setDeviceParams d (carriesThreshold items)).settle
      (d.bytes ++ bytes2 (clampedMask items carried d))

def execSetDeviceParameters (i : PortId) (tag : Byte) (body : List Byte) (s : State) :
    Host.Outcome State Fault Refusal :=
  .next (takeCommand 0x0E .serviceOnly (fun n => n % 3 == 0) actSetDeviceParameters i tag body s)

/-! ## START (R167, R168) -/

/-- An accepted START or autostart: the device state, then the start modes and the power-on sequence. -/
def Ev.start (w : Ev) : Ev := (w.onDevice (fun d => { d with state := .starting })).beginStart

def actStart (_body : List Byte) (w : Ev) : Answer :=
  require (w.s.sequencer.activity == .none) .busy [] <|
  require (w.s.device.state == .configuring) .wrongDeviceState [] <|
  match startFault w.s with
  | some item => refuse .configInvalid [byte item.code, byte item.index]
  | none => accept w.start.settle [byte DeviceState.starting.code]

def execStart (i : PortId) (tag : Byte) (body : List Byte) (s : State) : Host.Outcome State Fault Refusal :=
  .next (takeCommand 0x12 .serviceOnly (fun n => n == 0) actStart i tag body s)

/-! ## HALT (R105, R170) -/

/-- The halt disturbance of every section (R105). -/
def Ev.haltSections (w : Ev) : Ev :=
  allSections.foldl (fun w n => w.onSection n (SectionRecord.disturb .deviceHalt)) w

/-- The three steps of an accepted HALT: the halt disturbance; HALTING, with a stopped-counting notice from every point
that was counting; the power-off sequence. -/
def Ev.halt (w : Ev) : Ev :=
  let stopping := allPoints.filter (counting w.s)
  let w := w.haltSections
  let w := w.onDevice (fun d => { d with state := .halting })
  let w := stopping.foldl (fun w p => w.disturbAll p .deviceHalt) w
  w.startPowerOff

def actHalt (_body : List Byte) (w : Ev) : Answer :=
  require (w.s.sequencer.activity == .none) .busy [] <|
  require (w.s.device.state == .running || w.s.device.state == .starting) .wrongDeviceState [] <|
  accept w.halt.settle [byte DeviceState.halting.code]

def execHalt (i : PortId) (tag : Byte) (body : List Byte) (s : State) : Host.Outcome State Fault Refusal :=
  .next (takeCommand 0x13 .serviceOnly (fun n => n == 0) actHalt i tag body s)

/-! ## STORE IMAGE (R173) -/

/-- The autostart flag of STORE IMAGE: 0 or 1. -/
def storeFlag (b : Byte) : Option Bool := if b = 0 then some false else if b = 1 then some true else none

def actStoreImage (body : List Byte) (w : Ev) : Answer :=
  match body with
  | [autostart] =>
    require (w.s.device.state == .configuring || w.s.device.state == .running) .wrongDeviceState [] <|
    require w.s.device.store.isNone .busy [] <|
    withArgument (storeFlag autostart) fun auto =>
    accept (w.beginWrite (Configuration.ofState w.s auto).image headerSize) []
  | _ => refuse .badLength []

def execStoreImage (i : PortId) (tag : Byte) (body : List Byte) (s : State) : Host.Outcome State Fault Refusal :=
  .next (takeCommand 0x14 .serviceOnly (fun n => n == 1) actStoreImage i tag body s)

/-! ## QUERY DEVICE and LINK CHECK (R187) -/

def actDeviceRecord (_body : List Byte) (w : Ev) : Answer := accept w (deviceRecord w.s)

def execQueryDevice (i : PortId) (tag : Byte) (body : List Byte) (s : State) : Host.Outcome State Fault Refusal :=
  .next (takeCommand 0x03 .both (fun n => n == 0) actDeviceRecord i tag body s)

def execLinkCheck (i : PortId) (tag : Byte) (body : List Byte) (s : State) : Host.Outcome State Fault Refusal :=
  .next (takeCommand 0x04 .both (fun n => n == 0) actDeviceRecord i tag body s)

end Sys2Proof.Machine
end

