-- ==== Sys2Proof/Machine/PortEvents.lean ====
section
/-! DEFINITION. Machine/PortEvents.lean: the expiries and line events of the message ports and of the outputs, and
UNKNOWN_COMMAND, SET REPORT MASK, SET PORT PARAMETERS and SET TRACE (chapters 10 and 11). An expiry whose timer is
stopped or not yet due is no event (notes/assumptions/7.md). -/

namespace Sys2Proof.Machine

/-! ## PHASE_TIMER_EXPIRY (R176, R177, R179) -/

/-- A rising edge of the common phase at a CLR output. -/
def Drive.rise : Drive → Drive
  | .low => .low
  | .armed => .toggling
  | .toggling => .toggling

/-- The level of RUN after a rising edge that finds the drive state `d` and the level `high`. -/
def runAfterRise (d : Drive) (high : Bool) : Bool :=
  match d with
  | .low => high
  | .armed => true
  | .toggling => !high

/-- An expiry of the phase timer: the phase changes, the timer runs again, and a rising edge acts on the outputs. -/
def Outputs.phaseEdge (o : Outputs) : Outputs :=
  let o := { o with phaseHigh := !o.phaseHigh, phaseTimer := o.phaseTimer.again }
  if o.phaseHigh then { o with clr := o.clr.map Drive.rise, runHigh := runAfterRise o.run o.runHigh, run := o.run.rise }
  else o

def execPhaseTimerExpiry (s : State) : Host.Outcome State Fault Refusal :=
  if s.outputs.phaseTimer.reached s.now then .next { s with outputs := s.outputs.phaseEdge } else .next s

/-! ## GAP_TIMER_EXPIRY and FRAME_DISCARDED (R183) -/

/-- A frame discarded: the frame error tally rises and the assembly takes up the next character in HUNTING. -/
def Port.discardFrame (q : Port) : Port :=
  { q with frameErrors := raise q.frameErrors, assembly := .hunting, gapTimer := none }

def execGapTimerExpiry (i : PortId) (s : State) : Host.Outcome State Fault Refusal :=
  if timerReached s.now (s.port i).gapTimer then .next (s.onPort i Port.discardFrame) else .next s

/-- Each of the reasons raises the tally alike (R183; notes/assumptions/19.md). -/
def execFrameDiscarded (i : PortId) (_reason : DiscardReason) (s : State) : Host.Outcome State Fault Refusal :=
  .next (s.onPort i Port.discardFrame)

/-! ## REFILL_TIMER_EXPIRY, IMAGE_TIMER_EXPIRY, LINK_TIMER_EXPIRY (R193, R194, R195) -/

/-- The bucket gains one token, and the refill timer runs again. -/
def Port.refill (q : Port) : Port := { q with refillTimer := q.refillTimer.again }.addToken

def execRefillTimerExpiry (i : PortId) (s : State) : Host.Outcome State Fault Refusal :=
  if (s.port i).refillTimer.reached s.now then
    .next (runEvent (fun w => { w with s := w.s.onPort i Port.refill }) s)
  else .next s

/-- The image due flag is set, and the image timer runs again. -/
def Link.imageExpiry (l : Link) : Link := { l with imageDue := true, imageTimer := l.imageTimer.again }

def execImageTimerExpiry (s : State) : Host.Outcome State Fault Refusal :=
  if s.link.imageTimer.reached s.now then
    .next (runEvent (fun w => { w with s := { w.s with link := w.s.link.imageExpiry } }) s)
  else .next s

/-- The link goes DOWN. -/
def Link.goDown (l : Link) : Link := { l with up := false, timer := none }

def execLinkTimerExpiry (s : State) : Host.Outcome State Fault Refusal :=
  if timerReached s.now s.link.timer then .next { s with link := s.link.goDown } else .next s

/-! ## TRANSMIT_COMPLETE (R188) -/

/-- The transmitter becomes free and chooses the next frame. A free transmitter has no frame to complete. -/
def execTransmitComplete (i : PortId) (s : State) : Host.Outcome State Fault Refusal :=
  if (s.port i).sending.isSome then
    .next (runEvent (fun w => { w with s := w.s.onPort i (fun q => { q with sending := none }) }) s)
  else .next s

/-! ## UNKNOWN_COMMAND (R184) -/

/-- A valid frame whose kind is no command's: steps 1 and 2 of R184, then the refusal with the kind echoed. -/
def execUnknownCommand (i : PortId) (kind tag : Byte) (_body : List Byte) (s : State) :
    Host.Outcome State Fault Refusal :=
  let s := s.frameTaken i
  if 4 ≤ (s.port i).replies.length then .next (runEvent id (s.overrun i))
  else .next (Answer.conclude i kind tag s (refuse .unknownCommand []))

/-! ## SET REPORT MASK (R191) -/

/-- The class mask named by a field; none when it names a class outside the four. -/
def classMask (b : Byte) : Option ClassMask :=
  if b.toNat < 16 then some ⟨b.getLsbD 0, b.getLsbD 1, b.getLsbD 2, b.getLsbD 3⟩ else none

/-- A new mask: the queued subjects of other classes leave, and the rest keep their order. -/
def Port.setMask (m : ClassMask) (q : Port) : Port :=
  { q with mask := m, queue := q.queue.filter (fun e => e.subject.inMask m) }

def actSetReportMask (i : PortId) (body : List Byte) (w : Ev) : Answer :=
  match body with
  | [field] =>
    withArgument (classMask field) fun m =>
    let w := { w with s := w.s.onPort i (Port.setMask m) }
    accept w [byte (w.s.port i).mask.bits, byte (w.s.port i).queue.length]
  | _ => refuse .badLength []

def execSetReportMask (i : PortId) (tag : Byte) (body : List Byte) (s : State) : Host.Outcome State Fault Refusal :=
  .next (takeCommand 0x08 .both (fun n => n == 1) (actSetReportMask i) i tag body s)

/-! ## SET PORT PARAMETERS (R193, R194, R195, R199) -/

/-- The control port's four values. -/
def State.setControlParams (burst refill image link : Nat) (s : State) : State :=
  { s with control := s.control.setPacing s.now burst refill
           link := (s.link.setImagePeriod s.now image).setTimeout s.now link }

/-- The service port's two values. -/
def State.setServiceParams (burst refill : Nat) (s : State) : State :=
  { s with service := s.service.setPacing s.now burst refill }

/-- The reply carries the values in force and the clamped fields: burst in bit 0, refill period in bit 1, image period
in bit 2 and link timeout in bit 3 (notes/assumptions/11.md). -/
def portParamsChecked (port : PortId) (burst refill image link : Nat) (w : Ev) : Answer :=
  let b := burstRange.clamp burst
  let r := refillRange.clamp refill
  let paced := flag (b != burst) 0 + flag (r != refill) 1
  match port with
  | .control =>
    let p := imagePeriodRange.clamp image
    let t := clampLinkTimeout link
    accept { w with s := w.s.setControlParams b r p t }
      ([byte b] ++ bytes2 r ++ bytes2 p ++ bytes2 t
        ++ [byte (paced + flag (p != image) 2 + flag (t != link) 3)])
  | .service =>
    accept { w with s := w.s.setServiceParams b r }
      ([byte b] ++ bytes2 r ++ bytes2Or none ++ bytes2Or none ++ [byte paced])

def actSetPortParameters (body : List Byte) (w : Ev) : Answer :=
  match body with
  | [port, burst, r1, r0, p1, p0, t1, t0] =>
    require w.s.device.state.live .wrongDeviceState [] <|
    withArgument (portIndex port) fun q =>
    portParamsChecked q burst.toNat (word r1 r0) (word p1 p0) (word t1 t0) w
  | _ => refuse .badLength []

def execSetPortParameters (i : PortId) (tag : Byte) (body : List Byte) (s : State) :
    Host.Outcome State Fault Refusal :=
  .next (takeCommand 0x10 .serviceOnly (fun n => n == 8) actSetPortParameters i tag body s)

/-! ## SET TRACE (R198) -/

/-- The kind mask names no kind outside the six, and the section mask no section above 11. -/
def traceMasksFit (kinds : Byte) (sections : Nat) : Bool := decide (kinds.toNat < 64) && decide (sections < 4096)

/-- The three masks replaced; the buffer and the drop count stay. -/
def Trace.setMasks (points : Nat) (kinds : Byte) (sections : Nat) (t : Trace) : Trace :=
  { t with pointMask := BitVec.ofNat 16 points, kindMask := kinds, sectionMask := BitVec.ofNat 16 sections }

def actSetTrace (body : List Byte) (w : Ev) : Answer :=
  match body with
  | [p1, p0, kinds, n1, n0] =>
    require (traceMasksFit kinds (word n1 n0)) .badArgument [] <|
    let w := { w with s := { w.s with trace := w.s.trace.setMasks (word p1 p0) kinds (word n1 n0) } }
    accept w (bytes2 w.s.trace.pointMask.toNat ++ [w.s.trace.kindMask] ++ bytes2 w.s.trace.sectionMask.toNat
      ++ [byte w.s.trace.buffer.length] ++ bytes2 w.s.trace.drops)
  | _ => refuse .badLength []

def execSetTrace (i : PortId) (tag : Byte) (body : List Byte) (s : State) : Host.Outcome State Fault Refusal :=
  .next (takeCommand 0x11 .serviceOnly (fun n => n == 5) actSetTrace i tag body s)

end Sys2Proof.Machine
end

