-- ==== Sys2Proof/Machine/ProofEvents.lean ====
section
/-! DEFINITION. Machine/ProofEvents.lean: the meanings of the expiries of detector proving (R52, R58, R59, R64). An expiry
whose timer or window is not running or not yet due is no event (notes/assumptions/7.md). -/

namespace Sys2Proof.Machine

/-- DUE_TIMER_EXPIRY (R52): the system becomes due and joins the tail of the proof queue. -/
def execDueTimerExpiry (p : PointId) (x : Sys) (s : State) : Host.Outcome State Fault Refusal :=
  if timerReached s.now ((s.point p).proof x).dueTimer then
    .next (runEvent (fun w => (w.dueExpiry p x).settle) s)
  else .next s

/-- OVERDUE_TIMER_EXPIRY (R52): the system becomes overdue, and its point's sections hear of it (R67). -/
def execOverdueTimerExpiry (p : PointId) (x : Sys) (s : State) : Host.Outcome State Fault Refusal :=
  if timerReached s.now ((s.point p).proof x).overdueTimer then
    .next (runEvent (fun w => w.overdueExpiry p x) s)
  else .next s

/-- ASSERT_WINDOW_EXPIRY (R58, R61): the proof fails with NO_RESPONSE, and the free channel takes the next system at this
event (R56), the failed one included: the model's choice (notes/assumptions/38.md). -/
def execAssertWindowExpiry (s : State) : Host.Outcome State Fault Refusal :=
  match s.channel with
  | none => .next s
  | some pr =>
    if pr.phase == .assert && pr.window.reached s.now then
      .next (runEvent (fun w => (w.failProof pr .noResponse).settle) s)
    else .next s

/-- RELEASE_WINDOW_EXPIRY (R59, R61): the proof fails with NO_RELEASE. -/
def execReleaseWindowExpiry (s : State) : Host.Outcome State Fault Refusal :=
  match s.channel with
  | none => .next s
  | some pr =>
    if pr.phase == .release && pr.window.reached s.now then
      .next (runEvent (fun w => (w.failProof pr .noRelease).settle) s)
    else .next s

/-- ABORT_WAIT_EXPIRY (R64): the decision, and the system returns to the head of the queue. -/
def execAbortWaitExpiry (s : State) : Host.Outcome State Fault Refusal :=
  match s.channel with
  | none => .next s
  | some pr =>
    if pr.phase == .abortWait && pr.window.reached s.now then
      .next (runEvent (fun w => (w.decideAbort pr).settle) s)
    else .next s

end Sys2Proof.Machine
end

