-- ==== Sys2Proof/Machine/SupplyEvents.lean ====
section
/-! DEFINITION. Machine/SupplyEvents.lean: the meanings of the supply events and commands (chapter 8). An expiry whose
timer is not running in the state it belongs to, or is not yet due, is no event (notes/assumptions/7.md). -/

namespace Sys2Proof.Machine

/-- SUPPLY_GOOD_CHANGE (R146, R148, R149, R151). -/
def execSupplyGoodChange (g : GroupId) (s : State) : Host.Outcome State Fault Refusal :=
  .next (runEvent (fun w => (w.supplyGoodChange g).settle) s)

/-- The group is in the state and its timer is due. -/
def groupDue (s : State) (g : GroupId) (st : GroupState) : Bool :=
  (s.group g).state == st && timerReached s.now (s.group g).timer

/-- SUPPLY_GOOD_TIMEOUT (R148): ENABLING ends in FAILED with ENABLE_TIMEOUT. -/
def execSupplyGoodTimeout (g : GroupId) (s : State) : Host.Outcome State Fault Refusal :=
  if groupDue s g .enabling then
    .next (runEvent (fun w => (w.onGroup g (Group.toFailed .enableTimeout)).settle) s)
  else .next s

/-- SETTLE_TIMER_EXPIRY (R149, R150): the group becomes READY. -/
def execSettleTimerExpiry (g : GroupId) (s : State) : Host.Outcome State Fault Refusal :=
  if groupDue s g .settling then .next (runEvent (fun w => (w.enterReady g).settle) s) else .next s

/-- OFF_TIME_EXPIRY (R155, R156). -/
def execOffTimeExpiry (g : GroupId) (s : State) : Host.Outcome State Fault Refusal :=
  if groupDue s g .disabling then .next (runEvent (fun w => (w.offTimeExpiry g).settle) s) else .next s

/-- TURN_TIMER_EXPIRY (R152, R154): the next group of the running sequence has its turn. -/
def execTurnTimerExpiry (s : State) : Host.Outcome State Fault Refusal :=
  match s.sequencer.activity, s.sequencer.nextTurn with
  | .powerOn, some g =>
    if timerReached s.now s.sequencer.turnTimer then .next (runEvent (fun w => (w.turn true g).settle) s)
    else .next s
  | .powerOff, some g =>
    if timerReached s.now s.sequencer.turnTimer then .next (runEvent (fun w => (w.turn false g).settle) s)
    else .next s
  | _, _ => .next s

/-! ## SET SUPPLY PARAMETERS (R147) -/

/-- A new settle time on a group in SETTLING (R147). -/
def Ev.retimeSettle (settle : Nat) (g : GroupId) (w : Ev) : Ev :=
  match (w.s.group g).state, (w.s.group g).timer with
  | .settling, some t =>
    if (Timer.mk t.start (ms settle)).reached w.s.now then w.enterReady g
    else w.onGroup g (fun r => { r with timer := some ⟨t.start, ms settle⟩ })
  | _, _ => w

/-- The four values replaced, and the running settle timers with them. -/
def Ev.setSupplyParams (q : SupplyParams) (w : Ev) : Ev :=
  let w := w.onSequencer (fun r => { r with params := q })
  allGroups.foldl (fun w g => w.retimeSettle q.settle g) w

def actSetSupplyParameters (body : List Byte) (w : Ev) : Answer :=
  match body with
  | [a1, a0, b1, b0, c1, c0, s1, s0] =>
    require (w.s.device.state == .configuring) .wrongDeviceState [] <|
    let raw : SupplyParams := ⟨word a1 a0, word b1 b0, word c1 c0, word s1 s0⟩
    let q := raw.clamped
    accept (w.setSupplyParams q).settle
      (bytes2 q.delay01 ++ bytes2 q.delay12 ++ bytes2 q.delay23 ++ bytes2 q.settle
        ++ [byte (flag (q.delay01 != raw.delay01) 0 + flag (q.delay12 != raw.delay12) 1
              + flag (q.delay23 != raw.delay23) 2 + flag (q.settle != raw.settle) 3)])
  | _ => refuse .badLength []

def execSetSupplyParameters (i : PortId) (tag : Byte) (body : List Byte) (s : State) :
    Host.Outcome State Fault Refusal :=
  .next (takeCommand 0x0F .serviceOnly (fun n => n == 8) actSetSupplyParameters i tag body s)

/-! ## RECYCLE GROUP (R156) -/

/-- The checks in the order of R156, so that a STARTING device answers WRONG_DEVICE_STATE where the table of R153 has BUSY:
the model's choice (notes/assumptions/33.md). -/
def actRecycleGroup (body : List Byte) (w : Ev) : Answer :=
  match body with
  | [group] =>
    require (w.s.device.state == .running) .wrongDeviceState [] <|
    withArgument (groupIndex group) fun g =>
    require (w.s.sequencer.activity == .none) .busy [] <|
    require ((w.s.group g).state == .ready || (w.s.group g).state == .failed) .groupState
      [byte (w.s.group g).state.code] <|
    let w := (w.onSequencer (fun q => { q with activity := .recycle g })).leaveGroup g .supplyOff
      (Group.toTimed .disabling (startTimer w.s.now offTime))
    accept w.settle [byte g.val, byte GroupState.disabling.code]
  | _ => refuse .badLength []

def execRecycleGroup (i : PortId) (tag : Byte) (body : List Byte) (s : State) : Host.Outcome State Fault Refusal :=
  .next (takeCommand 0x15 .serviceOnly (fun n => n == 1) actRecycleGroup i tag body s)

/-! ## FORCE SUPPLY (R157) -/

/-- The level of FORCE SUPPLY: OFF 0, ON 1 (R202). -/
def forceLevel (b : Byte) : Option Bool := if b = 0 then some false else if b = 1 then some true else none

def actForceSupply (body : List Byte) (w : Ev) : Answer :=
  match body with
  | [group, level] =>
    require w.s.device.state.live .wrongDeviceState [] <|
    withArgument (groupIndex group) fun g =>
    withArgument (forceLevel level) fun on =>
    let before := (w.s.group g).state
    accept (w.leaveGroup g .supplyOff (Group.toManual on)).settle [byte g.val, byte before.code, flagByte on]
  | _ => refuse .badLength []

def execForceSupply (i : PortId) (tag : Byte) (body : List Byte) (s : State) : Host.Outcome State Fault Refusal :=
  .next (takeCommand 0x16 .serviceOnly (fun n => n == 2) actForceSupply i tag body s)

/-! ## RELEASE SUPPLY (R158) -/

/-- The group's turn in the power-on sequence has not yet come. -/
def turnToCome (s : State) (g : GroupId) : Bool :=
  match s.device.state, s.sequencer.nextTurn with
  | .starting, some next => decide (next.val ≤ g.val)
  | _, _ => false

/-- The state of a group released from MANUAL (R158). -/
def Ev.releaseGroup (g : GroupId) (w : Ev) : Ev :=
  let r := w.s.group g
  if r.forced = some true then
    if r.good then w.enterSettling g else w.onGroup g (Group.toFailed .releasedUnpowered)
  else if w.s.device.state = .configuring || turnToCome w.s g then w.onGroup g (Group.toState .off)
  else w.onGroup g (Group.toFailed .releasedOff)

def actReleaseSupply (body : List Byte) (w : Ev) : Answer :=
  match body with
  | [group] =>
    require w.s.device.state.live .wrongDeviceState [] <|
    withArgument (groupIndex group) fun g =>
    require ((w.s.group g).state == .manual) .groupState [byte (w.s.group g).state.code] <|
    let w := w.releaseGroup g
    accept w.settle [byte g.val, byte (w.s.group g).state.code]
  | _ => refuse .badLength []

def execReleaseSupply (i : PortId) (tag : Byte) (body : List Byte) (s : State) : Host.Outcome State Fault Refusal :=
  .next (takeCommand 0x17 .serviceOnly (fun n => n == 1) actReleaseSupply i tag body s)

end Sys2Proof.Machine
end

