-- ==== Sys2Proof/Machine/Characters.lean ====
section
/-! DEFINITION. Machine/Characters.lean: the receive assembly (R183), and CHARACTER_RECEIVED. The character that completes
a valid frame takes the frame as the command of its kind (R184, R201). -/

namespace Sys2Proof.Machine

/-- What a received character does to the assembly. -/
inductive Taken
  | wait (next : Assembly)
  | discard
  | complete (kind tag : Byte) (body : List Byte)
deriving DecidableEq, Repr

/-- The bytes after LEN of a complete frame: KIND, TAG and the body, when the CRC received after them equals the CRC of
LEN, KIND, TAG and the body. -/
def judgeFrame (len : Byte) (kept : List Byte) : Taken :=
  let covered := kept.take len.toNat
  if kept.drop len.toNat = crcBytes (len :: covered) then
    match covered with
    | kind :: tag :: body => .complete kind tag body
    | _ => .discard
  else .discard

/-- The table of R183. -/
def Assembly.take (c : Character) : Assembly → Taken
  | .hunting =>
    match c with
    | .byte b => if b = 0xC3 then .wait .length else .wait .hunting
    | .stopBitLow => .wait .hunting
  | .length =>
    match c with
    | .byte b => if 2 ≤ b.toNat ∧ b.toNat ≤ 242 then .wait (.collecting b []) else .discard
    | .stopBitLow => .discard
  | .collecting len kept =>
    match c with
    | .byte b =>
      if kept.length + 1 < len.toNat + 2 then .wait (.collecting len (kept ++ [b])) else judgeFrame len (kept ++ [b])
    | .stopBitLow => .discard

/-- The assembly waiting for a further character: the gap timer runs from this one in LENGTH and COLLECTING
(notes/assumptions/18.md). -/
def Port.await (now : Time) (a : Assembly) (q : Port) : Port :=
  { q with assembly := a, gapTimer := if a = .hunting then none else some (startTimer now gapLength) }

/-- A valid frame taken as the command of its kind (R201). -/
def takeFrame (i : PortId) (kind tag : Byte) (body : List Byte) (s : State) : Host.Outcome State Fault Refusal :=
  match kind.toNat with
  | 0x01 => execRestoreSection i tag body s
  | 0x02 => execCancelRestore i tag body s
  | 0x03 => execQueryDevice i tag body s
  | 0x04 => execLinkCheck i tag body s
  | 0x05 => execQuerySections i tag body s
  | 0x06 => execQueryPoints i tag body s
  | 0x07 => execDisturbSection i tag body s
  | 0x08 => execSetReportMask i tag body s
  | 0x09 => execSetTopology i tag body s
  | 0x0A => execSetPointMode i tag body s
  | 0x0B => execSetPointParameters i tag body s
  | 0x0C => execClearPointFault i tag body s
  | 0x0D => execSetSectionParameters i tag body s
  | 0x0E => execSetDeviceParameters i tag body s
  | 0x0F => execSetSupplyParameters i tag body s
  | 0x10 => execSetPortParameters i tag body s
  | 0x11 => execSetTrace i tag body s
  | 0x12 => execStart i tag body s
  | 0x13 => execHalt i tag body s
  | 0x14 => execStoreImage i tag body s
  | 0x15 => execRecycleGroup i tag body s
  | 0x16 => execForceSupply i tag body s
  | 0x17 => execReleaseSupply i tag body s
  | _ => execUnknownCommand i kind tag body s

def execCharacterReceived (i : PortId) (c : Character) (s : State) : Host.Outcome State Fault Refusal :=
  match (s.port i).assembly.take c with
  | .wait a => .next (s.onPort i (Port.await s.now a))
  | .discard => .next (s.onPort i Port.discardFrame)
  | .complete kind tag body => takeFrame i kind tag body s

end Sys2Proof.Machine
end

