-- ==== Sys2Proof/Machine/Clock.lean ====
section
/-! DEFINITION. Machine/Clock.lean: one unit of the time counter, which the part passes while no command waits
(notes/assumptions/6.md): the samples of the detector lines and of the supply-good inputs (R1, R2, R5, R146), and the
expiries that the time counter reaches (00_scope.md, Time). What they find joins the queue as commands; the commands'
meanings do the work. -/

namespace Sys2Proof.Machine

/-! ## Samples -/

/-- A line after a sample (R2): the raw sample is kept, a run that goes on grows by one, and its start time is the
sample time when it begins. An excursion that ends leaves run length 0. -/
def Line.sampled (now : Time) (l : Line) : Line :=
  if l.pinLow = l.accepted then { l with raw := l.pinLow, run := 0 }
  else { l with raw := l.pinLow, run := l.run + 1, runStart := if l.run = 0 then now else l.runStart }

/-- What a sample finds on a line (R2, R3, R5). -/
inductive Found
  | nothing
  | accepted (changeTime : Time)
  | glitch (start : Time) (length : Nat)
deriving DecidableEq, Repr

/-- The sample judged by the filter length in force. -/
def Line.found (now : Time) (filter : Nat) (l : Line) : Found :=
  if l.pinLow = l.accepted then
    if 2 ≤ l.run then .glitch l.runStart l.run else .nothing
  else if filter ≤ l.run + 1 then .accepted (if l.run = 0 then now else l.runStart)
  else .nothing

/-- One line's finding as a command. -/
def Found.commands (p : PointId) (x : Sys) : Found → List Instr
  | .nothing => []
  | .accepted t => [.acceptedChange p x.lines t]
  | .glitch start length => [.glitch p x start (byte length)]

/-- The findings of a point's two lines at one sample (R7): equal change times are one change of the pair; changes with
different change times come in the order of their change times; all else has no order of its own. -/
def pointFindings (now : Time) (p : PointId) (a b : Found) : List (List Instr) :=
  match a, b with
  | .accepted ta, .accepted tb =>
    if ta = tb then [[.acceptedChange p .both ta]]
    else if (now - tb).toNat < (now - ta).toNat then [[.acceptedChange p .a ta, .acceptedChange p .b tb]]
    else [[.acceptedChange p .b tb, .acceptedChange p .a ta]]
  | a, b => [a.commands p .a, b.commands p .b]

/-- A supply-good input after a sample (R146). -/
def Group.sampled (g : Group) : Group := { g with run := if g.pinHigh = g.good then 0 else g.run + 1 }

/-- The tenth differing sample in a row (R146). -/
def Group.accepts (g : Group) : Bool := g.pinHigh != g.good && decide (supplyFilter ≤ g.run + 1)

/-- Every line and supply-good input after the samples of this time-counter value. -/
def State.sampled (s : State) : State :=
  { s with
    points := s.points.map (fun pt => { pt with lineA := pt.lineA.sampled s.now, lineB := pt.lineB.sampled s.now })
    groups := s.groups.map Group.sampled
    sampleDue := false }

/-- What the samples find. -/
def sampleFindings (s : State) : List (List Instr) :=
  allPoints.flatMap (fun p =>
    pointFindings s.now p ((s.point p).lineA.found s.now (s.point p).params.filter)
      ((s.point p).lineB.found s.now (s.point p).params.filter))
    ++ allGroups.map (fun g => if (s.group g).accepts then [.supplyGoodChange g] else [])

/-! ## Expiries -/

/-- A command that is due, or none. -/
def due (reached : Bool) (c : Instr) : List Instr := if reached then [c] else []

def pointExpiries (s : State) (p : PointId) : List (List Instr) :=
  let pt := s.point p
  [due (timerReached s.now pt.quietTimer) (.quietTimerExpiry p),
   due (timerReached s.now pt.proofA.dueTimer) (.dueTimerExpiry p .a),
   due (timerReached s.now pt.proofB.dueTimer) (.dueTimerExpiry p .b),
   due (timerReached s.now pt.proofA.overdueTimer) (.overdueTimerExpiry p .a),
   due (timerReached s.now pt.proofB.overdueTimer) (.overdueTimerExpiry p .b)]

def channelExpiry (s : State) : List Instr :=
  match s.channel with
  | none => []
  | some pr =>
    due (pr.window.reached s.now)
      (match pr.phase with
       | .assert => .assertWindowExpiry
       | .release => .releaseWindowExpiry
       | .abortWait => .abortWaitExpiry)

def sectionExpiries (s : State) (n : SectionId) : List (List Instr) :=
  [due (timerReached s.now (s.sec n).clearTimer) (.clearDelayExpiry n),
   due (timerReached s.now (s.sec n).holdoffTimer) (.holdoffTimerExpiry n)]

/-- The group timer's expiry, by the state it runs in (R148, R149, R155). -/
def groupExpiry (s : State) (g : GroupId) : List Instr :=
  if timerReached s.now (s.group g).timer then
    match (s.group g).state with
    | .enabling => [.supplyGoodTimeout g]
    | .settling => [.settleTimerExpiry g]
    | .disabling => [.offTimeExpiry g]
    | .off => []
    | .ready => []
    | .failed => []
    | .manual => []
  else []

/-- The acknowledgement timer of the memory write outstanding has been reached (R174). -/
def writeLapses (s : State) : Bool := timerReached s.now (s.device.store.map StoreProgress.timer)

/-- Every timer that the time counter has reached. -/
def expiries (s : State) : List (List Instr) :=
  allPoints.flatMap (pointExpiries s)
    ++ [due (s.leakTimer.reached s.now) .leakTimerExpiry, channelExpiry s]
    ++ allSections.flatMap (sectionExpiries s)
    ++ allGroups.map (groupExpiry s)
    ++ [due (timerReached s.now s.sequencer.turnTimer) .turnTimerExpiry,
        due (s.outputs.phaseTimer.reached s.now) .phaseTimerExpiry,
        due (writeLapses s) .storeFailed]
    ++ allPorts.map (fun i => due (timerReached s.now (s.port i).gapTimer) (.gapTimerExpiry i))
    ++ allPorts.map (fun i => due ((s.port i).refillTimer.reached s.now) (.refillTimerExpiry i))
    ++ [due (s.link.imageTimer.reached s.now) .imageTimerExpiry,
        due (timerReached s.now s.link.timer) .linkTimerExpiry]

/-! ## The order of what falls at one time-counter value -/

/-- The events of one time-counter value in one sequence. Those within a list keep their order; among the lists the next
event is a free choice wherever more than one list is left (notes/assumptions/2.md). The answer carries the number of
the next choice. -/
def inOrder : Nat → Nat → List (List Instr) → List Instr × Nat
  | 0, k, _ => ([], k)
  | _ + 1, k, [] => ([], k)
  | _ + 1, k, [u] => (u, k)
  | n + 1, k, us =>
    let j := Config.eventOrder k % us.length
    let (l, k') := inOrder n (k + 1) ((us.set j ((us.getD j []).drop 1)).filter (fun u => !u.isEmpty))
    ((us.getD j []).take 1 ++ l, k')

/-- The events in a sequence, with empty lists left out. -/
def sequenced (k : Nat) (us : List (List Instr)) : List Instr × Nat :=
  inOrder us.flatten.length k (us.filter (fun u => !u.isEmpty))

/-- One unit of time: the time counter advances, the lines and inputs are sampled, and what the samples and the expiries
find joins the queue. At reset the first samples are those of time 0, so the counter does not advance before them (R6,
R163). -/
def State.tick (s : State) : State :=
  let s := if s.sampleDue then s else { s with now := s.now + 1 }
  let (found, k) := sequenced s.choices (sampleFindings s ++ expiries s)
  { s.sampled with pending := s.pending ++ found, choices := k, writeLapsed := writeLapses s }

end Sys2Proof.Machine
end

