-- ==== Sys2Proof/Machine/Dispatch.lean ====
section
/-! DEFINITION. Machine/Dispatch.lean: the meaning of each command. -/

namespace Sys2Proof.Machine

def exec (i : Instr) (s : State) : Host.Outcome State Fault Refusal :=
  match i with
  | .reset => Sys2Proof.Machine.execReset s
  | .acceptedChange p lines t => Sys2Proof.Machine.execAcceptedChange p lines t s
  | .glitch p x start length => Sys2Proof.Machine.execGlitch p x start length s
  | .quietTimerExpiry p => Sys2Proof.Machine.execQuietTimerExpiry p s
  | .leakTimerExpiry => Sys2Proof.Machine.execLeakTimerExpiry s
  | .dueTimerExpiry p x => Sys2Proof.Machine.execDueTimerExpiry p x s
  | .overdueTimerExpiry p x => Sys2Proof.Machine.execOverdueTimerExpiry p x s
  | .assertWindowExpiry => Sys2Proof.Machine.execAssertWindowExpiry s
  | .releaseWindowExpiry => Sys2Proof.Machine.execReleaseWindowExpiry s
  | .abortWaitExpiry => Sys2Proof.Machine.execAbortWaitExpiry s
  | .clearDelayExpiry n => Sys2Proof.Machine.execClearDelayExpiry n s
  | .holdoffTimerExpiry n => Sys2Proof.Machine.execHoldoffTimerExpiry n s
  | .supplyGoodChange g => Sys2Proof.Machine.execSupplyGoodChange g s
  | .supplyGoodTimeout g => Sys2Proof.Machine.execSupplyGoodTimeout g s
  | .settleTimerExpiry g => Sys2Proof.Machine.execSettleTimerExpiry g s
  | .offTimeExpiry g => Sys2Proof.Machine.execOffTimeExpiry g s
  | .turnTimerExpiry => Sys2Proof.Machine.execTurnTimerExpiry s
  | .phaseTimerExpiry => Sys2Proof.Machine.execPhaseTimerExpiry s
  | .gapTimerExpiry port => Sys2Proof.Machine.execGapTimerExpiry port s
  | .frameDiscarded port reason => Sys2Proof.Machine.execFrameDiscarded port reason s
  | .refillTimerExpiry port => Sys2Proof.Machine.execRefillTimerExpiry port s
  | .imageTimerExpiry => Sys2Proof.Machine.execImageTimerExpiry s
  | .linkTimerExpiry => Sys2Proof.Machine.execLinkTimerExpiry s
  | .transmitComplete port => Sys2Proof.Machine.execTransmitComplete port s
  | .imageLoadComplete m => Sys2Proof.Machine.execImageLoadComplete m s
  | .storeWriteAck => Sys2Proof.Machine.execStoreWriteAck s
  | .storeDone => Sys2Proof.Machine.execStoreDone s
  | .storeFailed => Sys2Proof.Machine.execStoreFailed s
  | .unknownCommand port kind tag body => Sys2Proof.Machine.execUnknownCommand port kind tag body s
  | .restoreSection port tag body => Sys2Proof.Machine.execRestoreSection port tag body s
  | .cancelRestore port tag body => Sys2Proof.Machine.execCancelRestore port tag body s
  | .queryDevice port tag body => Sys2Proof.Machine.execQueryDevice port tag body s
  | .linkCheck port tag body => Sys2Proof.Machine.execLinkCheck port tag body s
  | .querySections port tag body => Sys2Proof.Machine.execQuerySections port tag body s
  | .queryPoints port tag body => Sys2Proof.Machine.execQueryPoints port tag body s
  | .disturbSection port tag body => Sys2Proof.Machine.execDisturbSection port tag body s
  | .setReportMask port tag body => Sys2Proof.Machine.execSetReportMask port tag body s
  | .setTopology port tag body => Sys2Proof.Machine.execSetTopology port tag body s
  | .setPointMode port tag body => Sys2Proof.Machine.execSetPointMode port tag body s
  | .setPointParameters port tag body => Sys2Proof.Machine.execSetPointParameters port tag body s
  | .clearPointFault port tag body => Sys2Proof.Machine.execClearPointFault port tag body s
  | .setSectionParameters port tag body => Sys2Proof.Machine.execSetSectionParameters port tag body s
  | .setDeviceParameters port tag body => Sys2Proof.Machine.execSetDeviceParameters port tag body s
  | .setSupplyParameters port tag body => Sys2Proof.Machine.execSetSupplyParameters port tag body s
  | .setPortParameters port tag body => Sys2Proof.Machine.execSetPortParameters port tag body s
  | .setTrace port tag body => Sys2Proof.Machine.execSetTrace port tag body s
  | .start port tag body => Sys2Proof.Machine.execStart port tag body s
  | .halt port tag body => Sys2Proof.Machine.execHalt port tag body s
  | .storeImage port tag body => Sys2Proof.Machine.execStoreImage port tag body s
  | .recycleGroup port tag body => Sys2Proof.Machine.execRecycleGroup port tag body s
  | .forceSupply port tag body => Sys2Proof.Machine.execForceSupply port tag body s
  | .releaseSupply port tag body => Sys2Proof.Machine.execReleaseSupply port tag body s
  | .characterReceived port c => Sys2Proof.Machine.execCharacterReceived port c s

end Sys2Proof.Machine
end

