-- ==== Sys2Proof/Safety.lean ====
section
/-! DEFINITION. Safety.lean: the terms in which claims are made: what each kind of record keeps in every state of the part,
and what a command's event leaves apart from the frames and reports it causes. -/

namespace Sys2Proof.Machine

/-! ## What the records keep -/

/-- The six states of a crossing in flight (section 1.3). -/
def DirectionMachine.crossing : DirectionMachine → Bool
  | .idle => false
  | .up1 => true
  | .up2 => true
  | .up3 => true
  | .dn1 => true
  | .dn2 => true
  | .dn3 => true
  | .confused => false

/-- The engine of a point: a record in flight in the crossing states alone (R10); the confusion items in CONFUSED alone,
and the quiet timer stopped elsewhere (R16, R17); the level within 0 to 255 (R36, R39); fault cause and fault time in
FAULT alone (R41, R45); and the tallies and failure counts within their widths (R12, R46, R53). -/
def Point.Ok (pt : Point) : Prop :=
  (pt.passage.isSome ↔ pt.machine.crossing = true) ∧
  (pt.confusion.isSome ↔ pt.machine = .confused) ∧
  (pt.quietTimer.isSome → pt.machine = .confused) ∧
  pt.level ≤ 255 ∧
  (pt.faultCause.isSome ↔ pt.health = .fault) ∧
  (pt.faultTime.isSome ↔ pt.health = .fault) ∧
  (pt.retreatTally ≤ 65535 ∧ pt.glitchTally ≤ 65535 ∧ pt.irregularTally ≤ 65535 ∧ pt.overspeedTally ≤ 65535 ∧
    pt.confusedTally ≤ 65535 ∧ pt.proofFailTally ≤ 65535) ∧
  pt.proofA.failures ≤ 2 ∧ pt.proofB.failures ≤ 2

/-- A section record: the count within 0 to 1023 (R90) and 0 outside RESTORING, OCCUPIED and DISTURBED (R76, R92, R100);
the cause in DISTURBED alone (R85); in CLEARING either the clear-delay timer runs or the proof-hold flag is set, and
neither elsewhere (R93); the sweep flag in trusted states alone (R102, R123); and in a trusted state the count equal to
the entries minus the exits (R107). -/
def SectionRecord.Ok (r : SectionRecord) : Prop :=
  r.count ≤ 1023 ∧
  (r.state = .unused ∨ r.state = .clearing ∨ r.state = .clear → r.count = 0) ∧
  (r.cause.isSome ↔ r.state = .disturbed) ∧
  (r.state = .clearing ↔ (r.clearTimer.isSome ∨ r.hold = true)) ∧
  ¬(r.clearTimer.isSome ∧ r.hold = true) ∧
  (r.sweep = true → r.state.trusted = true) ∧
  (r.state.trusted = true → BitVec.ofNat 16 r.count = r.entries - r.exits)

/-- A group record (R145): its timer runs in ENABLING, SETTLING and DISABLING, a fail reason belongs to FAILED and a
forced level to MANUAL. -/
def Group.Ok (g : Group) : Prop :=
  (g.timer.isSome ↔ (g.state = .enabling ∨ g.state = .settling ∨ g.state = .disabling)) ∧
  (g.failReason.isSome ↔ g.state = .failed) ∧
  (g.forced.isSome ↔ g.state = .manual)

/-- The drives of the section-clear outputs and of RUN (R177, R179): a CLR output is out of LOW exactly while its section
is CLEAR, RUN is out of LOW exactly while the device is RUNNING, and RUN is low unless it toggles. -/
def State.OutputsOk (s : State) : Prop :=
  (∀ n, s.outputs.clr.get n ≠ .low ↔ (s.sec n).state = .clear) ∧
  (s.outputs.run ≠ .low ↔ s.device.state = .running) ∧
  (s.outputs.run ≠ .toggling → s.outputs.runHigh = false)

/-- The part trusts no count outside RUNNING (R162), and a power-off sequence never runs in RUNNING (R159). -/
def State.TrustOk (s : State) : Prop :=
  (s.device.state ≠ .running → ∀ n, (s.sec n).state.trusted = false) ∧
  (s.sequencer.activity = .powerOff → s.device.state ≠ .running)

/-- The proof queue holds each system once, and a system under proof is not in it (R54, R57). -/
def State.ProofsOk (s : State) : Prop :=
  s.queue.Nodup ∧ ∀ pr, s.channel = some pr → pr.system ∉ s.queue

/-- Only systems of eligible points wait in the proof queue or hold the channel (R54, R66). A due or overdue timer runs at
an eligible point alone, and a system that is not eligible is overdue and not due (R51, R52). -/
def State.EligibleOk (s : State) : Prop :=
  (∀ x ∈ s.queue, eligible s x.point = true) ∧
  (∀ pr, s.channel = some pr → eligible s pr.system.point = true) ∧
  ∀ p x, eligible s p = false →
    ((s.point p).proof x).dueTimer = none ∧ ((s.point p).proof x).overdueTimer = none ∧
    ((s.point p).proof x).due = false ∧ ((s.point p).proof x).overdue = true

/-- Every point whose level is at or above the fault threshold is in FAULT (R39). -/
def State.LevelsOk (s : State) : Prop := ∀ p, s.params.fault ≤ (s.point p).level → (s.point p).health = .fault

/-- Every device-wide parameter lies in its range, and the warning threshold below the fault threshold (R27, R171,
R172). -/
def DeviceParams.Ok (d : DeviceParams) : Prop :=
  (∀ c : ParamCode, c.range.holds (d.get c) = true) ∧ d.warnOn < d.fault

/-- A port: at most 4 replies wait (R185); the bucket holds 0 to burst tokens, with burst and refill period in range
(R193); the report queue holds each subject once, each of a class in the mask, with a changes count of 1 to 255 (R189);
the tallies saturate (R183, R184); and the gap timer runs exactly while a frame is being received (R183, which starts it
at the bytes received in LENGTH and COLLECTING; that it runs in LENGTH, from the start byte on, is the model's reading,
notes/assumptions/18.md). -/
def Port.Ok (q : Port) : Prop :=
  q.replies.length ≤ 4 ∧
  (q.tokens ≤ q.burst ∧ burstRange.holds q.burst = true ∧ refillRange.holds q.refillPeriod = true) ∧
  (q.queue.map ReportEntry.subject).Nodup ∧
  (∀ e ∈ q.queue, e.subject.inMask q.mask = true ∧ 1 ≤ e.changes ∧ e.changes ≤ 255) ∧
  (q.frameErrors ≤ 65535 ∧ q.overruns ≤ 65535) ∧
  (q.gapTimer.isSome ↔ q.assembly ≠ .hunting)

/-- Link supervision: with a link timeout of 0 the timer is stopped and the link UP; otherwise the timer runs exactly
while the link is UP (R195). -/
def Link.Ok (l : Link) : Prop :=
  (l.timeout = 0 → l.up = true ∧ l.timer = none) ∧
  (l.timeout ≠ 0 → (l.timer.isSome ↔ l.up = true)) ∧
  (l.timeout = 0 ∨ 100 ≤ l.timeout ∧ l.timeout ≤ 10000) ∧
  imagePeriodRange.holds l.imagePeriod = true

/-- The trace buffer holds up to 64 records, and the drop count saturates (R197). -/
def Trace.Ok (t : Trace) : Prop := t.buffer.length ≤ 64 ∧ t.drops ≤ 65535

def State.PointsOk (s : State) : Prop := ∀ p, (s.point p).Ok
def State.SectionsOk (s : State) : Prop := ∀ n, (s.sec n).Ok
def State.GroupsOk (s : State) : Prop := ∀ g, (s.group g).Ok

/-- The ports, the link and the trace. -/
def State.LinesOk (s : State) : Prop := s.control.Ok ∧ s.service.Ok ∧ s.link.Ok ∧ s.trace.Ok

/-- The Section Monitor's point view follows the points (R88): a point is active exactly while its machine is out of IDLE,
and overdue exactly while its proof overdue indication is on. -/
def State.ViewOk (s : State) : Prop :=
  ∀ p, ((s.view.get p).active = true ↔ (s.point p).machine ≠ .idle) ∧
    ((s.view.get p).overdue = true ↔ (s.point p).overdueIndication = true)

/-- Every member of a section whose count is trusted is counting (R103, R113). -/
def State.MembersOk (s : State) : Prop :=
  ∀ n, (s.sec n).state.trusted = true → ∀ p ∈ members s n, counting s p = true

/-- A CLEARING or CLEAR section has no active member, and a CLEAR one no overdue member (R92, R93, R96, R97). -/
def State.QuietOk (s : State) : Prop :=
  ∀ n, ((s.sec n).state = .clearing ∨ (s.sec n).state = .clear → anyActive s n = false) ∧
    ((s.sec n).state = .clear → anyOverdue s n = false)

/-- A safe state of the part: a wave on a section-clear output stands for a CLEAR section, with no axle in it, of a device
that is RUNNING; and the records keep what their rules say. -/
def State.Safe (s : State) : Prop :=
  s.PointsOk ∧ s.SectionsOk ∧ s.GroupsOk ∧ s.OutputsOk ∧ s.TrustOk ∧ s.ProofsOk ∧ s.params.Ok ∧ s.LinesOk ∧
    s.ViewOk ∧ s.MembersOk ∧ s.QuietOk

/-! ## What an event leaves, apart from frames and reports -/

/-- The two states differ in the ports, the link and the trace alone. -/
def AllButPorts (s t : State) : Prop :=
  t = { s with control := t.control, service := t.service, link := t.link, trace := t.trace }

/-- A port changes by posting and sending alone: its FIFO, its report queue, its tokens and its transmitter. -/
def Port.SendsOnly (q r : Port) : Prop :=
  r = { q with replies := r.replies, queue := r.queue, tokens := r.tokens, sendSequence := r.sendSequence,
               sending := r.sending }

/-- The ports, the link and the trace change by posting and sending alone. -/
def PortsSend (s t : State) : Prop :=
  s.control.SendsOnly t.control ∧ s.service.SendsOnly t.service ∧
  t.link = { s.link with imageDue := t.link.imageDue } ∧
  t.trace = { s.trace with buffer := t.trace.buffer, drops := t.trace.drops }

/-- `t` is the expected state, apart from what the event posts and what the transmitters then begin to send. -/
def Leaves (expected t : State) : Prop := AllButPorts expected t ∧ PortsSend expected t

/-- What follows when the work of an event is done: staged pairs, the proof channel and the end of a supply activity
(R56, R142, R153, R155, R156). -/
def State.settled (s : State) : State := (Ev.settle ⟨s, [], []⟩).s

/-- The state after a point's notices to the sections it bounds (R20, R67, R21, R104). -/
def State.sendActive (p : PointId) (s : State) : State := (Ev.pointActive p ⟨s, [], []⟩).s
def State.sendQuiet (p : PointId) (s : State) : State := (Ev.pointQuiet p ⟨s, [], []⟩).s
def State.sendOverdue (p : PointId) (s : State) : State := (Ev.proofOverdue p ⟨s, [], []⟩).s
def State.sendCurrent (p : PointId) (s : State) : State := (Ev.proofCurrent p ⟨s, [], []⟩).s
def State.sendDisturbance (p : PointId) (c : Cause) (s : State) : State := (Ev.disturbAll p c ⟨s, [], []⟩).s

/-- One record replaced. -/
def State.setPoint (p : PointId) (pt : Point) (s : State) : State := { s with points := s.points.set p pt }
def State.setGroup (g : GroupId) (r : Group) (s : State) : State := { s with groups := s.groups.set g r }

/-- One section's record replaced, with its clear output (R177). -/
def State.setSection (n : SectionId) (r : SectionRecord) (d : Drive) (s : State) : State :=
  { s with sections := s.sections.set n r, outputs := { s.outputs with clr := s.outputs.clr.set n d } }

/-- The state with a line's accepted change taken (R2). -/
def State.withChange (p : PointId) (x : Sys) (t : Time) (s : State) : State :=
  s.setPoint p ((s.point p).onLine x (Line.take t))

/-- The state with the accepted changes of the line or lines taken (R2). -/
def State.withChanges (p : PointId) (lines : Lines) (t : Time) (s : State) : State :=
  match lines with
  | .a => s.withChange p .a t
  | .b => s.withChange p .b t
  | .both => (s.withChange p .a t).withChange p .b t

/-- A change of the line or lines of a lit point in use is delivered to the machine (R7, R63): no proof is under way at the
point, or the change is the arriving system's during the wait after an abort. -/
def Delivers (s : State) (p : PointId) (lines : Lines) : Prop :=
  lit s p = true ∧ inUse s p = true ∧
  (proofAt s p = none ∨
    ∃ pr x, s.channel = some pr ∧ pr.phase = .abortWait ∧ pr.system = ⟨p, Sys.other x⟩ ∧ lines = x.lines)

/-- The state after a counted count event is handed to its sections (R15 step 3, R81); one with no section on either side
is a plain quiet notice (R20). -/
def State.handOver (e : CountEvent) (s : State) : State :=
  if e.left.isSome || e.entered.isSome then (Ev.handOver e ⟨s, [], []⟩).s else s.sendQuiet e.point

/-- The state after one point of a group has gone dark (R151), or has lit (R150). -/
def State.darken (c : Cause) (s : State) (p : PointId) : State := (Ev.darkenPoint c p ⟨s, [], []⟩).s
def State.light (s : State) (p : PointId) : State := (Ev.lightPoint p ⟨s, [], []⟩).s

/-- The state after a point has entered FAULT (R41). -/
def State.fault (p : PointId) (cause : FaultCause) (s : State) : State := (Ev.enterFault p cause ⟨s, [], []⟩).s

/-- The state with every staged pair applied whose point is IDLE with no system under proof (R141, R142). -/
def State.pairsApplied (s : State) : State :=
  { s with points := .ofFn (fun p =>
      match (s.point p).staged with
      | none => s.point p
      | some q =>
        if (s.point p).machine = .idle ∧ underProof s p .a = false ∧ underProof s p .b = false then
          { s.point p with params := q, staged := none }
        else s.point p) }

/-- The state after the four points of a group have gone dark, or have lit, in ascending order (R150, R151). -/
def State.darkenGroup (c : Cause) (g : GroupId) (s : State) : State := (pointsOf g).foldl (State.darken c) s
def State.lightGroup (g : GroupId) (s : State) : State := (pointsOf g).foldl State.light s

/-- The Topology Table with the entries of a list in it (R78). -/
def withEntries (t : Table 16 TopologyEntry) (l : List TopologyItem) : Table 16 TopologyEntry :=
  l.foldl (fun t e => t.set e.point e.entry) t

/-- The body of SET TOPOLOGY for a list of entries (R201, R202). -/
def topologyBody (l : List TopologyItem) : List Byte :=
  l.flatMap (fun e => BitVec.ofNat 8 e.point.val :: entryBytes e.entry)

/-- The sections that one table uses and another does not (R74, R78), as a set in two bytes. -/
def usedOnly (t u : Table 16 TopologyEntry) : List Byte :=
  bytes2 (maskOf ((allSections.filter (fun n => usedIn t n && !usedIn u n)).map Fin.val))

/-- The passage record as the change of system `x` at time `t` leaves it (R11). -/
def State.recordAfter (p : PointId) (x : Sys) (t : Time) (s : State) : Passage :=
  ((s.point p).passage.getD (Passage.opened t)).recordChange x.lines (reads s p .a) (reads s p .b) t

/-- A point's health level raised by a weight, and its health state evaluated (R36, R39). -/
def Point.weighed (d : DeviceParams) (weight : Nat) (pt : Point) : Point :=
  { pt with level := min 255 (pt.level + weight), health := nextHealth d pt.health (min 255 (pt.level + weight)) }

/-- The weight takes the point's health state into FAULT. -/
def Point.faults (d : DeviceParams) (weight : Nat) (pt : Point) : Prop :=
  pt.health ≠ .fault ∧ d.fault ≤ min 255 (pt.level + weight)

/-- The point with a weight added to its level, its health state not yet evaluated (R36). -/
def Point.raised (weight : Nat) (pt : Point) : Point := { pt with level := min 255 (pt.level + weight) }

/-- A report queue after the changes of one event (R189): a queued subject of a class in the mask keeps its place, its
changes count raised by the changes, saturating at 255; the other subjects of the mask that changed join in the order
device, groups, points, sections. -/
def posted (m : ClassMask) (changes : List Subject) (q : List ReportEntry) : List ReportEntry :=
  let order : List Subject := .device :: ((List.finRange 4).map Subject.group ++
    (List.finRange 16).map Subject.point ++ (List.finRange 12).map Subject.sec)
  let changed (x : Subject) : Bool := x.inMask m && changes.contains x
  q.map (fun e =>
      if changed e.subject then { e with changes := min 255 (e.changes + changes.count e.subject) } else e) ++
    (order.filter (fun x => changed x && !q.any (fun e => e.subject == x))).map
      (fun x => { subject := x, changes := min 255 (changes.count x) })

/-- The event posts these reportable changes: so does each port whose transmitter is busy hold them. -/
def Reports (changes : List Subject) (s t : State) : Prop :=
  ∀ i, (s.port i).sending ≠ none → (t.port i).queue = posted (s.port i).mask changes (s.port i).queue

/-- The event posts this one trace record: so does the trace of a busy service port take it. -/
def Traces (r : TraceRecord) (s t : State) : Prop := s.service.sending ≠ none → t.trace = s.trace.take r

/-- The point and the kind of a trace record (R25, R68, R203); a GAP record has no point. -/
def TraceRecord.about : TraceRecord → Option (PointId × Nat)
  | .counted e => some (e.point, 0)
  | .uncounted e => some (e.point, 1)
  | .retreat p _ _ _ => some (p, 2)
  | .confused p _ _ _ => some (p, 3)
  | .glitch p _ _ _ => some (p, 4)
  | .proof x _ _ _ _ _ => some (x.point, 5)
  | .gap _ => none

/-- What a port's transmitter and reply FIFO hold after a reply has joined the FIFO's tail: a free transmitter begins the
reply at the head (R184, R185, R188). -/
def Port.withReply (q : Port) (r : Reply) : Option (List Byte) × List Reply :=
  match q.sending, q.replies with
  | some f, l => (some f, l ++ [r])
  | none, [] => (some (frame replyKind r.tag r.body), [])
  | none, h :: rest => (some (frame replyKind h.tag h.body), rest ++ [r])

/-- The command taken on port `i` in state `s` is answered by the reply `r`. -/
def Replies (i : PortId) (r : Reply) (s t : State) : Prop :=
  ((t.port i).sending, (t.port i).replies) = (s.port i).withReply r

/-- A command taken on port `i` in state `s` runs: the answer is `result`, and `expected` is left. -/
def Runs (i : PortId) (kind tag : Byte) (result : CommandResult) (s expected t : State) : Prop :=
  Leaves expected t ∧ Replies i ⟨kind, tag, result⟩ s t

/-- The command that a frame of a kind stands for (R201). -/
def commandOf (i : PortId) (kind tag : Byte) (body : List Byte) : Instr :=
  match kind.toNat with
  | 0x01 => .restoreSection i tag body
  | 0x02 => .cancelRestore i tag body
  | 0x03 => .queryDevice i tag body
  | 0x04 => .linkCheck i tag body
  | 0x05 => .querySections i tag body
  | 0x06 => .queryPoints i tag body
  | 0x07 => .disturbSection i tag body
  | 0x08 => .setReportMask i tag body
  | 0x09 => .setTopology i tag body
  | 0x0A => .setPointMode i tag body
  | 0x0B => .setPointParameters i tag body
  | 0x0C => .clearPointFault i tag body
  | 0x0D => .setSectionParameters i tag body
  | 0x0E => .setDeviceParameters i tag body
  | 0x0F => .setSupplyParameters i tag body
  | 0x10 => .setPortParameters i tag body
  | 0x11 => .setTrace i tag body
  | 0x12 => .start i tag body
  | 0x13 => .halt i tag body
  | 0x14 => .storeImage i tag body
  | 0x15 => .recycleGroup i tag body
  | 0x16 => .forceSupply i tag body
  | 0x17 => .releaseSupply i tag body
  | _ => .unknownCommand i kind tag body

end Sys2Proof.Machine
end

