-- ==== Sys2Proof/Certificates/Slice0/Obligations.lean ====
section
/-! DEFINITION. Certificates/Slice0/Obligations.lean: the statements about the part. `Leaves expected t` says that `t` is
the expected state apart from what the event posts and sends; `Runs` adds the reply to a command. Both stand in
Safety.lean, with the invariants. -/

open Sys2Proof Sys2Proof.Machine

/-! ## The queue of commands and the time -/

/-- A step takes the command at the front of the queue: it is that command's meaning on the state with the rest. The queue
is the model's own (notes/assumptions/9.md). -/
def Obligations.StepTakesTheFrontCommand : Prop :=
  ∀ (c : Instr) (rest : List Instr) (s : State),
    step { s with pending := c :: rest } = exec c { s with pending := rest }

/-- With no command waiting, a step passes one unit of time (the model's choice, notes/assumptions/6.md): every line and
supply-good input is sampled, what the samples find and every timer that is reached joins the queue, in an order
that is free but for the two changes of one point, which keep the order of their change times (R7), and nothing else
changes. At reset the first samples are those of time 0. -/
def Obligations.IdleStepPassesOneUnitOfTime : Prop :=
  ∀ s : State, s.pending = [] →
    let u : State := { s with now := if s.sampleDue then s.now else s.now + 1 }
    ∃ found k, found.Perm (sampleFindings u ++ expiries u).flatten ∧
      (∀ l ∈ sampleFindings u ++ expiries u, l.Sublist found) ∧
      (∀ p, ∀ l ∈ pointFindings u.now p ((u.point p).lineA.found u.now (u.point p).params.filter)
          ((u.point p).lineB.found u.now (u.point p).params.filter), l ∈ sampleFindings u) ∧
      (∀ g, (u.group g).accepts = true → [.supplyGoodChange g] ∈ sampleFindings u) ∧
      step s = .next { u with
        points := s.points.map (fun pt =>
          { pt with lineA := pt.lineA.sampled u.now, lineB := pt.lineB.sampled u.now })
        groups := s.groups.map Group.sampled
        sampleDue := false, pending := found, choices := k
        writeLapsed := timerReached u.now (s.device.store.map StoreProgress.timer) }

/-- One sample of a line (R2, R3, R5), the filter length in force being `filter`: the four rows of the comparison with the
accepted level. In the fourth row the model leaves the change of the accepted level, and the run length that returns to
0 with it, to the ACCEPTED_CHANGE that the sample finds: its own choice (notes/assumptions/6.md); until that command the
run goes on. What the samples of a point's two lines find is one change of both when the change times are equal, and
otherwise the earlier change first (R7). One sample of a supply-good input (R146): the tenth differing sample in a row
is accepted, by the SUPPLY_GOOD_CHANGE it finds. -/
def Obligations.SampleActsByTheRunLengthTable : Prop :=
  (∀ (now : Time) (filter : Nat) (l : Line),
    (l.pinLow = l.accepted → l.run = 0 →
      l.sampled now = { l with raw := l.pinLow } ∧ l.found now filter = .nothing) ∧
    (l.pinLow = l.accepted → 1 ≤ l.run →
      l.sampled now = { l with raw := l.pinLow, run := 0 } ∧
      l.found now filter = if 2 ≤ l.run then .glitch l.runStart l.run else .nothing) ∧
    (l.pinLow ≠ l.accepted →
      l.sampled now =
        { l with raw := l.pinLow, run := l.run + 1, runStart := if l.run = 0 then now else l.runStart } ∧
      (l.run + 1 < filter → l.found now filter = .nothing) ∧
      (filter ≤ l.run + 1 → l.found now filter = .accepted (if l.run = 0 then now else l.runStart)))) ∧
  (∀ (now ta tb : Time) (p : PointId),
    (ta = tb → pointFindings now p (.accepted ta) (.accepted tb) = [[.acceptedChange p .both ta]]) ∧
    ((now - tb).toNat < (now - ta).toNat →
      pointFindings now p (.accepted ta) (.accepted tb) = [[.acceptedChange p .a ta, .acceptedChange p .b tb]]) ∧
    ((now - ta).toNat < (now - tb).toNat →
      pointFindings now p (.accepted ta) (.accepted tb) = [[.acceptedChange p .b tb, .acceptedChange p .a ta]])) ∧
  (∀ (now : Time) (p : PointId) (a b : Found),
    (∀ ta tb, ¬(a = .accepted ta ∧ b = .accepted tb)) →
    let found (x : Sys) (f : Found) : List Instr :=
      match f with
      | .nothing => []
      | .accepted t => [.acceptedChange p x.lines t]
      | .glitch start length => [.glitch p x start (BitVec.ofNat 8 length)]
    pointFindings now p a b = [found .a a, found .b b]) ∧
  (∀ g : Group,
    (g.pinHigh = g.good → g.sampled = { g with run := 0 } ∧ g.accepts = false) ∧
    (g.pinHigh ≠ g.good → g.sampled = { g with run := g.run + 1 } ∧ (g.accepts = true ↔ 10 ≤ g.run + 1)))

/-- RESET gives every block its value after reset, whatever was in flight; the levels outside the part, the waiting
commands, with the mark of a lapsed memory write among them, and the number of the next free choice stay. What stays is
the model's choice (notes/assumptions/24.md, and 1.md for the line times). The straps give each port its baud rate
(R182), and the transmit lines are high. -/
def Obligations.ResetGivesEveryBlockItsValue : Prop :=
  ∀ s : State, ∃ t, exec .reset s = .next t ∧ t.now = 0 ∧ t.sampleDue = true ∧ t.pending = s.pending ∧
    t.choices = s.choices ∧ t.writeLapsed = s.writeLapsed ∧ t.straps = s.straps ∧
    t.device = ⟨.loading, none, false, none, none, none⟩ ∧
    (∀ p, (t.point p).machine = .idle ∧ (t.point p).passage = none ∧ (t.point p).confusion = none ∧
      (t.point p).quietTimer = none ∧ (t.point p).mode = .outOfUse ∧ (t.point p).startMode = .outOfUse ∧
      (t.point p).level = 0 ∧ (t.point p).health = .ok ∧ (t.point p).faultCause = none ∧
      (t.point p).faultTime = none ∧ (t.point p).lastSpeed = none ∧ (t.point p).upTally = 0 ∧
      (t.point p).downTally = 0 ∧ (t.point p).retreatTally = 0 ∧ (t.point p).glitchTally = 0 ∧
      (t.point p).irregularTally = 0 ∧ (t.point p).overspeedTally = 0 ∧ (t.point p).confusedTally = 0 ∧
      (t.point p).proofFailTally = 0 ∧ (t.point p).params = ⟨140, 20⟩ ∧ (t.point p).staged = none ∧
      t.entry p = ⟨none, none⟩ ∧ t.view.get p = ⟨false, true⟩) ∧
    (∀ p x, ((t.point p).line x).accepted = true ∧ ((t.point p).line x).run = 0 ∧
      ((t.point p).line x).pinLow = ((s.point p).line x).pinLow ∧ eligible t p = false ∧
      testLine t p x = false ∧ (t.point p).proof x = ⟨false, none, false, true, none, none, 0, none⟩) ∧
    t.channel = none ∧ t.queue = [] ∧ t.leakTimer = ⟨0, 1000000⟩ ∧
    (∀ n, t.sec n = { state := .unused, count := 0, cause := none, rc := 0, entries := 0, exits := 0,
                      sweep := false, hold := false, clearTimer := none, holdoffTimer := none,
                      lastRestore := none, lastChange := 0, clearDelay := 10, holdoff := 5,
                      directPermitted := false }) ∧
    (∀ g, t.group g = { state := .off, pinHigh := (s.group g).pinHigh, good := false, run := 0, timer := none,
                        failReason := none, forced := none, lastChange := 0 }) ∧
    t.sequencer = ⟨⟨200, 200, 200, 500⟩, .none, none, none⟩ ∧
    t.params = ⟨6, 200, 1, 4, 4, 32, 64, 10, 32, 128, 60, 20⟩ ∧
    t.outputs.phaseHigh = false ∧ t.outputs.phaseTimer = ⟨0, 500⟩ ∧ t.outputs.run = .low ∧
    t.outputs.runHigh = false ∧
    (∀ n, t.outputs.clr.get n = .low) ∧
    (∀ i, (t.port i).assembly = .hunting ∧ (t.port i).gapTimer = none ∧ (t.port i).frameErrors = 0 ∧
      (t.port i).overruns = 0 ∧ (t.port i).replies = [] ∧ (t.port i).queue = [] ∧ (t.port i).tokens = 4 ∧
      (t.port i).burst = 4 ∧ (t.port i).refillPeriod = 50 ∧ (t.port i).refillTimer = ⟨0, 5000⟩ ∧
      (t.port i).sendSequence = 0 ∧ (t.port i).sending = none ∧ ∀ k, (t.port i).lineLevel k = true) ∧
    (let rate (straps : BitVec 2) : Nat :=
       if straps = 0#2 then 19200 else if straps = 1#2 then 57600 else if straps = 2#2 then 115200 else 460800
     t.control.baud.rate = rate s.straps.control ∧ t.service.baud.rate = rate s.straps.service) ∧
    t.control.mask = ⟨true, false, false, true⟩ ∧ t.service.mask = ⟨true, true, true, true⟩ ∧
    t.link = ⟨⟨0, 10000⟩, false, 100, true, some ⟨0, 100000⟩, 1000⟩ ∧
    t.trace = ⟨0, 0, 0, [], 0⟩

/-! ## What every step keeps -/

/-- Every step keeps the point records as chapters 1 to 3 give them: a record in flight in the crossing states alone, what
belongs to CONFUSED in CONFUSED alone, and every level, tally and failure count within its limits. And with the
device-wide parameters in their ranges it keeps it that every point at or above the fault threshold is in FAULT. -/
def Obligations.EveryStepKeepsPointRecords : Prop :=
  (∀ s t : State, s.PointsOk → step s = .next t → t.PointsOk) ∧
  (∀ s t : State, s.params.Ok → s.LevelsOk → step s = .next t → t.LevelsOk)

/-- Every step keeps the section records: the count within 0 to 1023, the cause in DISTURBED alone, a CLEARING section with
its timer or its proof hold, and, while the count is trusted, the count equal to entries minus exits. -/
def Obligations.EveryStepKeepsSectionRecords : Prop :=
  ∀ s t : State, s.SectionsOk → step s = .next t → t.SectionsOk

/-- Every step keeps the group records (a timer in the timed states, a reason in FAILED, a forced level in MANUAL); the
drives of the outputs (CLR out of LOW exactly while its section is CLEAR, RUN exactly while the device is RUNNING); the
proof queue without repeats and without the system under proof; only systems of eligible points queued, under proof or
with a running timer, and every other one overdue; and every device-wide parameter in its range. -/
def Obligations.EveryStepKeepsGroupsOutputsProofsAndParameters : Prop :=
  (∀ s t : State, s.GroupsOk → step s = .next t → t.GroupsOk) ∧
  (∀ s t : State, s.OutputsOk → step s = .next t → t.OutputsOk) ∧
  (∀ s t : State, s.ProofsOk → step s = .next t → t.ProofsOk) ∧
  (∀ s t : State, s.EligibleOk → step s = .next t → t.EligibleOk) ∧
  (∀ s t : State, s.params.Ok → step s = .next t → t.params.Ok)

/-- Every step keeps it that no count is trusted outside RUNNING, and that every member of a section whose count is trusted
is counting. Outside CONFIGURING and LOADING every step but a reset keeps the topology as it stands. -/
def Obligations.EveryStepKeepsTrustedMembersCounting : Prop :=
  (∀ s t : State, s.SectionsOk → s.TrustOk → step s = .next t → t.TrustOk) ∧
  (∀ s t : State, s.SectionsOk → s.TrustOk → s.MembersOk → step s = .next t → t.MembersOk) ∧
  (∀ s t : State, s.device.state ≠ .configuring → s.device.state ≠ .loading → s.pending.head? ≠ some .reset →
    step s = .next t → t.topology = s.topology)

/-- Every step keeps the ports, the link and the trace within their limits. That the gap timer runs in LENGTH too is the model's
reading (notes/assumptions/18.md). -/
def Obligations.EveryStepKeepsPortsLinkAndTrace : Prop :=
  ∀ s t : State, s.LinesOk → step s = .next t → t.LinesOk

/-- Every step keeps the point view in step with the points: active exactly while the machine is out of IDLE, overdue
exactly while the point's indication is on. -/
def Obligations.EveryStepKeepsThePointView : Prop :=
  ∀ s t : State, s.PointsOk → s.ViewOk → step s = .next t → t.ViewOk

/-- Every step from a safe state keeps CLEARING sections without active members, and CLEAR ones without overdue members. -/
def Obligations.EveryStepKeepsClearSectionsQuiet : Prop :=
  ∀ s t : State, s.Safe → step s = .next t → t.QuietOk

/-- The state after reset is safe, with no ineligible system queued and no point above the fault threshold. -/
def Obligations.TheStateAfterResetIsSafe : Prop := State.reset.Safe ∧ State.reset.EligibleOk ∧ State.reset.LevelsOk

/-- In a safe state a section-clear output that is high stands for a CLEAR section of a device that is RUNNING, with count
0, each of whose members is in mode COUNTING, not FAULT, in a READY group, with its machine IDLE and no system
overdue. -/
def Obligations.AHighClearOutputStandsForAnEmptyProvenSection : Prop :=
  ∀ (s : State) (n : SectionId), s.Safe → clrLevel s.outputs n = true →
    (s.sec n).state = .clear ∧ (s.sec n).count = 0 ∧ s.device.state = .running ∧
    ∀ p ∈ members s n, (s.point p).mode = .counting ∧ (s.point p).health ≠ .fault ∧
      (s.group (groupOf p)).state = .ready ∧ (s.point p).machine = .idle ∧
      (s.point p).proofA.overdue = false ∧ (s.point p).proofB.overdue = false

/-! ## Detector lines and wheel passages -/

/-- ACCEPTED_CHANGE of one line, or of both, at a point that is dark or OUT_OF_USE (R7): the accepted levels and change
times are updated, and nothing is delivered. The raw sample and the pin follow the accepted level: the model's choice
(notes/assumptions/8.md). -/
def Obligations.AChangeAtADarkPointUpdatesItsLineAlone : Prop :=
  ∀ (p : PointId) (t : Time) (s : State), (lit s p && inUse s p) = false →
    (∀ x, ∃ u, exec (.acceptedChange p x.lines t) s = .next u ∧ Leaves (s.withChange p x t).settled u) ∧
    (∃ u, exec (.acceptedChange p .both t) s = .next u ∧
      Leaves ((s.withChange p .a t).withChange p .b t).settled u)

/-- ACCEPTED_CHANGE of one line, or of both, that is delivered to the machine of a lit point in use (R7, R9, R10, R11, R12,
R16, R17, R20, R63): the cells of the transition table for the state and the new pair, with what each does to the
record, the tallies and the notices. `recorded` is the record as the change leaves it. The raw sample and the pin follow
the accepted level: the model's choice (notes/assumptions/8.md). -/
def Obligations.ADeliveredChangeMovesTheMachineByTheTable : Prop :=
  ∀ (p : PointId) (lines : Lines) (t : Time) (s : State), Delivers s p lines →
    let s' := s.withChanges p lines t
    let pt := s'.point p
    let m := (s.point p).machine
    let pair (a b : Bool) : Prop := reads s' p .a = a ∧ reads s' p .b = b
    let changed (x : Sys) : Bool := lines == x.lines || lines == .both
    let onTime (x : Sys) (on : Option Time) : Option Time :=
      if changed x && reads s' p x && on.isNone then some t else on
    let offTime (x : Sys) (off : Option Time) : Option Time :=
      if changed x then (if reads s' p x then none else some t) else off
    let recorded (r : Passage) : Passage := { r with
      aOn := onTime .a r.aOn, bOn := onTime .b r.bOn, aOff := offTime .a r.aOff, bOff := offTime .b r.bOff }
    let quiet : Option Timer := if reads s' p .a || reads s' p .b then none else some ⟨t, 50000⟩
    let leaves (v : State) : Prop := ∃ u, exec (.acceptedChange p lines t) s = .next u ∧ Leaves v.settled u
    let opens (m' : DirectionMachine) : Prop :=
      leaves ((s'.setPoint p { pt with
        machine := m', passage := some (recorded ⟨t, none, none, none, none, false, false⟩), confusion := none
        quietTimer := none }).sendActive p)
    let moves (m' : DirectionMachine) : Prop :=
      leaves (s'.setPoint p { pt with machine := m', passage := pt.passage.map recorded })
    let reverses (m' : DirectionMachine) : Prop :=
      leaves (s'.setPoint p { pt with
        machine := m', passage := pt.passage.map (fun r => { recorded r with reversal := true }) })
    let retreats : Prop :=
      leaves ((s'.setPoint p { pt with
        machine := .idle, passage := none, retreatTally := min 65535 (pt.retreatTally + 1) }).sendQuiet p)
    let confused (cause : ConfusionCause) : State :=
      s'.setPoint p { pt with
        machine := .confused, confusion := some ⟨cause, t⟩, passage := none, quietTimer := quiet }
    let jumps : Prop := leaves (confused .jump)
    let counts : Prop := proofAt s p = none → ∃ u, exec (.acceptedChange p lines t) s = .next u ∧
      (u.point p).machine = .idle ∧ (u.point p).passage = none
    (m = .idle → (pair true false → opens .up1) ∧ (pair false true → opens .dn1) ∧
      (pair true true → leaves ((confused .simultaneousOnset).sendActive p))) ∧
    (m = .up1 → (pair false false → retreats) ∧ (pair false true → jumps) ∧ (pair true true → moves .up2)) ∧
    (m = .up2 → (pair false false → jumps) ∧ (pair true false → moves .up1) ∧ (pair false true → moves .up3)) ∧
    (m = .up3 → (pair false false → counts) ∧ (pair true false → jumps) ∧ (pair true true → reverses .up2)) ∧
    (m = .dn1 → (pair false false → retreats) ∧ (pair true false → jumps) ∧ (pair true true → moves .dn2)) ∧
    (m = .dn2 → (pair false false → jumps) ∧ (pair true false → moves .dn3) ∧ (pair false true → moves .dn1)) ∧
    (m = .dn3 → (pair false false → counts) ∧ (pair false true → jumps) ∧ (pair true true → reverses .dn2)) ∧
    (m = .confused → leaves (s'.setPoint p { pt with quietTimer := quiet }))

/-- ACCEPTED_CHANGE that is delivered at a lit point in use, also during the wait after an abort (R7, R9, R10, R11, R12,
R16, R17, R20, R63). One system to occupied at an IDLE machine opens a record with that on-time alone, in the first
state of its direction. The same system free again is a retreat: the record is closed, the retreat tally rises, no
weight is added, and "point quiet" is sent. Both systems at one sample confuse the machine, with cause SIMULTANEOUS_ONSET. The raw sample and the pin follow
the accepted level: the model's choice (notes/assumptions/8.md). -/
def Obligations.WheelOnsetsAndRetreatsMoveTheMachine : Prop :=
  (∀ (p : PointId) (x : Sys) (t : Time) (s : State),
     Delivers s p x.lines → (s.point p).machine = .idle →
     ((s.point p).line x).accepted = false → reads s p x.other = false →
     let s' := s.withChange p x t
     ∃ u, exec (.acceptedChange p x.lines t) s = .next u ∧
       Leaves ((s'.setPoint p { s'.point p with
         machine := match x with
           | .a => .up1
           | .b => .dn1
         passage := some { onset := t
                           aOn := match x with
                             | .a => some t
                             | .b => none
                           bOn := match x with
                             | .a => none
                             | .b => some t
                           aOff := none, bOff := none, reversal := false, partly := false }
         confusion := none, quietTimer := none }).sendActive p).settled u) ∧
  (∀ (p : PointId) (x : Sys) (t : Time) (s : State),
     Delivers s p x.lines → (s.point p).machine = firstState x →
     ((s.point p).line x).accepted = true → reads s p x.other = false →
     let s' := s.withChange p x t
     let dir : Direction := match x with
       | .a => .up
       | .b => .down
     ∃ u, exec (.acceptedChange p x.lines t) s = .next u ∧
       (∀ r, (s.point p).passage = some r → Traces (.retreat p dir r.onset t) s u) ∧
       Leaves ((s'.setPoint p { s'.point p with
         machine := .idle, passage := none, retreatTally := raise (s.point p).retreatTally }).sendQuiet p).settled u) ∧
  (∀ (p : PointId) (t : Time) (s : State),
     lit s p = true → inUse s p = true → proofAt s p = none → (s.point p).machine = .idle →
     (s.point p).lineA.accepted = false → (s.point p).lineB.accepted = false →
     let s' := (s.withChange p .a t).withChange p .b t
     ∃ u, exec (.acceptedChange p .both t) s = .next u ∧
       Leaves ((s'.setPoint p { s'.point p with
         machine := .confused, confusion := some ⟨.simultaneousOnset, t⟩, passage := none
         quietTimer := none }).sendActive p).settled u)

/-- ACCEPTED_CHANGE that completes a crossing at a lit point in use with no proof under way (R13, R14, R15, R25, R34, R35,
R36): the machine returns to IDLE, the record is closed, the tally of the direction rises, and the last speed is kept or
replaced. The event of a counting point is handed to the section left and the section entered and traced as COUNTED; at
any other point it is an uncounted passage, a quiet notice and an UNCOUNTED record. Then an irregular or overspeed
passage raises its tallies and adds its weights in one step, with one evaluation, which may take the point into FAULT.
`x` is the second system of the crossing. The raw sample and the pin follow the accepted level: the model's choice
(notes/assumptions/8.md). -/
def Obligations.ACountedPassageIsHandedToItsSections : Prop :=
  ∀ (p : PointId) (x : Sys) (t : Time) (s : State),
    lit s p = true → inUse s p = true → proofAt s p = none →
    (s.point p).machine = (match x with
      | .b => .up3
      | .a => .dn3) →
    ((s.point p).line x).accepted = true → ((s.point p).line x.other).accepted = false →
    let dir : Direction := match x with
      | .b => .up
      | .a => .down
    let s' := s.withChange p x t
    let tm := (s'.recordAfter p x t).timing s.params (s.point p).params.spacing dir
    let e : CountEvent :=
      { point := p, direction := dir, time := t, speed := tm.speed, plausibility := tm.plausibility
        left := (s.entry p).left dir, entered := (s.entry p).entered dir }
    let passed := s'.setPoint p { s'.point p with
      machine := .idle, passage := none
      upTally := if dir = .up then (s.point p).upTally + 1 else (s.point p).upTally
      downTally := if dir = .down then (s.point p).downTally + 1 else (s.point p).downTally
      lastSpeed := tm.speed.or (s.point p).lastSpeed }
    let handed := if counting s p then passed.handOver e else passed.sendQuiet p
    let weight := (if tm.irregular then s.params.wIrregular else 0) + if tm.overspeed then s.params.wOverspeed else 0
    let tallied : Point := { handed.point p with
      irregularTally := if tm.irregular then raise (s.point p).irregularTally else (s.point p).irregularTally
      overspeedTally := if tm.overspeed then raise (s.point p).overspeedTally else (s.point p).overspeedTally }
    ∃ u, exec (.acceptedChange p x.lines t) s = .next u ∧
      Traces (if counting s p then .counted e else .uncounted e) s u ∧
      (tm.irregular = false → tm.overspeed = false → Leaves handed.settled u) ∧
      (tm.irregular = true ∨ tm.overspeed = true →
        (¬(s.point p).faults s.params weight →
          Leaves (handed.setPoint p (tallied.weighed s.params weight)).settled u) ∧
        ((s.point p).faults s.params weight →
          Leaves ((handed.setPoint p (tallied.raised weight)).fault p .level).settled u))

/-- The timing arithmetic of a completed passage (R28 to R34): none for a reversed or partial record; speed 0 when an
interval is saturated; otherwise the plausibility test, the rounded speed clamped to 511, and its anomalies. -/
def Obligations.TimingArithmeticFollowsItsStages : Prop :=
  ∀ (d : DeviceParams) (spacing : Nat) (dir : Direction) (r : Passage) (aOn bOn aOff bOff : Time),
    r.aOn = some aOn → r.bOn = some bOn → r.aOff = some aOff → r.bOff = some bOff →
    let lead := min 65535 (match dir with
      | .up => bOn - aOn
      | .down => aOn - bOn).toNat
    let trail := min 65535 (match dir with
      | .up => bOff - aOff
      | .down => aOff - bOff).toNat
    let mean := (lead + trail + 1) / 2
    let v := min 511 ((spacing * 360 + mean / 2) / mean)
    let pass := (max lead trail - min lead trail) * 16 ≤ d.tol * max lead trail
    (r.reversal = true ∨ r.partly = true → r.timing d spacing dir = ⟨none, none, false, false⟩) ∧
    (r.reversal = false → r.partly = false → (lead = 65535 ∨ trail = 65535) →
      r.timing d spacing dir = ⟨some 0, none, false, false⟩) ∧
    (r.reversal = false → r.partly = false → lead < 65535 → trail < 65535 →
      (pass → r.timing d spacing dir = ⟨some v, some .pass, false, decide (d.vLimit < v)⟩) ∧
      (¬pass → r.timing d spacing dir = ⟨some v, some .irregular, true, decide (d.vLimit < v)⟩))

/-- GLITCH (R2, R3, R4, R25, R35, R36): at a lit point in use whose glitching system is not under proof, a glitch of 2
samples or more adds the glitch weight and raises the glitch tally, the health state being evaluated once; otherwise it
is ignored. The run has ended either way. The raw sample and the pin follow the accepted level: the model's choice
(notes/assumptions/8.md). A weight that reaches the fault threshold takes the point into FAULT, and the last clause says
what the entry to FAULT leaves (R8, R22, R41, R51, R55, R66): cause and time; the sections of a counting point
disturbed with POINT_FAULT; the machine IDLE and initialised again; the record closed; the epochs ended; its systems
out of the queue and the channel, and a tested system that reads occupied delivered. -/
def Obligations.AGlitchTakenAddsItsWeight : Prop :=
  (∀ (p : PointId) (x : Sys) (start : Time) (length : Byte) (s : State),
    let s' := s.setPoint p ((s.point p).onLine x (fun l => { l with raw := l.accepted, pinLow := l.accepted, run := 0 }))
    let tallied : Point := { s'.point p with glitchTally := raise (s.point p).glitchTally }
    (takesGlitch s p x = true → 2 ≤ length.toNat → ¬(s.point p).faults s.params s.params.wGlitch →
      ∃ u, exec (.glitch p x start length) s = .next u ∧ Traces (.glitch p x start length) s u ∧
        Leaves (s'.setPoint p (tallied.weighed s.params s.params.wGlitch)).settled u) ∧
    (takesGlitch s p x = true → 2 ≤ length.toNat → (s.point p).faults s.params s.params.wGlitch →
      ∃ u, exec (.glitch p x start length) s = .next u ∧ (proofAt s p = none → Traces (.glitch p x start length) s u) ∧
        Leaves ((s'.setPoint p (tallied.raised s.params.wGlitch)).fault p .level).settled u) ∧
    (takesGlitch s p x = false ∨ length.toNat < 2 →
      ∃ u, exec (.glitch p x start length) s = .next u ∧ (s.service.sending ≠ none → u.trace = s.trace) ∧
        Leaves s'.settled u)) ∧
  (∀ (p : PointId) (cause : FaultCause) (s : State),
    let t := s.fault p cause
    let pt := t.point p
    let occupied (x : Sys) : Prop := ((s.point p).line x).accepted = true
    let isIdle : Prop :=
      pt.machine = .idle ∧ pt.passage = none ∧ pt.confusion = none ∧ pt.quietTimer = none
    let isConfused : Prop :=
      pt.machine = .confused ∧ pt.passage = none ∧ pt.confusion = some ⟨.startUp, s.now⟩ ∧ pt.quietTimer = none
    let held : Prop := lit s p = false ∨ inUse s p = false
    pt.health = .fault ∧ pt.faultCause = some cause ∧ pt.faultTime = some s.now ∧ pt.level = (s.point p).level ∧
    pt.mode = (s.point p).mode ∧
    (proofAt s p = none → (held ∨ ¬occupied .a ∧ ¬occupied .b → isIdle) ∧
      (¬held → occupied .a ∨ occupied .b → isConfused)) ∧
    (∀ x, underProof s p x = true → ¬held →
      (occupied x.other → isConfused) ∧
      (¬occupied x.other → ¬occupied x → isIdle) ∧
      (¬occupied x.other → occupied x →
        pt.machine = firstState x ∧ pt.confusion = none ∧ pt.quietTimer = none ∧
        pt.passage = some { onset := s.now
                            aOn := if x = .a then some s.now else none
                            bOn := if x = .b then some s.now else none
                            aOff := none, bOff := none, reversal := false, partly := false })) ∧
    (∀ x, pt.proof x = { (s.point p).proof x with
        due := false, overdue := true, dueTimer := none, overdueTimer := none
        lastResult := if underProof s p x then some .unfinished else ((s.point p).proof x).lastResult }) ∧
    t.queue = s.queue.filter (fun y => decide (y.point ≠ p)) ∧
    t.channel = (if (proofAt s p).isSome then none else s.channel) ∧
    (s.ViewOk → t.view.get p = ⟨decide (pt.machine ≠ .idle), true⟩) ∧
    (counting s p = true → ∀ n ∈ (s.entry p).bounds, (s.sec n).state.trusted = true →
      (t.sec n).state = .disturbed ∧ (t.sec n).cause = some .pointFault ∧ (t.sec n).count = (s.sec n).count) ∧
    (∀ q, q ≠ p → t.point q = s.point q) ∧ t.groups = s.groups ∧ t.device = s.device ∧ t.sequencer = s.sequencer ∧
    t.topology = s.topology)

/-- QUIET_TIMER_EXPIRY (R17, R18, R25): the machine goes from CONFUSED to IDLE. With the start-up mark "point quiet" follows
and nothing else. Without it the confused weight and tally are taken, which may take the point into FAULT, and, at a
counting point, every section it bounds is disturbed before "point quiet". A CONFUSED record is traced. That the point
is judged after the weight is the model's reading (notes/assumptions/14.md). -/
def Obligations.TheQuietTimerEndsConfusion : Prop :=
  ∀ (p : PointId) (c : Confusion) (timer : Timer) (s : State),
    (s.point p).machine = .confused → (s.point p).confusion = some c → (s.point p).quietTimer = some timer →
    timer.reached s.now = true →
    let pt : Point := { s.point p with machine := .idle, confusion := none, quietTimer := none }
    let tallied : Point := { pt with confusedTally := raise pt.confusedTally }
    let record : TraceRecord := .confused p c.cause c.entry (timer.start + BitVec.ofNat 32 timer.length)
    (c.cause = .startUp →
      ∃ u, exec (.quietTimerExpiry p) s = .next u ∧ Traces record s u ∧
        Leaves ((s.setPoint p pt).sendQuiet p).settled u) ∧
    (c.cause ≠ .startUp → ¬(s.point p).faults s.params s.params.wConfused →
      let s' := s.setPoint p (tallied.weighed s.params s.params.wConfused)
      ∃ u, exec (.quietTimerExpiry p) s = .next u ∧ Traces record s u ∧
        Leaves ((if counting s p then s'.sendDisturbance p .confusedPassage else s').sendQuiet p).settled u) ∧
    (c.cause ≠ .startUp → (s.point p).faults s.params s.params.wConfused →
      let s' := (s.setPoint p (tallied.raised s.params.wConfused)).fault p .level
      ∃ u, exec (.quietTimerExpiry p) s = .next u ∧ (proofAt s p = none → Traces record s u) ∧
        Leaves (if (s'.point p).machine = .idle then s'.sendQuiet p else s').settled u)

/-- LEAK_TIMER_EXPIRY (R37, R39): every point above level 0 loses one and is evaluated, and the timer runs again from its
expiry. The health state follows the level by the table of R39, with warn_off the half of warn_on rounded down. -/
def Obligations.TheLeakLowersEveryLevel : Prop :=
  (∀ s : State, s.leakTimer.reached s.now = true →
     (∀ p, (s.point p).health ≠ .fault → (s.point p).level - 1 < s.params.fault) →
     ∃ u, exec .leakTimerExpiry s = .next u ∧
       Leaves ({ s with
         leakTimer := ⟨s.leakTimer.start + BitVec.ofNat 32 s.leakTimer.length, s.leakTimer.length⟩
         points := s.points.map (fun pt =>
           if 0 < pt.level then
             { pt with level := pt.level - 1, health := nextHealth s.params pt.health (pt.level - 1) }
           else pt) } : State).settled u) ∧
  (∀ (d : DeviceParams) (level : Nat), d.warnOn < d.fault →
     nextHealth d .fault level = .fault ∧
     (d.fault ≤ level → nextHealth d .ok level = .fault ∧ nextHealth d .warn level = .fault) ∧
     (d.warnOn ≤ level → level < d.fault → nextHealth d .ok level = .warn) ∧
     (level < d.warnOn → nextHealth d .ok level = .ok) ∧
     (d.warnOn / 2 < level → level < d.fault → nextHealth d .warn level = .warn) ∧
     (level ≤ d.warnOn / 2 → nextHealth d .warn level = .ok))

/-! ## Detector proving -/

/-- DUE_TIMER_EXPIRY and OVERDUE_TIMER_EXPIRY (R52, R54, R67). A due system joins the tail of the proof queue, unless it
is in it or under proof. An overdue one sends "proof overdue" when the other system of its point is not overdue
already. -/
def Obligations.DueAndOverdueTimersMarkTheirSystem : Prop :=
  ∀ (p : PointId) (x : Sys) (s : State),
    (timerReached s.now ((s.point p).proof x).dueTimer = true →
      ∃ u, exec (.dueTimerExpiry p x) s = .next u ∧
        Leaves ({ s.setPoint p ((s.point p).onProof x (fun st => { st with due := true, dueTimer := none })) with
          queue := if ⟨p, x⟩ ∈ s.queue ∨ underProof s p x then s.queue else s.queue ++ [⟨p, x⟩] } : State).settled u) ∧
    (timerReached s.now ((s.point p).proof x).overdueTimer = true →
      let s' := s.setPoint p ((s.point p).onProof x (fun st => { st with overdue := true, overdueTimer := none }))
      ∃ u, exec (.overdueTimerExpiry p x) s = .next u ∧
        Leaves (if (s.point p).overdueIndication then s' else s'.sendOverdue p) u)

/-- What follows when the work of an event is done. First (R56, R57): with no supply activity and no staged pair ready, a
free channel takes the first system of the queue whose point is IDLE with no staged pair: its proof is in ASSERT from
now, with the response window running, and its test line high. Second (R141, R142, R143): every staged pair whose point
is IDLE with no system under proof is applied, before or after the take where both follow. Third (R153, R155, R156,
R159, R169, R170, R179): a sequence ends when its last turn has come and no group is on its way, the device then RUNNING
with RUN ARMED, or CONFIGURING; a recycle ends when its group is READY, FAILED or MANUAL; and nothing else changes. -/
def Obligations.TheFreeChannelTakesTheFirstTakeableSystem : Prop :=
  (∀ (s : State) (before after : List SystemId) (x : SystemId),
    s.channel = none → stagedReady s = false → s.sequencer.activity = .none →
    s.queue = before ++ x :: after → x ∉ before →
    (∀ y ∈ before, (s.point y.point).machine ≠ .idle ∨ (s.point y.point).staged ≠ none) →
    (s.point x.point).machine = .idle → (s.point x.point).staged = none →
    s.settled = { s with
      channel := some { system := x, phase := .assert, takeTime := s.now, responseTime := none
                        window := ⟨s.now, 10 * s.params.response⟩, readFree := false }
      queue := before ++ after } ∧
    testLine s.settled x.point x.sys = true) ∧
  (∀ s : State, s.sequencer.activity = .none →
    (stagedReady s = true ↔ ∃ p q, (s.point p).staged = some q ∧ (s.point p).machine = .idle ∧
      underProof s p .a = false ∧ underProof s p .b = false) ∧
    (s.channel ≠ none ∨ s.queue = [] → s.settled = s.pairsApplied) ∧
    (stagedReady s = true → s.channel = none → s.queue ≠ [] →
      let s' : State := { s with choices := s.choices + 1 }
      s.settled = s'.pairsApplied.settled ∨
      ∃ before x after, s.queue = before ++ x :: after ∧ x ∉ before ∧ takeable s x = true ∧
        (∀ y ∈ before, takeable s y = false) ∧
        s.settled = { s'.pairsApplied with
          channel := some { system := x, phase := .assert, takeTime := s.now, responseTime := none
                            window := ⟨s.now, 10 * s.params.response⟩, readFree := false }
          queue := before ++ after }) ∧
    ((∀ y ∈ s.queue, takeable s y = false) → stagedReady s = false → s.settled = s)) ∧
  (∀ s : State,
    let t := s.settled
    let ended : Sequencer := { s.sequencer with activity := .none, nextTurn := none, turnTimer := none }
    let state (g : GroupId) : GroupState := (s.group g).state
    let complete : Prop := match s.sequencer.activity with
      | .none => False
      | .powerOn => s.sequencer.nextTurn = none ∧ ∀ g, state g ≠ .enabling ∧ state g ≠ .settling
      | .powerOff => s.sequencer.nextTurn = none ∧ ∀ g, state g ≠ .disabling
      | .recycle g => state g = .ready ∨ state g = .failed ∨ state g = .manual
    t = { s with points := t.points, channel := t.channel, queue := t.queue, choices := t.choices
                 sequencer := t.sequencer, device := t.device, outputs := t.outputs } ∧
    t.points = s.pairsApplied.points ∧
    (¬complete → t.sequencer = s.sequencer ∧ t.device = s.device ∧ t.outputs = s.outputs) ∧
    (complete → t.sequencer = ended ∧
      (s.sequencer.activity = .powerOn → t.device = { s.device with state := .running } ∧
        (s.device.state = .starting → t.outputs = { s.outputs with run := .armed })) ∧
      (s.sequencer.activity = .powerOff → t.device = { s.device with state := .configuring } ∧
        (s.device.state = .halting → t.outputs = s.outputs)) ∧
      (∀ g, s.sequencer.activity = .recycle g → t.device = s.device ∧ t.outputs = s.outputs)))

/-- ACCEPTED_CHANGE at a point under proof (R58, R59, R60, R62, R63, R68). The tested system to occupied in ASSERT meets
ASSERT and the phase is RELEASE; to free in RELEASE the proof passes, its system proven, current and with both timers
running anew, and is traced; in ABORT_WAIT a change to free is noted; none is delivered to the machine. The partner to
occupied in ASSERT or RELEASE aborts the proof, and the machine is placed in the first state of the arriving direction
with a partial record. When the tested system frees and the partner arrives at one sample in RELEASE, in a free order
(notes/assumptions/4.md), either the proof passes and the point's staged pair is applied before the partner's change, or
the partner aborts the proof and the pair waits (R142). The raw sample and the pin follow the accepted level: the
model's choice (notes/assumptions/8.md). -/
def Obligations.AProofTakesTheChangesOfItsPoint : Prop :=
  (∀ (pr : Proof) (t : Time) (s : State), s.channel = some pr →
     lit s pr.system.point = true → inUse s pr.system.point = true →
     let p := pr.system.point
     let x := pr.system.sys
     let s' := s.withChange p x t
     (pr.phase = .assert → ((s.point p).line x).accepted = false →
       ∃ u, exec (.acceptedChange p x.lines t) s = .next u ∧
         Leaves ({ s' with channel := some { pr with
           phase := .release, responseTime := some s.now, window := ⟨s.now, 10 * s.params.response⟩ } } : State).settled
           u) ∧
     (pr.phase = .release → ((s.point p).line x).accepted = true →
       let passed : State := { s'.setPoint p ((s'.point p).onProof x (fun _ =>
           { proven := true, lastPass := some s.now, due := false, overdue := false
             dueTimer := some ⟨s.now, 100000 * s.params.interval⟩
             overdueTimer := some ⟨s.now, 2 * (100000 * s.params.interval)⟩
             failures := 0, lastResult := some .pass })) with channel := none }
       ∃ u, exec (.acceptedChange p x.lines t) s = .next u ∧
         Traces (.proof pr.system .pass pr.takeTime pr.responseTime s.now 0) s u ∧
         Leaves (if (s.point p).overdueIndication && !((s.point p).proof x.other).overdue then passed.sendCurrent p
           else passed).settled u) ∧
     (pr.phase = .abortWait →
       (((s.point p).line x).accepted = true →
         ∃ u, exec (.acceptedChange p x.lines t) s = .next u ∧
           Leaves ({ s' with channel := some { pr with readFree := true } } : State).settled u) ∧
       (((s.point p).line x).accepted = false →
         ∃ u, exec (.acceptedChange p x.lines t) s = .next u ∧ Leaves s'.settled u))) ∧
  (∀ (pr : Proof) (t : Time) (s : State), s.channel = some pr → pr.phase ≠ .abortWait →
     lit s pr.system.point = true → inUse s pr.system.point = true →
     ((s.point pr.system.point).line pr.system.sys.other).accepted = false →
     let p := pr.system.point
     let y := pr.system.sys.other
     let s' := s.withChange p y t
     ∃ u, exec (.acceptedChange p y.lines t) s = .next u ∧
       Leaves (({ s'.setPoint p { s'.point p with
           machine := firstState y
           passage := some { onset := t
                             aOn := if y = .a then some t else none
                             bOn := if y = .b then some t else none
                             aOff := none, bOff := none, reversal := false, partly := true }
           confusion := none, quietTimer := none } with
         channel := some { pr with
           phase := .abortWait, window := ⟨s.now, 10 * s.params.response⟩
           readFree := !((s.point p).line pr.system.sys).accepted } } : State).sendActive p).settled u) ∧
  (∀ (pr : Proof) (t : Time) (q : PointParams) (s : State), s.channel = some pr → pr.phase = .release →
     let p := pr.system.point
     let x := pr.system.sys
     lit s p = true → inUse s p = true → (s.point p).machine = .idle → (s.point p).staged = some q →
     ((s.point p).line x).accepted = true → ((s.point p).line x.other).accepted = false →
     ∃ u, exec (.acceptedChange p .both t) s = .next u ∧
       ((((u.point p).proof x).proven = true ∧ ((u.point p).proof x).lastPass = some s.now ∧
           (u.point p).params = q ∧ (u.point p).staged = none) ∨
         ((u.point p).machine = firstState x.other ∧ (u.point p).staged = some q ∧
           u.channel = some { pr with
             phase := .abortWait, window := ⟨s.now, 10 * s.params.response⟩, readFree := true })))

/-- ASSERT_WINDOW_EXPIRY and RELEASE_WINDOW_EXPIRY at an eligible point with its machine IDLE (R61, R43, R41, R68): the
channel is freed; a tested system that reads occupied is delivered as a wheel onset of the first state of its
direction; the failure is recorded; the proof weight and tally are taken. A weight that reaches the fault threshold
takes the point into FAULT with cause LEVEL, else a second failure in a row with cause PROOF_FAILURES; otherwise the
system joins the tail of the queue again. The failure is traced. That the take which follows may go to the same system
at once is the model's choice (notes/assumptions/38.md). -/
def Obligations.AProofThatIsNotAnsweredFails : Prop :=
  ∀ (pr : Proof) (s : State), s.channel = some pr → pr.window.reached s.now = true →
    (s.point pr.system.point).machine = .idle → eligible s pr.system.point = true →
    ((s.point pr.system.point).line pr.system.sys.other).accepted = false →
    pr.system ∉ s.queue →
    let p := pr.system.point
    let x := pr.system.sys
    let before := ((s.point p).proof x).failures
    let failures := min 2 (before + 1)
    let finish := pr.window.start + BitVec.ofNat 32 pr.window.length
    let freed : State := { s with channel := none }
    let placed : State := (freed.setPoint p { freed.point p with
        machine := firstState x
        passage := some { onset := finish
                          aOn := if x = .a then some finish else none
                          bOn := if x = .b then some finish else none
                          aOff := none, bOff := none, reversal := false, partly := false }
        confusion := none, quietTimer := none }).sendActive p
    let v := if ((s.point p).line x).accepted then placed else freed
    let failed (result : ProofResult) : Point :=
      { (v.point p).onProof x (fun st => { st with failures := failures, lastResult := some result }) with
        proofFailTally := raise (s.point p).proofFailTally }
    let weighed (result : ProofResult) : State :=
      v.setPoint p ((failed result).weighed s.params s.params.wProof)
    let ends (c : Instr) (result : ProofResult) : Prop :=
      ∃ u, exec c s = .next u ∧
        Traces (.proof pr.system result pr.takeTime pr.responseTime finish failures) s u ∧
        ((s.point p).faults s.params s.params.wProof →
          Leaves ((v.setPoint p ((failed result).raised s.params.wProof)).fault p .level).settled u) ∧
        (¬(s.point p).faults s.params s.params.wProof → 1 ≤ before →
          Leaves ((weighed result).fault p .proofFailures).settled u) ∧
        (¬(s.point p).faults s.params s.params.wProof → before = 0 →
          Leaves ({ weighed result with queue := s.queue ++ [pr.system] } : State).settled u)
    (pr.phase = .assert → ends .assertWindowExpiry .noResponse) ∧
    (pr.phase = .release → ends .releaseWindowExpiry .noRelease)

/-- ABORT_WAIT_EXPIRY at an eligible point: the rows of R64. In the arriving direction's first state the record is partial
and without the tested system's on-time; a tested system that never read free puts the machine in its own overlap state;
one that read free, and is occupied again, is delivered with its own change time. At an IDLE machine the tested system
that never read free is placed in its first state with a partial record from the expiry; one that read free, and is
occupied again, is delivered. In any other state the machine stays. The last result is ABORTED, the system goes to the
head of the queue, and the abort is traced (R68). -/
def Obligations.TheAbortWaitEndsInItsDecision : Prop :=
  ∀ (pr : Proof) (s : State), s.channel = some pr → pr.phase = .abortWait → pr.window.reached s.now = true →
    eligible s pr.system.point = true →
    let p := pr.system.point
    let x := pr.system.sys
    let pt := s.point p
    let occupied : Prop := (pt.line x).accepted = true
    let own := (pt.line x).changeTime
    let finish := pr.window.start + BitVec.ofNat 32 pr.window.length
    let freed : State := { s with channel := none }
    let partly (r : Passage) : Passage := { r with
      aOn := if x = .a then none else r.aOn, bOn := if x = .b then none else r.bOn, partly := true }
    let onset (t : Time) (on : Option Time) (isPartial : Bool) : State :=
      (freed.setPoint p { pt with
        machine := firstState x
        passage := some { onset := t
                          aOn := if x = .a then on else none
                          bOn := if x = .b then on else none
                          aOff := none, bOff := none, reversal := false, partly := isPartial }
        confusion := none, quietTimer := none }).sendActive p
    let ends (v : State) : Prop :=
      ∃ u, exec .abortWaitExpiry s = .next u ∧
        Traces (.proof pr.system .aborted pr.takeTime pr.responseTime finish (pt.proof x).failures) s u ∧
        Leaves ({ v.setPoint p ((v.point p).onProof x (fun st => { st with lastResult := some .aborted })) with
          queue := pr.system :: s.queue.filter (fun y => y != pr.system) } : State).settled u
    (pt.machine = firstState x.other →
      (pr.readFree = false →
        ends (freed.setPoint p { pt with machine := overlapState x, passage := pt.passage.map partly })) ∧
      (pr.readFree = true → ¬occupied → ends (freed.setPoint p { pt with passage := pt.passage.map partly })) ∧
      (pr.readFree = true → occupied → (pt.line x.other).accepted = true →
        ends (freed.setPoint p { pt with
          machine := overlapState x.other
          passage := pt.passage.map (fun r => { partly r with
            aOn := if x = .a then some own else r.aOn
            bOn := if x = .b then some own else r.bOn
            aOff := if x = .a then none else r.aOff
            bOff := if x = .b then none else r.bOff }) }))) ∧
    (pt.machine = .idle →
      (pr.readFree = false → ends (onset finish none true)) ∧
      (pr.readFree = true → ¬occupied → ends freed) ∧
      (pr.readFree = true → occupied → (pt.line x.other).accepted = false → ends (onset own (some own) false))) ∧
    (pt.machine ≠ firstState x.other → pt.machine ≠ .idle → ends freed)

/-! ## Sections -/

/-- The notices of a point (R20, R82, R88): the point's entry of the view changes, then every section the point bounds
takes the notice once by its own rule, its record stamped and its output following; no other state changes. -/
def Obligations.NoticesReachTheSectionsOfThePoint : Prop :=
  ∀ (s : State) (p : PointId) (c : Cause),
    let v := s.view.get p
    let reaches (v' : PointView) (t : State) (f : SectionId → SectionRecord → SectionRecord) : Prop :=
      t = { s with view := s.view.set p v', sections := t.sections, outputs := { s.outputs with clr := t.outputs.clr } } ∧
      ∀ n, (n ∈ (s.entry p).bounds →
          t.sec n = (s.sec n).stamped s.now (f n (s.sec n)) ∧
          t.outputs.clr.get n = (s.outputs.clr.get n).follow (s.sec n).state (f n (s.sec n)).state) ∧
        (n ∉ (s.entry p).bounds → t.sec n = s.sec n ∧ t.outputs.clr.get n = s.outputs.clr.get n)
    reaches { v with active := true } (s.sendActive p)
      (fun n => SectionRecord.settle s.now (anyActive (s.sendActive p) n) (anyOverdue s n)) ∧
    reaches { v with active := false } (s.sendQuiet p)
      (fun n => SectionRecord.settle s.now (anyActive (s.sendQuiet p) n) (anyOverdue s n)) ∧
    reaches { v with overdue := true } (s.sendOverdue p) (fun _ => SectionRecord.takeOverdue) ∧
    reaches { v with overdue := false } (s.sendCurrent p)
      (fun n => SectionRecord.takeCurrent (anyOverdue (s.sendCurrent p) n)) ∧
    reaches v (s.sendDisturbance p c) (fun _ => SectionRecord.disturb c)

/-- A counted passage handed to two different sections (R20, R81, R91): the point is quiet in the view, the section left
takes the exit side and the section entered the entry side, each then settled; nothing else changes. -/
def Obligations.HandOverAppliesBothSides : Prop :=
  ∀ (s : State) (e : CountEvent) (l r : SectionId), e.left = some l → e.entered = some r → l ≠ r →
    let t := s.handOver e
    t = { s with view := s.view.set e.point { s.view.get e.point with active := false }
                 sections := t.sections, outputs := { s.outputs with clr := t.outputs.clr } } ∧
    t.sec l = (s.sec l).stamped s.now ((s.sec l).exitSide.settle s.now (anyActive t l) (anyOverdue s l)) ∧
    t.sec r = (s.sec r).stamped s.now ((s.sec r).entrySide.settle s.now (anyActive t r) (anyOverdue s r)) ∧
    ∀ n, n ≠ l → n ≠ r → t.sec n = s.sec n ∧ t.outputs.clr.get n = s.outputs.clr.get n

/-- The exit side at the section left (R89), the entry side at the section entered (R90), and the evaluation of a section of
the occupancy family and of a RESTORING one (R92, R93, R94, R122). `clearing` is the record after entry to CLEARING.
Then "proof overdue", which takes a CLEAR section to CLEARING with its proof-hold flag set, "proof current", which takes
a section so held to CLEAR when no member is overdue (R96, R97, R98), and the entry to DISTURBED, which keeps count and
tallies and leaves a DISTURBED or UNUSED section as it is (R100, R102). -/
def Obligations.SectionsFollowTheirTables : Prop :=
  (∀ r : SectionRecord,
     (r.state = .unused ∨ r.state = .disturbed → r.exitSide = r) ∧
     (r.state ≠ .unused → r.state ≠ .disturbed → r.count = 0 →
       r.exitSide = { r with state := .disturbed, cause := some .underflow, clearTimer := none, hold := false
                             sweep := false }) ∧
     (r.state ≠ .unused → r.state ≠ .disturbed → 1 ≤ r.count →
       r.exitSide = { r with count := r.count - 1, exits := r.exits + 1 })) ∧
  (∀ r : SectionRecord,
     (r.state = .unused ∨ r.state = .disturbed → r.entrySide = r) ∧
     (r.state ≠ .unused → r.state ≠ .disturbed → r.count = 1023 →
       r.entrySide = { r with state := .disturbed, cause := some .overflow, clearTimer := none, hold := false
                              sweep := false }) ∧
     (r.state ≠ .unused → r.state ≠ .disturbed → r.count ≤ 1022 →
       r.entrySide = { r with count := r.count + 1, entries := r.entries + 1 }) ∧
     (r.count ≤ 1023 → r.exitSide.count ≤ 1023 ∧ r.entrySide.count ≤ 1023)) ∧
  (∀ (now : Time) (active overdue : Bool) (r : SectionRecord),
     let clearing : SectionRecord :=
       if r.clearDelay = 0 then
         { r with state := if overdue then .clearing else .clear, clearTimer := none, hold := overdue }
       else { r with state := .clearing, clearTimer := some ⟨now, 10000 * r.clearDelay⟩, hold := false }
     ((0 < r.count ∨ active = true) →
       (r.state = .occupied → r.settle now active overdue = r) ∧
       (r.state = .clearing →
         r.settle now active overdue = { r with state := .occupied, clearTimer := none, hold := false }) ∧
       (r.state = .clear → r.settle now active overdue = { r with state := .occupied })) ∧
     (r.count = 0 → active = false →
       (r.state = .occupied → r.settle now active overdue = clearing) ∧
       (r.state = .clearing ∨ r.state = .clear → r.settle now active overdue = r)) ∧
     (r.state = .restoring →
       (0 < r.count → r.settle now active overdue = { r with sweep := true }) ∧
       (r.count = 0 → r.sweep = false ∨ active = true → r.settle now active overdue = r) ∧
       (r.count = 0 → r.sweep = true → active = false → r.settle now active overdue = clearing)) ∧
     (r.state = .unused ∨ r.state = .disturbed → r.settle now active overdue = r)) ∧
  (∀ r : SectionRecord,
     (r.state = .clear → r.takeOverdue = { r with state := .clearing, hold := true, clearTimer := none }) ∧
     (r.state ≠ .clear → r.takeOverdue = r)) ∧
  (∀ (overdue : Bool) (r : SectionRecord),
     (r.state = .clearing → r.hold = true → overdue = false →
       r.takeCurrent overdue = { r with state := .clear, hold := false }) ∧
     (r.state ≠ .clearing ∨ r.hold = false ∨ overdue = true → r.takeCurrent overdue = r)) ∧
  (∀ (c : Cause) (r : SectionRecord),
     (r.state = .unused ∨ r.state = .disturbed → r.disturb c = r) ∧
     (r.state ≠ .unused → r.state ≠ .disturbed →
       r.disturb c = { r with
         state := .disturbed, cause := some c, clearTimer := none, hold := false, sweep := false }))

/-- CLEAR_DELAY_EXPIRY (R93, R108): the section goes to CLEAR, its output ARMED, or stays CLEARING with its proof-hold flag
set when a member is overdue; either is a reportable change. HOLDOFF_TIMER_EXPIRY (R112): the timer is stopped, and
nothing is reported. -/
def Obligations.TheClearDelayEndsInClearOrHold : Prop :=
  ∀ (n : SectionId) (s : State),
    ((s.sec n).state = .clearing → timerReached s.now (s.sec n).clearTimer = true →
      (anyOverdue s n = false →
        ∃ u, exec (.clearDelayExpiry n) s = .next u ∧ Reports [.sec n] s u ∧
          Leaves (s.setSection n { s.sec n with state := .clear, clearTimer := none, hold := false, lastChange := s.now }
            .armed) u) ∧
      (anyOverdue s n = true →
        ∃ u, exec (.clearDelayExpiry n) s = .next u ∧ ((s.sec n).hold = false → Reports [.sec n] s u) ∧
          Leaves (s.setSection n { s.sec n with clearTimer := none, hold := true } (s.outputs.clr.get n)) u)) ∧
    (timerReached s.now (s.sec n).holdoffTimer = true →
      ∃ u, exec (.holdoffTimerExpiry n) s = .next u ∧ Reports [] s u ∧
        Leaves (s.setSection n { s.sec n with holdoffTimer := none } (s.outputs.clr.get n)) u)

/-! ## Detector supplies -/

/-- A point that goes dark (R151, R22, R66): its machine is IDLE with no record, no system of it is under proof or queued,
its epochs have ended, it is quiet and overdue in the view, and the sections it bounds are disturbed with the cause
when it was counting. Other points and the groups stay as they are. -/
def Obligations.ADarkenedPointStopsCounting : Prop :=
  ∀ (p : PointId) (c : Cause) (s : State), s.PointsOk → s.ViewOk →
    let t := s.darken c p
    (t.point p).machine = .idle ∧ (t.point p).passage = none ∧ (t.point p).confusion = none ∧
    (t.point p).quietTimer = none ∧ (t.point p).mode = (s.point p).mode ∧ (t.point p).health = (s.point p).health ∧
    (∀ x, ((t.point p).proof x).overdue = true ∧ ((t.point p).proof x).due = false ∧
      ((t.point p).proof x).dueTimer = none ∧ ((t.point p).proof x).overdueTimer = none ∧
      ((t.point p).proof x).proven = ((s.point p).proof x).proven ∧ underProof t p x = false ∧ ⟨p, x⟩ ∉ t.queue) ∧
    t.view.get p = ⟨false, true⟩ ∧
    (wasCounting s p = true → ∀ n ∈ (s.entry p).bounds, (s.sec n).state.trusted = true →
      (t.sec n).state = .disturbed ∧ (t.sec n).cause = some c ∧ (t.sec n).count = (s.sec n).count) ∧
    (∀ q, q ≠ p → t.point q = s.point q) ∧ t.groups = s.groups ∧ t.device = s.device ∧ t.sequencer = s.sequencer

/-- SUPPLY_GOOD_CHANGE (R146, R148, R149, R151): the accepted level changes; it takes ENABLING on to SETTLING, fails a
SETTLING group by a drop, and fails a READY one with its points going dark; in every other case the level alone
changes. The pin follows the accepted level: the model's choice (notes/assumptions/8.md). -/
def Obligations.ASupplyGoodChangeActsByTheGroupState : Prop :=
  ∀ (g : GroupId) (s : State),
    let good := !(s.group g).good
    let r : Group := { s.group g with good := good, pinHigh := good, run := 0 }
    let failed (reason : FailReason) : Group :=
      { r with state := .failed, timer := none, failReason := some reason, forced := none, lastChange := s.now }
    let after (t : State) : Prop := ∃ u, exec (.supplyGoodChange g) s = .next u ∧ Leaves t.settled u
    (r.state = .enabling → good = true →
      after (s.setGroup g { r with state := .settling, timer := some ⟨s.now, 100 * s.sequencer.params.settle⟩
                                   failReason := none, forced := none, lastChange := s.now })) ∧
    (r.state = .settling → good = false → after (s.setGroup g (failed .settleDrop))) ∧
    (r.state = .ready → good = false → after ((s.setGroup g (failed .supplyLoss)).darkenGroup .supplyLoss g)) ∧
    (r.state ≠ .enabling → good = true → after (s.setGroup g r)) ∧
    (r.state ≠ .settling → r.state ≠ .ready → good = false → after (s.setGroup g r))

/-- The three expiries of a group timer (R148, R149, R150, R155, R156): ENABLING fails; SETTLING ends in READY with the
points lit; DISABLING ends in FAILED when the supply still reads good, else in OFF, or in ENABLING in a recycle of
the group. Then the lighting of one point (R19, R51, R54, R135, R150): a point in use is initialised, CONFUSED with the
start-up mark when a system reads occupied; and not in FAULT, both its systems begin a new epoch, due and overdue, and
join the queue, A before B. The points of a group are four, in ascending order. -/
def Obligations.GroupTimersActByTheirStates : Prop :=
  (∀ (g : GroupId) (s : State), timerReached s.now (s.group g).timer = true →
    let moved (st : GroupState) (t : Option Timer) (reason : Option FailReason) : State :=
      s.setGroup g { s.group g with
        state := st, timer := t, failReason := reason, forced := none, lastChange := s.now }
    ((s.group g).state = .enabling →
      ∃ u, exec (.supplyGoodTimeout g) s = .next u ∧ Leaves (moved .failed none (some .enableTimeout)).settled u) ∧
    ((s.group g).state = .settling →
      ∃ u, exec (.settleTimerExpiry g) s = .next u ∧ Leaves ((moved .ready none none).lightGroup g).settled u) ∧
    ((s.group g).state = .disabling →
      ∃ u, exec (.offTimeExpiry g) s = .next u ∧
        Leaves (if (s.group g).good then moved .failed none (some .notOff)
          else if s.sequencer.activity = .recycle g then moved .enabling (some ⟨s.now, 10000⟩) none
          else moved .off none none).settled u)) ∧
  (∀ (p : PointId) (s : State), lit s p = true → (s.point p).machine = .idle →
    (∀ x, ((s.point p).proof x).overdue = true ∧ ⟨p, x⟩ ∉ s.queue ∧ underProof s p x = false) →
    let begun (st : ProofStatus) : ProofStatus := { st with
      proven := false, lastPass := none, due := true, overdue := true, dueTimer := none, overdueTimer := none }
    let initialised : State :=
      if (s.point p).lineA.accepted || (s.point p).lineB.accepted then
        (s.setPoint p { s.point p with
          machine := .confused, confusion := some ⟨.startUp, s.now⟩, passage := none, quietTimer := none }).sendActive p
      else s
    let pt := initialised.point p
    (inUse s p = false → s.light p = s) ∧
    (inUse s p = true → (s.point p).health = .fault → s.light p = initialised) ∧
    (inUse s p = true → (s.point p).health ≠ .fault →
      s.light p = { initialised.setPoint p { pt with proofA := begun pt.proofA, proofB := begun pt.proofB } with
        queue := s.queue ++ [⟨p, .a⟩, ⟨p, .b⟩] })) ∧
  (∀ g : GroupId, (pointsOf g).map Fin.val = [4 * g.val, 4 * g.val + 1, 4 * g.val + 2, 4 * g.val + 3])

/-- TURN_TIMER_EXPIRY in the power-on sequence (R152) and the power-off sequence (R154), the delay to the turn after it
being above 0: the group has its turn by its state, and the turn timer runs to the next turn, if there is one. -/
def Obligations.TheTurnTimerGivesTheNextTurn : Prop :=
  ∀ (g : GroupId) (s : State), s.sequencer.nextTurn = some g → timerReached s.now s.sequencer.turnTimer = true →
    let q := s.sequencer
    let moved (st : GroupState) (length : Nat) : State :=
      s.setGroup g { s.group g with
        state := st, timer := some ⟨s.now, length⟩, failReason := none, forced := none, lastChange := s.now }
    let turned (next : Option (GroupId × Nat)) (t : State) : State :=
      { t with sequencer := { q with nextTurn := next.map Prod.fst
                                     turnTimer := next.map (fun h => ⟨s.now, 100 * h.2⟩) } }
    (q.activity = .powerOn →
      ∀ next : Option (GroupId × Nat),
        next = (if h : g.val < 3 then some (⟨g.val + 1, by omega⟩, q.params.delay g.val) else none) →
        (∀ h ∈ next, h.2 ≠ 0) →
        ∃ u, exec .turnTimerExpiry s = .next u ∧
          Leaves (turned next
            (if (s.group g).state = .off then
              if (s.group g).good then moved .settling (100 * q.params.settle) else moved .enabling 10000
            else s)).settled u) ∧
    (q.activity = .powerOff →
      ∀ next : Option (GroupId × Nat),
        next = (if 0 < g.val then some (⟨g.val - 1, by omega⟩, q.params.delay (g.val - 1)) else none) →
        (∀ h ∈ next, h.2 ≠ 0) →
        ∃ u, exec .turnTimerExpiry s = .next u ∧
          Leaves (turned next
            (if (s.group g).state = .ready then (moved .disabling 10000).darkenGroup .supplyOff g
            else if (s.group g).state = .enabling ∨ (s.group g).state = .settling then moved .disabling 10000
            else s)).settled u)

/-- SET SUPPLY PARAMETERS in CONFIGURING with no group in SETTLING (R147, R171): the four values, each clamped, replace
the old ones, and the reply carries them and names the clamped fields. The mask of the clamped fields is the model's
choice (notes/assumptions/11.md). -/
def Obligations.SetSupplyParametersReplacesTheFour : Prop :=
  ∀ (tag a1 a0 b1 b0 c1 c0 d1 d0 : Byte) (s : State), s.service.replies.length < 4 →
    s.device.state = .configuring → (∀ g, (s.group g).state ≠ .settling) →
    let s' := s.frameTaken .service
    let raw : SupplyParams := ⟨word a1 a0, word b1 b0, word c1 c0, word d1 d0⟩
    let q : SupplyParams :=
      ⟨min 4095 raw.delay01, min 4095 raw.delay12, min 4095 raw.delay23, max 50 (min 5000 raw.settle)⟩
    ∃ u, exec (.setSupplyParameters .service tag [a1, a0, b1, b0, c1, c0, d1, d0]) s = .next u ∧
      Runs .service 0x0F tag
        (.accepted (bytes2 q.delay01 ++ bytes2 q.delay12 ++ bytes2 q.delay23 ++ bytes2 q.settle ++
          [byte (flag (q.delay01 != raw.delay01) 0 + flag (q.delay12 != raw.delay12) 1
            + flag (q.delay23 != raw.delay23) 2 + flag (q.settle != raw.settle) 3)]))
        s' ({ s' with sequencer := { s.sequencer with params := q } } : State).settled u

/-- RECYCLE GROUP, its checks passed (R156): the group is DISABLING for the off-time, and a recycle of it runs. FORCE SUPPLY,
its checks passed (R157): the group is MANUAL with the forced level, its timer stopped and its reason absent; the reply
carries the state before. By either, the points of a READY group go dark. -/
def Obligations.RecycleAndForceDarkenTheGroup : Prop :=
  (∀ (tag : Byte) (g : GroupId) (s : State), s.service.replies.length < 4 →
     s.device.state = .running → s.sequencer.activity = .none →
     (s.group g).state = .ready ∨ (s.group g).state = .failed →
     let s' := s.frameTaken .service
     let off : State := ({ s' with sequencer := { s.sequencer with activity := .recycle g } } : State).setGroup g
       { s.group g with state := .disabling, timer := some ⟨s.now, 10000⟩, failReason := none, forced := none
                        lastChange := s.now }
     ∃ u, exec (.recycleGroup .service tag [BitVec.ofNat 8 g.val]) s = .next u ∧
       Runs .service 0x15 tag (.accepted [BitVec.ofNat 8 g.val, 5]) s'
         (if (s.group g).state = .ready then off.darkenGroup .supplyOff g else off).settled u) ∧
  (∀ (tag : Byte) (g : GroupId) (on : Bool) (s : State), s.service.replies.length < 4 → s.device.state.live = true →
     let s' := s.frameTaken .service
     let forced := s'.setGroup g { s.group g with
       state := .manual, timer := none, failReason := none, forced := some on
       lastChange := if (s.group g).state = .manual ∧ (s.group g).forced = some on then (s.group g).lastChange
         else s.now }
     ∃ u, exec (.forceSupply .service tag [BitVec.ofNat 8 g.val, if on then 1 else 0]) s = .next u ∧
       Runs .service 0x16 tag
         (.accepted [BitVec.ofNat 8 g.val, BitVec.ofNat 8 (s.group g).state.code, if on then 1 else 0]) s'
         (if (s.group g).state = .ready then forced.darkenGroup .supplyOff g else forced).settled u)

/-- RELEASE SUPPLY of a MANUAL group (R158): the rows of its table. -/
def Obligations.ReleaseSupplyFollowsItsTable : Prop :=
  ∀ (tag : Byte) (g : GroupId) (s : State), s.service.replies.length < 4 → s.device.state.live = true →
    (s.group g).state = .manual →
    let s' := s.frameTaken .service
    let released (st : GroupState) (t : Option Timer) (reason : Option FailReason) : Prop :=
      ∃ u, exec (.releaseSupply .service tag [BitVec.ofNat 8 g.val]) s = .next u ∧
        Runs .service 0x17 tag (.accepted [BitVec.ofNat 8 g.val, BitVec.ofNat 8 st.code]) s'
          (s'.setGroup g { s.group g with
            state := st, timer := t, failReason := reason, forced := none, lastChange := s.now }).settled u
    ((s.group g).forced = some true → (s.group g).good = true →
      released .settling (some ⟨s.now, 100 * s.sequencer.params.settle⟩) none) ∧
    ((s.group g).forced = some true → (s.group g).good = false → released .failed none (some .releasedUnpowered)) ∧
    ((s.group g).forced = some false → s.device.state = .configuring → released .off none none) ∧
    ((s.group g).forced = some false → s.device.state = .starting →
      (∃ next, s.sequencer.nextTurn = some next ∧ next ≤ g) → released .off none none) ∧
    ((s.group g).forced = some false → s.device.state = .starting →
      (∀ next, s.sequencer.nextTurn = some next → g < next) → released .failed none (some .releasedOff)) ∧
    ((s.group g).forced = some false → s.device.state = .running → released .failed none (some .releasedOff))

/-! ## Outputs and ports -/

/-- PHASE_TIMER_EXPIRY (R176, R177, R179): the phase changes and its timer runs again from the expiry. A rising edge takes
ARMED outputs to TOGGLING, and RUN, unless LOW, to a new level; a falling edge changes no drive state. -/
def Obligations.ThePhaseEdgeActsOnTheOutputs : Prop :=
  ∀ s : State, s.outputs.phaseTimer.reached s.now = true →
    let o := s.outputs
    let timer : Timer := ⟨o.phaseTimer.start + BitVec.ofNat 32 o.phaseTimer.length, o.phaseTimer.length⟩
    (o.phaseHigh = true →
      exec .phaseTimerExpiry s = .next { s with outputs := { o with phaseHigh := false, phaseTimer := timer } }) ∧
    (o.phaseHigh = false → ∃ clr,
      exec .phaseTimerExpiry s = .next { s with outputs := {
        phaseHigh := true, phaseTimer := timer, clr := clr
        run := if o.run = .low then .low else .toggling
        runHigh := match o.run with
          | .low => o.runHigh
          | .armed => true
          | .toggling => !o.runHigh } } ∧
      ∀ n, clr.get n = if o.clr.get n = .low then .low else .toggling)

/-- REFILL_TIMER_EXPIRY, IMAGE_TIMER_EXPIRY and LINK_TIMER_EXPIRY (R193, R194, R195): one token more, up to burst; the
image due, or sent at once by a free transmitter with no reply waiting; the link DOWN. -/
def Obligations.PortTimersRefillAndSupervise : Prop :=
  ∀ (i : PortId) (s : State),
    let again (t : Timer) : Timer := ⟨t.start + BitVec.ofNat 32 t.length, t.length⟩
    ((s.port i).refillTimer.reached s.now = true →
      ∃ u, exec (.refillTimerExpiry i) s = .next u ∧
        Leaves (s.onPort i (fun q => { q with
          refillTimer := again q.refillTimer
          tokens := if q.tokens < q.burst then q.tokens + 1 else q.tokens })) u ∧
        ((s.port i).sending ≠ none → (u.port i).sending = (s.port i).sending ∧
          (u.port i).tokens = if (s.port i).tokens < (s.port i).burst then (s.port i).tokens + 1 else (s.port i).tokens)) ∧
    (s.link.imageTimer.reached s.now = true →
      ∃ u, exec .imageTimerExpiry s = .next u ∧
        Leaves { s with link := { s.link with imageDue := true, imageTimer := again s.link.imageTimer } } u ∧
        (s.control.sending ≠ none → u.link.imageDue = true ∧ u.control.sending = s.control.sending) ∧
        (s.control.sending = none → s.control.replies = [] →
          u.link.imageDue = false ∧ u.control.sendSequence = s.control.sendSequence + 1 ∧
          u.control.sending = some (frame 0x82 s.control.sendSequence (statusBody s)))) ∧
    (timerReached s.now s.link.timer = true →
      exec .linkTimerExpiry s = .next { s with link := { s.link with up := false, timer := none } })

/-- TRANSMIT_COMPLETE (R188, R190, R194): the transmitter is free and begins the first ready source: a reply, the
status image on the control port, a report while a token is held and, on the control port, the link is UP, or a trace
record on the service port. The class byte and the device index of a report are the model's choice
(notes/assumptions/20.md and 5.md), and so are the item code 0 and the index 0xFF of a device report whose autostart is
absent, NOT_REQUESTED or STARTED (notes/assumptions/13.md). While a frame is sent the line carries its characters, each a low start bit, the data bits least significant
bit first and a high stop bit, and it is high otherwise (R182). Then the layouts of the envelope, the change reports,
the status image and the trace records (R201, R202, R203). -/
def Obligations.TheTransmitterTakesTheFirstReadySource : Prop :=
  (∀ (i : PortId) (s : State), (s.port i).sending ≠ none →
    let q := s.port i
    let imageReady : Prop := i = .control ∧ s.link.imageDue = true
    let reportsReady : Prop := q.queue ≠ [] ∧ 0 < q.tokens ∧ (i = .control → s.link.up = true)
    ∃ u, exec (.transmitComplete i) s = .next u ∧ Leaves (s.onPort i (fun q => { q with sending := none })) u ∧
      (∀ r rest, q.replies = r :: rest →
        (u.port i).sending = some (frame 0x80 r.tag r.body) ∧ (u.port i).replies = rest ∧
        (u.port i).sendSequence = q.sendSequence) ∧
      (q.replies = [] → imageReady →
        (u.port i).sending = some (frame 0x82 q.sendSequence (statusBody s)) ∧ u.link.imageDue = false ∧
        (u.port i).sendSequence = q.sendSequence + 1) ∧
      (q.replies = [] → ¬imageReady → reportsReady → ∀ e rest, q.queue = e :: rest →
        (u.port i).sending = some (frame 0x81 q.sendSequence (reportBody s e)) ∧ (u.port i).queue = rest ∧
        (u.port i).tokens = q.tokens - 1 ∧ (u.port i).sendSequence = q.sendSequence + 1) ∧
      (q.replies = [] → ¬imageReady → ¬reportsReady → i = .service → ∀ r rest, s.trace.buffer = r :: rest →
        (u.port i).sending = some (frame 0x83 q.sendSequence (traceBody r)) ∧ u.trace.buffer = rest ∧
        (u.port i).sendSequence = q.sendSequence + 1) ∧
      (q.replies = [] → ¬imageReady → ¬reportsReady → (i = .control ∨ s.trace.buffer = []) →
        (u.port i).sending = none ∧ (u.port i).sendSequence = q.sendSequence)) ∧
  (∀ (q : Port) (k : Nat), q.sending = none → q.lineLevel k = true) ∧
  (∀ (q : Port) (f : List Byte) (j k : Nat) (h : j < f.length), q.sending = some f → k < 10 →
     q.lineLevel (10 * j + k) = if k = 0 then false else if k = 9 then true else (f[j]).getLsbD (k - 1)) ∧
  (∀ (kind tag : Byte) (body : List Byte),
     let length : Byte := BitVec.ofNat 8 (body.length + 2)
     let crc := (crc16 (length :: kind :: tag :: body)).toNat
     frame kind tag body =
       0xC3 :: length :: kind :: tag :: (body ++ [BitVec.ofNat 8 (crc / 256), BitVec.ofNat 8 crc])) ∧
  (∀ (s : State) (e : ReportEntry),
     let code (d : Device) (item : Byte) (index : Byte) (result : Byte) : List Byte :=
       [BitVec.ofNat 8 ([DeviceState.loading, .configuring, .starting, .running, .halting].idxOf d.state),
        d.loadResult.elim 0xFF (fun r => BitVec.ofNat 8 ([LoadResult.none, .corrupt, .loaded].idxOf r)),
        result, item, index, if d.store.isSome then 1 else 0,
        d.lastStore.elim 0xFF (fun r => BitVec.ofNat 8 ([StoreResult.done, .failed].idxOf r))] ++ bytes4 s.now
     let changes : Byte := BitVec.ofNat 8 e.changes
     (∀ n, e.subject = .sec n → reportBody s e = 0 :: BitVec.ofNat 8 n.val :: changes :: sectionRecord s n) ∧
     (∀ p, e.subject = .point p → reportBody s e = 1 :: BitVec.ofNat 8 p.val :: changes :: pointRecord s p) ∧
     (∀ g, e.subject = .group g → reportBody s e = 2 :: BitVec.ofNat 8 g.val :: changes :: groupRecord s g) ∧
     (e.subject = .device →
       (s.device.autostart = none →
         reportBody s e = 3 :: Config.deviceReportIndex :: changes :: code s.device 0 0xFF 0xFF) ∧
       (s.device.autostart = some .notRequested →
         reportBody s e = 3 :: Config.deviceReportIndex :: changes :: code s.device 0 0xFF 0) ∧
       (s.device.autostart = some .started →
         reportBody s e = 3 :: Config.deviceReportIndex :: changes :: code s.device 0 0xFF 1) ∧
       (∀ item, s.device.autostart = some (.refused item) →
         reportBody s e = 3 :: Config.deviceReportIndex :: changes ::
           code s.device (BitVec.ofNat 8 item.code) (BitVec.ofNat 8 item.index) 2))) ∧
  (∀ s : State,
     statusBody s =
       BitVec.ofNat 8 ([DeviceState.loading, .configuring, .starting, .running, .halting].idxOf s.device.state) ::
       (if s.link.up then 0 else 1) ::
       (List.finRange 12).flatMap (fun n => BitVec.ofNat 8 (s.sec n).state.code :: bytes2 (s.sec n).count)) ∧
  (∀ (p : PointId) (t t' : Time) (d : Direction) (e : CountEvent) (cause : ConfusionCause) (x : Sys) (length : Byte)
     (result : ProofResult) (response : Option Time) (failures drops : Nat),
     let point : Byte := BitVec.ofNat 8 p.val
     let dir (d : Direction) : Byte := match d with
       | .up => 0
       | .down => 1
     let sys : Byte := match x with
       | .a => 0
       | .b => 1
     let side (n : Option SectionId) : Byte := n.elim 0xFF (fun n => BitVec.ofNat 8 n.val)
     let counted : List Byte :=
       BitVec.ofNat 8 e.point.val :: dir e.direction :: (bytes4 e.time ++ e.speed.elim [0xFF, 0xFF] bytes2 ++
         [e.plausibility.elim 0xFF (fun r => BitVec.ofNat 8 ([Plausibility.pass, .irregular].idxOf r)), side e.left,
          side e.entered])
     let why : Byte := BitVec.ofNat 8 ([ConfusionCause.simultaneousOnset, .jump, .startUp].idxOf cause)
     let outcome : Byte :=
       BitVec.ofNat 8 ([ProofResult.pass, .noResponse, .noRelease, .aborted, .unfinished].idxOf result)
     traceBody (.counted e) = 0 :: counted ∧ traceBody (.uncounted e) = 1 :: counted ∧
     traceBody (.retreat p d t t') = 2 :: point :: dir d :: (bytes4 t ++ bytes4 t') ∧
     traceBody (.confused p cause t t') =
       3 :: point :: why :: (bytes4 t ++ bytes4 t' ++ [if cause = .startUp then 1 else 0]) ∧
     traceBody (.glitch p x t length) = 4 :: point :: sys :: (bytes4 t ++ [length]) ∧
     traceBody (.proof ⟨p, x⟩ result t response t' failures) =
       5 :: point :: sys :: outcome :: (bytes4 t ++ response.elim [0, 0, 0, 0, 0] (fun r => 1 :: bytes4 r) ++
         bytes4 t' ++ [BitVec.ofNat 8 failures]) ∧
     traceBody (.gap drops) = 6 :: bytes2 drops)

/-- CHARACTER_RECEIVED that does not complete a frame, GAP_TIMER_EXPIRY and FRAME_DISCARDED (R183): the rows of the
assembly's table; a frame discarded for any reason raises the frame error tally by one, saturating, and leaves the
assembly HUNTING with its gap timer stopped. That the start byte starts the gap timer, and that FRAME_DISCARDED acts in
every state, are the model's (notes/assumptions/18.md and 19.md). -/
def Obligations.TheAssemblyFollowsItsTable : Prop :=
  (∀ (i : PortId) (b : Byte) (s : State),
     let awaiting (a : Assembly) : State :=
       s.onPort i (fun q => { q with assembly := a, gapTimer := some ⟨s.now, 500⟩ })
     let hunting : State := s.onPort i (fun q => { q with assembly := .hunting, gapTimer := none })
     let discarded : State := s.onPort i (fun q =>
       { q with frameErrors := min 65535 (q.frameErrors + 1), assembly := .hunting, gapTimer := none })
     ((s.port i).assembly = .hunting →
       (b = 0xC3 → exec (.characterReceived i (.byte b)) s = .next (awaiting .length)) ∧
       (b ≠ 0xC3 → exec (.characterReceived i (.byte b)) s = .next hunting) ∧
       exec (.characterReceived i .stopBitLow) s = .next hunting) ∧
     ((s.port i).assembly = .length →
       (2 ≤ b.toNat → b.toNat ≤ 242 →
         exec (.characterReceived i (.byte b)) s = .next (awaiting (.collecting b []))) ∧
       (b.toNat < 2 ∨ 242 < b.toNat → exec (.characterReceived i (.byte b)) s = .next discarded) ∧
       exec (.characterReceived i .stopBitLow) s = .next discarded) ∧
     (∀ len kept, (s.port i).assembly = .collecting len kept →
       (kept.length + 1 < len.toNat + 2 →
         exec (.characterReceived i (.byte b)) s = .next (awaiting (.collecting len (kept ++ [b])))) ∧
       (kept.length + 1 = len.toNat + 2 → (kept ++ [b]).drop len.toNat ≠ crcBytes (len :: (kept ++ [b]).take len.toNat) →
         exec (.characterReceived i (.byte b)) s = .next discarded) ∧
       exec (.characterReceived i .stopBitLow) s = .next discarded)) ∧
  (∀ (i : PortId) (reason : DiscardReason) (s : State),
     let discarded := s.onPort i (fun q =>
       { q with frameErrors := min 65535 (q.frameErrors + 1), assembly := .hunting, gapTimer := none })
     (timerReached s.now (s.port i).gapTimer = true → exec (.gapTimerExpiry i) s = .next discarded) ∧
     exec (.frameDiscarded i reason) s = .next discarded)

/-- CHARACTER_RECEIVED that completes a valid frame (R183, R184, R201): what follows is the command of the frame's
kind, with its TAG and body, taken on the port. The assembly left HUNTING by a command frame is the model's choice
(notes/assumptions/10.md). -/
def Obligations.AValidFrameIsTakenAsItsCommand : Prop :=
  ∀ (i : PortId) (kind tag b : Byte) (body kept : List Byte) (s : State),
    body.length ≤ 240 →
    let len : Byte := BitVec.ofNat 8 (body.length + 2)
    kept ++ [b] = kind :: tag :: body ++ crcBytes (len :: kind :: tag :: body) →
    (s.port i).assembly = .collecting len kept →
    exec (.characterReceived i (.byte b)) s = exec (commandOf i kind tag body) s

/-- A valid frame is taken by link supervision before its command (R184, R195). Then the port checks come before a
command's own (R184, R186): a full reply FIFO discards the frame unanswered and raises the overrun tally; an unknown
kind, then a command not permitted on the port, then a body of a length that its kind does not have (R201), is refused
with nothing else changed. The assembly left HUNTING by a
command frame is the model's choice (notes/assumptions/10.md). -/
def Obligations.ThePortChecksComeFirst : Prop :=
  (∀ s : State,
     s.frameTaken .control = { s with
       control := { s.control with assembly := .hunting, gapTimer := none }
       link := { s.link with
         up := true, timer := if s.link.timeout = 0 then none else some ⟨s.now, 100 * s.link.timeout⟩ } } ∧
     s.frameTaken .service = { s with service := { s.service with assembly := .hunting, gapTimer := none } }) ∧
  (∀ (i : PortId) (kind tag : Byte) (body : List Byte) (s : State),
     let s' := s.frameTaken i
     let hasLength (kind length : Nat) : Prop :=
       match kind with
       | 0x01 | 0x0B => length = 4
       | 0x02 | 0x07 | 0x08 | 0x0C | 0x14 | 0x15 | 0x17 => length = 1
       | 0x03 | 0x04 | 0x12 | 0x13 => length = 0
       | 0x05 | 0x06 | 0x0A | 0x16 => length = 2
       | 0x09 | 0x0E => length % 3 = 0
       | 0x0D => length = 3 ∨ length = 4
       | 0x0F | 0x10 => length = 8
       | 0x11 => length = 5
       | _ => False
     let refused (code : RefusalCode) : Prop :=
       ∃ u, exec (commandOf i kind tag body) s = .next u ∧ Runs i kind tag (.refused code []) s' s' u
     (4 ≤ (s.port i).replies.length →
       ∃ u, exec (commandOf i kind tag body) s = .next u ∧
         Leaves (s'.onPort i (fun q => { q with overruns := min 65535 (q.overruns + 1) })) u ∧
         ((s.port i).sending ≠ none →
           (u.port i).replies = (s.port i).replies ∧ (u.port i).sending = (s.port i).sending)) ∧
     ((s.port i).replies.length < 4 →
       (kind.toNat = 0 ∨ 0x17 < kind.toNat → refused .unknownCommand) ∧
       (i = .service → kind = 1 ∨ kind = 2 → refused .notPermittedOnPort) ∧
       (i = .control → 9 ≤ kind.toNat → kind.toNat ≤ 0x17 → refused .notPermittedOnPort) ∧
       ((i = .control → kind.toNat ≤ 8) → (i = .service → 3 ≤ kind.toNat) → 1 ≤ kind.toNat → kind.toNat ≤ 0x17 →
         ¬hasLength kind.toNat body.length → refused .badLength))) ∧
  (∀ (i : PortId) (kind tag : Byte) (body : List Byte) (s : State), (s.port i).replies.length < 4 →
     ∃ u, exec (.unknownCommand i kind tag body) s = .next u ∧
       Runs i kind tag (.refused .unknownCommand []) (s.frameTaken i) (s.frameTaken i) u)

/-- QUERY SECTIONS, QUERY POINTS, QUERY DEVICE and LINK CHECK (R187): the records of the run from the first index
upward, the index after the highest being 0, as many whole ones as 235 bytes hold; the device record; and no change of
the part's state but for the frame taken. Then the layouts of the section, point, group and device
records, of 28 + 2m, 61, 13 and 168 bytes (R202, R203). Some bytes of the device record are the model's reading, and
that it carries no supply parameter is the model's choice (notes/assumptions/13.md, 17.md and 34.md). -/
def Obligations.QueriesReplyAndChangeNothing : Prop :=
  (∀ (i : PortId) (tag n : Byte) (f : SectionId) (p : PointId) (s : State), (s.port i).replies.length < 4 →
    let s' := s.frameTaken i
    let replies (c : Instr) (kind : Byte) (data : List Byte) : Prop :=
      ∃ u, exec c s = .next u ∧ Runs i kind tag (.accepted data) s' s' u
    let askedS := max 1 (min 12 n.toNat)
    let askedP := max 1 (min 16 n.toNat)
    let recordsS := (List.range askedS).map (fun k => sectionRecord s' (Fin.ofNat 12 (f.val + k)))
    let recordsP := (List.range askedP).map (fun k => pointRecord s' (Fin.ofNat 16 (p.val + k)))
    let reply (first asked : Nat) (records : List (List Byte)) : List Byte :=
      [byte first, byte asked, byte (fitting 235 records).length] ++ (fitting 235 records).flatten
    replies (.querySections i tag [BitVec.ofNat 8 f.val, n]) 0x05 (reply f.val askedS recordsS) ∧
    replies (.queryPoints i tag [BitVec.ofNat 8 p.val, n]) 0x06 (reply p.val askedP recordsP) ∧
    replies (.queryDevice i tag []) 0x03 (deviceRecord s') ∧
    replies (.linkCheck i tag []) 0x04 (deviceRecord s')) ∧
  (∀ (n : Nat) (t : Time),
     bytes2 n = [BitVec.ofNat 8 (n / 256), BitVec.ofNat 8 n] ∧
     bytes4 t = [t.extractLsb' 24 8, t.extractLsb' 16 8, t.extractLsb' 8 8, t.extractLsb' 0 8]) ∧
  (∀ (s : State) (n : SectionId),
     let r := s.sec n
     let bit (b : Bool) (k : Nat) : Nat := if b then 2 ^ k else 0
     sectionRecord s n =
       [BitVec.ofNat 8 n.val,
        BitVec.ofNat 8 ([SectionState.unused, .disturbed, .restoring, .occupied, .clearing, .clear].idxOf r.state)] ++
       bytes2 r.count ++
       [r.cause.elim 0xFF (fun c => BitVec.ofNat 8 ([Cause.powerUp, .deviceHalt, .supplyLoss, .supplyOff,
         .pointWithdrawn, .pointFault, .confusedPassage, .underflow, .overflow, .hostRequest,
         .restoreCancelled].idxOf c))] ++
       bytes2 r.rc.toNat ++ bytes2 r.entries.toNat ++ bytes2 r.exits.toNat ++
       [BitVec.ofNat 8 (bit r.sweep 0 + bit r.hold 1 + bit r.clearTimer.isSome 2 + bit r.lastRestore.isSome 3)] ++
       bytes4 (r.clearTimer.elim 0 (fun t => t.start + BitVec.ofNat 32 t.length)) ++ bytes4 (r.lastRestore.getD 0) ++
       bytes4 r.lastChange ++ [BitVec.ofNat 8 (members s n).length] ++
       (members s n).flatMap (fun p => [BitVec.ofNat 8 p.val,
         BitVec.ofNat 8 (bit ((s.entry p).up == some n) 0 + bit ((s.entry p).down == some n) 1 +
           bit (s.view.get p).active 2 + bit (s.view.get p).overdue 3)]) ++
       [BitVec.ofNat 8 r.clearDelay, BitVec.ofNat 8 r.holdoff, if r.directPermitted then 1 else 0] ∧
     (sectionRecord s n).length = 28 + 2 * (members s n).length) ∧
  (∀ (s : State) (p : PointId),
     let pt := s.point p
     let bit (b : Bool) (k : Nat) : Nat := if b then 2 ^ k else 0
     let side (n : Option SectionId) : Byte := n.elim 0xFF (fun n => BitVec.ofNat 8 n.val)
     let mode (m : Mode) : Byte := BitVec.ofNat 8 ([Mode.outOfUse, .supervising, .counting].idxOf m)
     let because : Byte :=
       if pt.mode ≠ .counting then 1 else if pt.health = .fault then 2 else if lit s p = false then 3
       else if s.device.state ≠ .running then 4 else 0
     let system (x : Sys) : List Byte :=
       let st := pt.proof x
       let phase : Byte :=
         if underProof s p x then
           s.channel.elim 0 (fun pr => match pr.phase with
             | .assert => 1
             | .release => 2
             | .abortWait => 3)
         else 0
       [BitVec.ofNat 8 (bit (eligible s p) 0 + bit st.proven 1 + bit st.due 2 + bit st.overdue 3 +
          bit st.lastPass.isSome 4)] ++ bytes4 (st.lastPass.getD 0) ++
       [BitVec.ofNat 8 st.failures,
        st.lastResult.elim 0xFF (fun r => BitVec.ofNat 8 ([ProofResult.pass, .noResponse, .noRelease, .aborted,
          .unfinished].idxOf r)), phase]
     pointRecord s p =
       [BitVec.ofNat 8 p.val, side (s.entry p).up, side (s.entry p).down, mode pt.mode, mode pt.startMode, because,
        BitVec.ofNat 8 (bit pt.lineA.accepted 0 + bit pt.lineB.accepted 1),
        BitVec.ofNat 8 ([DirectionMachine.idle, .up1, .up2, .up3, .dn1, .dn2, .dn3, .confused].idxOf pt.machine),
        pt.confusion.elim 0xFF (fun c =>
          BitVec.ofNat 8 ([ConfusionCause.simultaneousOnset, .jump, .startUp].idxOf c.cause))] ++
       bytes4 (pt.confusion.elim 0 Confusion.entry) ++ bytes2 pt.upTally.toNat ++ bytes2 pt.downTally.toNat ++
       [BitVec.ofNat 8 pt.level, BitVec.ofNat 8 ([Health.ok, .warn, .fault].idxOf pt.health),
        pt.faultCause.elim 0xFF (fun c => BitVec.ofNat 8 ([FaultCause.level, .proofFailures].idxOf c))] ++
       bytes4 (pt.faultTime.getD 0) ++ pt.lastSpeed.elim [0xFF, 0xFF] bytes2 ++
       bytes2 pt.glitchTally ++ bytes2 pt.retreatTally ++ bytes2 pt.irregularTally ++ bytes2 pt.overspeedTally ++
       bytes2 pt.confusedTally ++ bytes2 pt.proofFailTally ++
       bytes2 pt.params.spacing ++ [BitVec.ofNat 8 pt.params.filter] ++
       pt.staged.elim [0xFF, 0xFF, 0xFF] (fun q => bytes2 q.spacing ++ [BitVec.ofNat 8 q.filter]) ++
       [BitVec.ofNat 8 (bit (pt.confusion.elim false (fun c => c.cause == .startUp)) 0 +
          bit (pt.proofA.overdue || pt.proofB.overdue) 1)] ++ system .a ++ system .b ∧
     (pointRecord s p).length = 61) ∧
  (∀ (s : State) (g : GroupId),
     let r := s.group g
     let bit (b : Bool) (k : Nat) : Nat := if b then 2 ^ k else 0
     let enabled : Bool := r.state == .enabling || r.state == .settling || r.state == .ready ||
       (r.state == .manual && r.forced == some true)
     groupRecord s g =
       [BitVec.ofNat 8 g.val,
        BitVec.ofNat 8 ([GroupState.off, .enabling, .settling, .ready, .failed, .disabling, .manual].idxOf r.state),
        BitVec.ofNat 8 (bit enabled 0 + bit r.good 1 + bit r.timer.isSome 2),
        r.failReason.elim 0xFF (fun c => BitVec.ofNat 8 ([FailReason.enableTimeout, .settleDrop, .supplyLoss, .notOff,
          .releasedUnpowered, .releasedOff].idxOf c)),
        r.forced.elim 0xFF (fun on => if on then 1 else 0)] ++
       bytes4 (r.timer.elim 0 (fun t => t.start + BitVec.ofNat 32 t.length)) ++ bytes4 r.lastChange ∧
     (groupRecord s g).length = 13) ∧
  (∀ s : State, s.queue.length ≤ 32 →
     let d := s.device
     let bit (b : Bool) (k : Nat) : Nat := if b then 2 ^ k else 0
     let one (n : Nat) : Byte := BitVec.ofNat 8 n
     let system (x : SystemId) : Byte := BitVec.ofNat 8 (2 * x.point.val + if x.sys = .b then 1 else 0)
     let drive (o : Drive) : Byte := BitVec.ofNat 8 ([Drive.low, .armed, .toggling].idxOf o)
     let autostart : List Byte := match d.autostart with
       | none => [0xFF, 0, 0xFF]
       | some .notRequested => [0, 0, 0xFF]
       | some .started => [1, 0, 0xFF]
       | some (.refused (.sameSides p)) => [2, 1, one p.val]
       | some (.refused (.members n)) => [2, 2, one n.val]
       | some (.refused (.unbound p)) => [2, 3, one p.val]
       | some (.refused (.filterWindow p)) => [2, 4, one p.val]
     let c := s.params
     let activity : List Byte := match s.sequencer.activity with
       | .none => [0, s.sequencer.nextTurn.elim 0xFF (fun g => one g.val)]
       | .powerOn => [1, s.sequencer.nextTurn.elim 0xFF (fun g => one g.val)]
       | .powerOff => [2, s.sequencer.nextTurn.elim 0xFF (fun g => one g.val)]
       | .recycle g => [3, one g.val]
     let port (q : Port) : List Byte :=
       [one ([Baud.baud19200, .baud57600, .baud115200, .baud460800].idxOf q.baud)] ++ bytes2 q.frameErrors ++
       bytes2 q.overruns ++
       [one (bit q.mask.sections 0 + bit q.mask.points 1 + bit q.mask.supplies 2 + bit q.mask.device 3),
        one q.queue.length, one q.tokens, one q.burst] ++ bytes2 q.refillPeriod ++ [q.sendSequence]
     deviceRecord s =
       [one ([DeviceState.loading, .configuring, .starting, .running, .halting].idxOf d.state),
        d.loadResult.elim 0xFF (fun r => one ([LoadResult.none, .corrupt, .loaded].idxOf r)),
        one (bit d.loadAdjusted 0 + bit d.store.isSome 1 + bit s.outputs.phaseHigh 2)] ++ autostart ++
       [d.lastStore.elim 0xFF (fun r => one ([StoreResult.done, .failed].idxOf r))] ++
       ([one c.tol] ++ bytes2 c.vLimit ++ [one c.wGlitch, one c.wIrregular, one c.wOverspeed, one c.wConfused,
         one c.wProof, one c.leakInterval, one c.warnOn, one c.fault] ++ bytes2 c.interval ++ [one c.response]) ++
       bytes4 s.now ++
       [s.channel.elim 0xFF (fun pr => system pr.system),
        s.channel.elim 0 (fun pr => match pr.phase with
          | .assert => 1
          | .release => 2
          | .abortWait => 3), one s.queue.length] ++
       (List.range 32).map (fun k => (s.queue[k]?).elim 0xFF system) ++ activity ++
       bytes4 (s.sequencer.turnTimer.elim 0 (fun t => t.start + BitVec.ofNat 32 t.length)) ++
       (List.finRange 4).flatMap (groupRecord s) ++
       (List.finRange 12).map (fun n => drive (s.outputs.clr.get n)) ++ [drive s.outputs.run] ++
       port s.control ++ port s.service ++
       [if s.link.up then 0 else 1] ++ bytes2 s.link.timeout ++ bytes2 s.link.imagePeriod ++
       bytes2 s.trace.pointMask.toNat ++ [s.trace.kindMask] ++ bytes2 s.trace.sectionMask.toNat ++
       [one s.trace.buffer.length] ++ bytes2 s.trace.drops ∧
     (deviceRecord s).length = 168)

/-- SET REPORT MASK (R191): the port's mask is replaced, the queued subjects of other classes leave and the rest keep their
order. SET TRACE (R198): the three masks are replaced, and the buffer and the drop count stay. A mask outside its set
is refused. Then what the masks let through. A change of a record posts its subject when its reportable content changes
(R24, R47, R67, R108, R129, R160, R175, R189), and a busy port holds what an event posts. A trace record is taken when it
passes the three masks, and placed by the table of R197 with its GAP record and drop count. That a PROOF record passes an
empty section mask alone (R196, where R68 differs) is the model's choice (notes/assumptions/31.md). The records of one
event are placed in ascending order of point and kind (R197). That one step of work is one change is the model's reading
(notes/assumptions/21.md). -/
def Obligations.ReportAndTraceMasksAreReplaced : Prop :=
  (∀ (i : PortId) (tag field : Byte) (s : State), (s.port i).replies.length < 4 →
     let s' := s.frameTaken i
     let m : ClassMask := ⟨field.getLsbD 0, field.getLsbD 1, field.getLsbD 2, field.getLsbD 3⟩
     let kept := (s.port i).queue.filter (fun e => e.subject.inMask m)
     (field.toNat < 16 →
       ∃ u, exec (.setReportMask i tag [field]) s = .next u ∧
         Runs i 0x08 tag (.accepted [field, byte kept.length]) s'
           (s'.onPort i (fun q => { q with mask := m, queue := kept })) u ∧
         ((s.port i).sending ≠ none → (u.port i).queue = kept)) ∧
     (16 ≤ field.toNat →
       ∃ u, exec (.setReportMask i tag [field]) s = .next u ∧ Runs i 0x08 tag (.refused .badArgument []) s' s' u)) ∧
  (∀ (tag p1 p0 kinds n1 n0 : Byte) (s : State), s.service.replies.length < 4 →
     let s' := s.frameTaken .service
     (kinds.toNat < 64 → n1.toNat < 16 →
       ∃ u, exec (.setTrace .service tag [p1, p0, kinds, n1, n0]) s = .next u ∧
         Runs .service 0x11 tag
           (.accepted ([p1, p0, kinds, n1, n0, byte s.trace.buffer.length] ++ bytes2 s.trace.drops)) s'
           { s' with trace := { s.trace with pointMask := p1 ++ p0, kindMask := kinds, sectionMask := n1 ++ n0 } } u ∧
         (s.service.sending ≠ none → u.trace.buffer = s.trace.buffer ∧ u.trace.drops = s.trace.drops)) ∧
     (64 ≤ kinds.toNat ∨ 16 ≤ n1.toNat →
       ∃ u, exec (.setTrace .service tag [p1, p0, kinds, n1, n0]) s = .next u ∧
         Runs .service 0x11 tag (.refused .badArgument []) s' s' u)) ∧
  (∀ (w : Ev) (p : PointId) (f : Point → Point) (n : SectionId) (f' : SectionRecord → SectionRecord) (g : GroupId)
     (h : Group → Group) (h' : Device → Device),
     let points (pt : Point) := (decide (pt.machine = .confused), pt.health, pt.faultCause, pt.mode,
       pt.proofA.proven, pt.proofB.proven, pt.proofA.overdue, pt.proofB.overdue)
     let sections (r : SectionRecord) := (r.state, r.count, r.cause, r.hold, r.sweep, r.rc)
     let groups (r : Group) := (r.state, r.failReason, r.forced)
     let device (d : Device) := (d.state, d.loadResult, d.autostart, d.store.isSome, d.lastStore)
     let posts (v : Ev) (same : Prop) (x : Subject) : Prop :=
       (same → v.posts = w.posts) ∧ (¬same → v.posts = w.posts ++ [x])
     posts (w.onPoint p f) (points (f (w.s.point p)) = points (w.s.point p)) (.point p) ∧
     posts (w.onSection n f') (sections (f' (w.s.sec n)) = sections (w.s.sec n)) (.sec n) ∧
     posts (w.onGroup g h) (groups (h (w.s.group g)) = groups (w.s.group g)) (.group g) ∧
     posts (w.onDevice h') (device (h' w.s.device) = device w.s.device) .device) ∧
  (∀ (f : Ev → Ev) (s : State),
     let w := f ⟨s, [], []⟩
     let u := runEvent f s
     (∀ i, (w.s.port i).sending ≠ none → (u.port i).queue = posted (w.s.port i).mask w.posts (w.s.port i).queue) ∧
     (w.s.service.sending ≠ none → ∀ l : List TraceRecord, l.Perm w.traces → (∀ r ∈ l, r.about.isSome = true) →
       l.Pairwise (fun r r' => ∀ a ∈ r.about, ∀ b ∈ r'.about, a.1 < b.1 ∨ a.1 = b.1 ∧ a.2 < b.2) →
       u.trace = l.foldl (fun t r => t.take r) w.s.trace)) ∧
  (∀ (t : Trace) (r : TraceRecord) (p : PointId) (kind : Nat), r.about = some (p, kind) →
     let passesSections : Prop :=
       t.sectionMask = 0 ∨
       match r with
       | .counted e => ∃ n : SectionId, t.sectionMask.getLsbD n.val = true ∧ (e.left = some n ∨ e.entered = some n)
       | .uncounted e => ∃ n : SectionId, t.sectionMask.getLsbD n.val = true ∧ (e.left = some n ∨ e.entered = some n)
       | _ => False
     let passes : Prop := t.pointMask.getLsbD p.val = true ∧ t.kindMask.getLsbD kind = true ∧ passesSections
     (¬passes → t.take r = t) ∧
     (passes → t.drops = 0 → t.buffer.length < 64 → t.take r = { t with buffer := t.buffer ++ [r] }) ∧
     (passes → t.drops = 0 → 64 ≤ t.buffer.length → t.take r = { t with drops := 1 }) ∧
     (passes → 1 ≤ t.drops → t.buffer.length ≤ 62 →
       t.take r = { t with buffer := t.buffer ++ [.gap t.drops, r], drops := 0 }) ∧
     (passes → 1 ≤ t.drops → 63 ≤ t.buffer.length → t.take r = { t with drops := min 65535 (t.drops + 1) }))

/-- SET PORT PARAMETERS (R193, R194, R195, R199): the clamped values replace the old ones at the command. The tokens
are cut to the burst, which is in force before the refill period acts: the model's choice (notes/assumptions/36.md). A
changed refill or image period keeps the start value of the running timer, or takes its expiry at once when the new
length is already reached; a changed link timeout acts by its own cases. While the transmitters are busy, the tokens and
the due image stand as they then are. The mask of the clamped fields and the bytes of the reply are the model's choice
(notes/assumptions/11.md, 15.md and 16.md). -/
def Obligations.SetPortParametersTakesEffectAtOnce : Prop :=
  ∀ (tag burst r1 r0 p1 p0 t1 t0 : Byte) (s : State), s.service.replies.length < 4 → s.device.state.live = true →
    let s' := s.frameTaken .service
    let b := max 1 (min 16 burst.toNat)
    let r := max 5 (min 1000 (word r1 r0))
    let p := max 20 (min 2000 (word p1 p0))
    let t := if word t1 t0 = 0 then 0 else max 100 (min 10000 (word t1 t0))
    let passed (timer : Timer) (length : Nat) : Bool := decide (length ≤ (s.now - timer.start).toNat)
    let retimed (timer : Timer) (length : Nat) : Timer :=
      if passed timer length then ⟨s.now, length⟩ else ⟨timer.start, length⟩
    let paced (q : Port) : Port :=
      let tokens := min q.tokens b
      if r = q.refillPeriod then { q with burst := b, tokens := tokens }
      else { q with
        burst := b, refillPeriod := r, refillTimer := retimed q.refillTimer (100 * r)
        tokens := if passed q.refillTimer (100 * r) ∧ tokens < b then tokens + 1 else tokens }
    let l := s.link
    let imaged : Link :=
      if p = l.imagePeriod then l
      else { l with imagePeriod := p, imageTimer := retimed l.imageTimer (100 * p)
                    imageDue := l.imageDue || passed l.imageTimer (100 * p) }
    let supervised : Link :=
      if t = l.timeout then imaged
      else if t = 0 then { imaged with timeout := 0, timer := none, up := true }
      else if l.timeout = 0 then { imaged with timeout := t, timer := some ⟨s.now, 100 * t⟩ }
      else
        match l.timer with
        | none => { imaged with timeout := t }
        | some timer =>
          if passed timer (100 * t) then { imaged with timeout := t, timer := none, up := false }
          else { imaged with timeout := t, timer := some ⟨timer.start, 100 * t⟩ }
    let cut := (if b = burst.toNat then 0 else 1) + (if r = word r1 r0 then 0 else 2)
    (∃ u, exec (.setPortParameters .service tag [0, burst, r1, r0, p1, p0, t1, t0]) s = .next u ∧
      Runs .service 0x10 tag (.accepted ([byte b] ++ bytes2 r ++ bytes2 p ++ bytes2 t ++
          [byte (cut + (if p = word p1 p0 then 0 else 4) + (if t = word t1 t0 then 0 else 8))])) s'
        { s' with control := paced s.control, link := supervised } u ∧
      (s.control.sending ≠ none → u.control.tokens = (paced s.control).tokens ∧ u.link.imageDue = supervised.imageDue)) ∧
    (∃ u, exec (.setPortParameters .service tag [1, burst, r1, r0, p1, p0, t1, t0]) s = .next u ∧
      Runs .service 0x10 tag (.accepted ([byte b] ++ bytes2 r ++ [0xFF, 0xFF, 0xFF, 0xFF, byte cut])) s'
        (s'.onPort .service paced) u ∧
      (s.service.sending ≠ none → u.service.tokens = (paced s.service).tokens))

/-! ## Section commands -/

/-- RESTORE SECTION with all eight checks passed (R112, R117, R118, R119, R120): the counter rises by one, the count and the
tallies are 0, the holdoff runs, and the section is RESTORING by SWEEP, or CLEARING (with a clear delay of 0, CLEAR or
held) by DIRECT. The reply carries the state's code alone, with no proof-hold flag: the model's choice
(notes/assumptions/32.md). -/
def Obligations.RestoreSectionTrustsTheCountAgain : Prop :=
  ∀ (tag hi lo : Byte) (n : SectionId) (s : State), s.control.replies.length < 4 → s.device.state = .running →
    let r := s.sec n
    r.state = .disturbed → hi ++ lo = r.rc → r.holdoffTimer = none →
    (∀ p ∈ members s n, counting s p = true ∧ (s.point p).machine = .idle) →
    let s' := s.frameTaken .control
    let trusted : SectionRecord := { r with
      rc := r.rc + 1, count := 0, entries := 0, exits := 0, cause := none, sweep := false, hold := false
      lastRestore := some s.now, lastChange := s.now
      holdoffTimer := if r.holdoff = 0 then none else some ⟨s.now, 100000 * r.holdoff⟩ }
    let data (kind : Byte) (st : SectionState) : List Byte :=
      [BitVec.ofNat 8 n.val, kind] ++ bytes2 (r.rc + 1).toNat ++ [BitVec.ofNat 8 st.code]
    let restored (kind : Byte) (r' : SectionRecord) (d : Drive) : Prop :=
      ∃ u, exec (.restoreSection .control tag [BitVec.ofNat 8 n.val, kind, hi, lo]) s = .next u ∧
        Runs .control 0x01 tag (.accepted (data kind r'.state)) s' (s'.setSection n r' d) u
    let drive := s.outputs.clr.get n
    restored 0 { trusted with state := .restoring, clearTimer := none } drive ∧
    (r.directPermitted = true →
      (r.clearDelay ≠ 0 →
        restored 1 { trusted with state := .clearing, clearTimer := some ⟨s.now, 10000 * r.clearDelay⟩ } drive) ∧
      (r.clearDelay = 0 → anyOverdue s n = true →
        restored 1 { trusted with state := .clearing, clearTimer := none, hold := true } drive) ∧
      (r.clearDelay = 0 → anyOverdue s n = false →
        restored 1 { trusted with state := .clear, clearTimer := none } .armed))

/-- RESTORE SECTION refused by the first check that fails, in the order of the checks (R113, R115), with nothing
changed. The cause byte of SECTION_STATE is the model's choice (notes/assumptions/15.md). -/
def Obligations.RestoreSectionIsRefusedByItsFirstFailingCheck : Prop :=
  ∀ (tag sec kind hi lo : Byte) (s : State), s.control.replies.length < 4 →
    let s' := s.frameTaken .control
    let refused (code : RefusalCode) (data : List Byte) : Prop :=
      ∃ u, exec (.restoreSection .control tag [sec, kind, hi, lo]) s = .next u ∧
        Runs .control 0x01 tag (.refused code data) s' s' u
    (s.device.state ≠ .running → refused .wrongDeviceState []) ∧
    (s.device.state = .running → (12 ≤ sec.toNat ∨ 2 ≤ kind.toNat) → refused .badArgument []) ∧
    (s.device.state = .running → kind.toNat < 2 → ∀ n : SectionId, sec = BitVec.ofNat 8 n.val →
      let r := s.sec n
      (r.state ≠ .disturbed →
        refused .sectionState [BitVec.ofNat 8 r.state.code, byteOr (r.cause.map Cause.code)]) ∧
      (r.state = .disturbed → hi ++ lo ≠ r.rc → refused .stale (bytes2 r.rc.toNat)) ∧
      (r.state = .disturbed → hi ++ lo = r.rc → ∀ t, r.holdoffTimer = some t →
        refused .holdoff (bytes4 (t.start + BitVec.ofNat 32 t.length))) ∧
      (r.state = .disturbed → hi ++ lo = r.rc → r.holdoffTimer = none →
        (∀ p ∈ members s n, counting s p = false → (∀ q ∈ members s n, q < p → counting s q = true) →
          refused .pointNotReady [BitVec.ofNat 8 p.val,
            if (s.point p).mode ≠ .counting then 1 else if (s.point p).health = .fault then 2 else 3]) ∧
        ((∀ p ∈ members s n, counting s p = true) →
          (∀ p ∈ members s n, (s.point p).machine ≠ .idle →
            (∀ q ∈ members s n, q < p → (s.point q).machine = .idle) →
            refused .pointActive [BitVec.ofNat 8 p.val]) ∧
          ((∀ p ∈ members s n, (s.point p).machine = .idle) → kind = 1 → r.directPermitted = false →
            refused .directNotPermitted []))))

/-- CANCEL RESTORE of a RESTORING section, and DISTURB SECTION of a used one (R125, R126): DISTURBED with the command's
cause, count held, and the change is reported; a section that is DISTURBED already keeps its record and its cause. Then the refusals: an index
above 11, CANCEL RESTORE of a section that is not RESTORING, or on the service port, DISTURB SECTION of an UNUSED one.
The cause byte of SECTION_STATE and the last byte of the DISTURB SECTION reply are the model's choice
(notes/assumptions/15.md). -/
def Obligations.CancelAndDisturbEndTheTrustInACount : Prop :=
  ∀ (i : PortId) (tag : Byte) (n : SectionId) (s : State), (s.port i).replies.length < 4 →
    let r := s.sec n
    let s' := s.frameTaken i
    let disturbed (c : Cause) : SectionRecord := { r with
      state := .disturbed, cause := some c, clearTimer := none, hold := false, sweep := false, lastChange := s.now }
    let drive := s.outputs.clr.get n
    let data : List Byte := BitVec.ofNat 8 n.val :: (bytes2 r.rc.toNat ++ bytes2 r.count)
    (i = .control → r.state = .restoring →
      ∃ u, exec (.cancelRestore i tag [BitVec.ofNat 8 n.val]) s = .next u ∧ Reports [.sec n] s u ∧
        Runs i 0x02 tag (.accepted data) s' (s'.setSection n (disturbed .restoreCancelled) drive) u) ∧
    (r.state.trusted = true →
      ∃ u, exec (.disturbSection i tag [BitVec.ofNat 8 n.val]) s = .next u ∧ Reports [.sec n] s u ∧
        Runs i 0x07 tag (.accepted (data ++ [9, 1])) s'
          (s'.setSection n (disturbed .hostRequest) (if r.state = .clear then .low else drive)) u) ∧
    (r.state = .disturbed →
      ∃ u, exec (.disturbSection i tag [BitVec.ofNat 8 n.val]) s = .next u ∧
        Runs i 0x07 tag (.accepted (data ++ [byteOr (r.cause.map Cause.code), 0])) s' s' u) ∧
    (r.state = .unused →
      ∃ u, exec (.disturbSection i tag [BitVec.ofNat 8 n.val]) s = .next u ∧
        Runs i 0x07 tag (.refused .sectionState [0, byteOr (r.cause.map Cause.code)]) s' s' u) ∧
    (i = .control → r.state ≠ .restoring →
      ∃ u, exec (.cancelRestore i tag [BitVec.ofNat 8 n.val]) s = .next u ∧
        Runs i 0x02 tag (.refused .sectionState [BitVec.ofNat 8 r.state.code, byteOr (r.cause.map Cause.code)]) s' s' u) ∧
    (∀ sec : Byte, i = .service → ∃ u, exec (.cancelRestore i tag [sec]) s = .next u ∧
      Runs i 0x02 tag (.refused .notPermittedOnPort []) s' s' u) ∧
    (∀ sec : Byte, 12 ≤ sec.toNat →
      (i = .control → ∃ u, exec (.cancelRestore i tag [sec]) s = .next u ∧
        Runs i 0x02 tag (.refused .badArgument []) s' s' u) ∧
      ∃ u, exec (.disturbSection i tag [sec]) s = .next u ∧ Runs i 0x07 tag (.refused .badArgument []) s' s' u)

/-- SET SECTION PARAMETERS (R86, R87, R112): clear delay and holdoff are clamped and replaced; running timers keep
their start value and take the new lengths. A clear-delay timer already past its new length takes its expiry at once.
Direct-restore permitted is replaced in CONFIGURING alone. The mask of the clamped fields and the bytes of the reply
are the model's choice (notes/assumptions/11.md and 15.md). -/
def Obligations.SetSectionParametersRetimesTheSection : Prop :=
  ∀ (tag delay holdoff direct : Byte) (n : SectionId) (s : State), s.service.replies.length < 4 →
    s.device.state.live = true →
    let r := s.sec n
    let s' := s.frameTaken .service
    let d := min 100 delay.toNat
    let h := min 60 holdoff.toNat
    let clamped : Byte := BitVec.ofNat 8 ((if d = delay.toNat then 0 else 1) + (if h = holdoff.toNat then 0 else 2))
    let set (permitted : Bool) : SectionRecord := { r with
      clearDelay := d, holdoff := h, directPermitted := permitted
      holdoffTimer := r.holdoffTimer.bind (fun t =>
        if 100000 * h ≤ (s.now - t.start).toNat then none else some ⟨t.start, 100000 * h⟩) }
    let drive := s.outputs.clr.get n
    let sends (rest : List Byte) (permitted : Bool) (r' : SectionRecord) (d' : Drive) : Prop :=
      ∃ u, exec (.setSectionParameters .service tag (BitVec.ofNat 8 n.val :: delay :: holdoff :: rest)) s = .next u ∧
        Runs .service 0x0D tag (.accepted [byte d, byte h, flagByte permitted, clamped]) s' (s'.setSection n r' d') u
    (r.clearTimer = none →
      sends [] r.directPermitted (set r.directPermitted) drive ∧
      (s.device.state = .configuring → sends [direct] (direct != 0) (set (direct != 0)) drive)) ∧
    (∀ t, r.clearTimer = some t → (s.now - t.start).toNat < 10000 * d →
      sends [] r.directPermitted { set r.directPermitted with clearTimer := some ⟨t.start, 10000 * d⟩ } drive) ∧
    (∀ t, r.clearTimer = some t → r.state = .clearing → 10000 * d ≤ (s.now - t.start).toNat →
      sends [] r.directPermitted
        (if anyOverdue s n then { set r.directPermitted with clearTimer := none, hold := true }
         else { set r.directPermitted with state := .clear, clearTimer := none, hold := false, lastChange := s.now })
        (if anyOverdue s n then drive else .armed)) ∧
    (s.device.state ≠ .configuring →
      ∃ u, exec (.setSectionParameters .service tag [BitVec.ofNat 8 n.val, delay, holdoff, direct]) s = .next u ∧
        Runs .service 0x0D tag (.refused .wrongDeviceState []) s' s' u)

/-! ## Topology and point commands -/

/-- SET TOPOLOGY in CONFIGURING with a list of 1 to 16 entries that names no point twice (R76, R77, R78): the entries are
replaced; a section that gains its first member is DISTURBED with cause POWER_UP, one that loses its last is UNUSED,
and the others stay; the reply names both sets. -/
def Obligations.SetTopologyReplacesTheEntries : Prop :=
  ∀ (tag : Byte) (l : List TopologyItem) (s : State), s.service.replies.length < 4 → s.device.state = .configuring →
    1 ≤ l.length → l.length ≤ 16 → (l.map TopologyItem.point).Nodup →
    let s' := s.frameTaken .service
    let table := withEntries s.topology l
    ∃ expected u, exec (.setTopology .service tag (topologyBody l)) s = .next u ∧
      Runs .service 0x09 tag (.accepted (usedOnly s.topology table ++ usedOnly table s.topology)) s' expected u ∧
      expected = { s' with topology := table, sections := expected.sections
                           outputs := { s.outputs with clr := expected.outputs.clr } } ∧
      ∀ n,
        (membersIn table n ≠ [] → (s.sec n).state = .unused →
          expected.sec n = { s.sec n with
            state := .disturbed, cause := some .powerUp, count := 0, sweep := false, hold := false
            clearTimer := none, lastChange := s.now }) ∧
        (membersIn table n = [] → (s.sec n).state ≠ .unused →
          expected.sec n = { s.sec n with
            state := .unused, cause := none, count := 0, sweep := false, hold := false, clearTimer := none
            lastChange := s.now }) ∧
        ((membersIn table n = [] ↔ (s.sec n).state = .unused) → expected.sec n = s.sec n)

/-- SET POINT MODE (R131 to R136): in CONFIGURING the start mode alone is replaced; in STARTING and RUNNING the mode
changes by the rows of the table, with a stopped-counting notice where the point was counting, and the refusals of a
request for COUNTING. The reply carries why the point is not counting, 0 when it is (R202). The data bytes of NOT_PROVEN
are the model's choice (notes/assumptions/15.md). -/
def Obligations.SetPointModeFollowsItsTable : Prop :=
  ∀ (tag : Byte) (p : PointId) (m : Mode) (s : State), s.service.replies.length < 4 →
    let s' := s.frameTaken .service
    let pt := s.point p
    let index : Byte := BitVec.ofNat 8 p.val
    let command : Instr := .setPointMode .service tag [index, BitVec.ofNat 8 m.code]
    let answers (result : CommandResult) (expected : State) : Prop :=
      ∃ u, exec command s = .next u ∧ Runs .service 0x0A tag result s' expected u
    let accepted (because : Byte) : CommandResult := .accepted [index, BitVec.ofNat 8 m.code, because]
    let moved := s'.setPoint p { pt with mode := m }
    let notified := if counting s p then moved.sendDisturbance p .pointWithdrawn else moved
    let proof (x : Sys) : List Byte := [flagByte (eligible s p), flagByte (pt.proof x).proven]
    (s.device.state = .configuring →
      answers (.accepted [index, BitVec.ofNat 8 m.code, BitVec.ofNat 8 pt.mode.code])
        (s'.setPoint p { pt with startMode := m })) ∧
    ((s.device.state = .starting ∨ s.device.state = .running) →
      (pt.mode = m →
        answers (accepted (if m ≠ .counting then 1 else if pt.health = .fault then 2 else if lit s p = false then 3
          else if s.device.state ≠ .running then 4 else 0)) s') ∧
      (pt.mode = .counting → m = .supervising → answers (accepted 1) notified.settled) ∧
      (pt.mode ≠ .outOfUse → m = .outOfUse → answers (accepted 1) (notified.darken .pointWithdrawn p).settled) ∧
      (pt.mode = .outOfUse → m = .supervising →
        answers (accepted 1) (if lit s p then moved.light p else moved).settled) ∧
      (pt.mode = .outOfUse → m = .counting → answers (.refused .notProven (proof .a ++ proof .b)) s') ∧
      (pt.mode = .supervising → m = .counting →
        (pt.health = .fault → answers (.refused .pointFault [byteOr (pt.faultCause.map FaultCause.code)]) s') ∧
        (pt.health ≠ .fault → (lit s p = false ∨ pt.proofA.proven = false ∨ pt.proofB.proven = false) →
          answers (.refused .notProven (proof .a ++ proof .b)) s') ∧
        (pt.health ≠ .fault → lit s p = true → pt.proofA.proven = true → pt.proofB.proven = true →
          (pt.machine ≠ .idle → answers (.refused .pointActive [BitVec.ofNat 8 pt.machine.code]) s') ∧
          (pt.machine = .idle → answers (accepted (if s.device.state = .running then 0 else 4)) moved))))

/-- SET POINT PARAMETERS (R140, R141): the clamped pair is applied at once to a point that is IDLE with no system under
proof, and is staged otherwise. The command is refused outside the three live device states, for a point index above
15, and on the control port. The mask of the clamped fields and the byte of the disposition are the
model's choice (notes/assumptions/11.md and 15.md). -/
def Obligations.SetPointParametersAppliesOrStages : Prop :=
  ∀ (tag hi lo filter : Byte) (p : PointId) (s : State),
    let s' := s.frameTaken .service
    let q : PointParams := ⟨max 80 (min 250 (word hi lo)), max 5 (min 250 filter.toNat)⟩
    let clamped : Byte :=
      BitVec.ofNat 8 ((if q.spacing = word hi lo then 0 else 1) + (if q.filter = filter.toNat then 0 else 2))
    let data (disposition : Byte) : List Byte :=
      [BitVec.ofNat 8 p.val] ++ bytes2 q.spacing ++ [byte q.filter, clamped, disposition]
    let answers (i : PortId) (point : Byte) (result : CommandResult) (expected : State) : Prop :=
      ∃ u, exec (.setPointParameters i tag [point, hi, lo, filter]) s = .next u ∧
        Runs i 0x0B tag result (s.frameTaken i) expected u
    (s.service.replies.length < 4 → s.device.state.live = true →
      ((s.point p).machine = .idle → underProof s p .a = false → underProof s p .b = false →
        answers .service (BitVec.ofNat 8 p.val) (.accepted (data 0))
          (s'.setPoint p { s.point p with params := q, staged := none }).settled) ∧
      ((s.point p).machine ≠ .idle ∨ underProof s p .a = true ∨ underProof s p .b = true →
        answers .service (BitVec.ofNat 8 p.val) (.accepted (data 1))
          (s'.setPoint p { s.point p with staged := some q })) ∧
      ∀ point : Byte, 16 ≤ point.toNat → answers .service point (.refused .badArgument []) s') ∧
    (∀ point : Byte,
      (s.service.replies.length < 4 → s.device.state.live = false →
        answers .service point (.refused .wrongDeviceState []) s') ∧
      (s.control.replies.length < 4 →
        answers .control point (.refused .notPermittedOnPort []) (s.frameTaken .control)))

/-- CLEAR POINT FAULT of a point in FAULT (R45, R139): level 0, health OK, cause and time absent, failure counts 0, mode
SUPERVISING. At a lit point that was in use, with its epochs ended and its systems out of the queue and the channel,
new epochs begin and both systems join the queue. A dark point waits for its group. -/
def Obligations.ClearPointFaultBringsThePointBack : Prop :=
  ∀ (tag : Byte) (p : PointId) (s : State), s.service.replies.length < 4 → s.device.state.live = true →
    (s.point p).health = .fault →
    let s' := s.frameTaken .service
    let cleared : Point := { s.point p with
      level := 0, health := .ok, faultCause := none, faultTime := none, mode := .supervising
      proofA := { (s.point p).proofA with failures := 0 }, proofB := { (s.point p).proofB with failures := 0 } }
    let begun (st : ProofStatus) : ProofStatus := { st with
      proven := false, lastPass := none, due := true, overdue := true, dueTimer := none, overdueTimer := none
      failures := 0 }
    let answers (expected : State) : Prop :=
      ∃ u, exec (.clearPointFault .service tag [BitVec.ofNat 8 p.val]) s = .next u ∧
        Runs .service 0x0C tag (.accepted [BitVec.ofNat 8 p.val, 1, 0]) s' expected.settled u
    (lit s p = false → answers (s'.setPoint p cleared)) ∧
    (lit s p = true → (s.point p).mode = .outOfUse → answers ((s'.setPoint p cleared).light p)) ∧
    (lit s p = true → (s.point p).mode ≠ .outOfUse → (∀ x, ((s.point p).proof x).overdue = true) →
      (∀ x, ⟨p, x⟩ ∉ s.queue ∧ underProof s p x = false) →
      answers { s'.setPoint p { cleared with proofA := begun cleared.proofA, proofB := begun cleared.proofB } with
        queue := s.queue ++ [⟨p, .a⟩, ⟨p, .b⟩] })

/-! ## The device and its image -/

/-- IMAGE_LOAD_COMPLETE in LOADING (R164, R165, R166). With no image, or a damaged one, the device is CONFIGURING with the
load result and nothing is applied. A whole image of a configuration in range is in force
afterwards, not adjusted; the device is CONFIGURING, or, with autostart, STARTING when the start checks pass. -/
def Obligations.TheImageLoadEndsLoading : Prop :=
  ∀ (s : State), s.device.state = .loading →
    let ended (r : LoadResult) : State := { s with device := { s.device with
      state := .configuring, loadResult := some r, loadAdjusted := false, autostart := some .notRequested } }
    let ends (m : MemoryRead) (r : LoadResult) : Prop :=
      ∃ u, exec (.imageLoadComplete m) s = .next u ∧ Leaves (ended r).settled u
    ends .noAcknowledge .none ∧
    (∀ s0 s1 rest, ¬(s0 = 0x5E ∧ s1 = 0x91) → ends (.bytes (s0 :: s1 :: rest)) .none) ∧
    (∀ format hi lo tail, (word hi lo < 2 ∨ 1019 < word hi lo ∨ tail.length < word hi lo) →
      ends (.bytes (0x5E :: 0x91 :: format :: hi :: lo :: tail)) .corrupt) ∧
    (∀ format hi lo body c1 c0 rest, 2 ≤ word hi lo → word hi lo ≤ 1019 → body.length = word hi lo - 2 →
      ([c1, c0] ≠ crcBytes (format :: hi :: lo :: body) ∨ format ≠ 1 ∨ body.length ≠ 165) →
      ends (.bytes (0x5E :: 0x91 :: format :: hi :: lo :: body ++ c1 :: c0 :: rest)) .corrupt) ∧
    (∀ (c : Configuration) (rest : List Byte), c.clamped = c → c.autostart = false →
      (∀ p, (s.point p).staged = none) → s.sequencer.activity = .none →
      ∃ u, exec (.imageLoadComplete (.bytes (c.image ++ rest))) s = .next u ∧
        Configuration.ofState u false = c ∧
        u.device = { s.device with
          state := .configuring, loadResult := some .loaded, loadAdjusted := false, autostart := some .notRequested }) ∧
    (∀ (c : Configuration) (rest : List Byte), c.clamped = c → c.autostart = true → c.supplies.delay01 ≠ 0 →
      (∀ p, (s.point p).staged = none) →
      ∃ u, exec (.imageLoadComplete (.bytes (c.image ++ rest))) s = .next u ∧
        Configuration.ofState u true = c ∧ u.device.loadResult = some .loaded ∧
        (startFault u = none → u.device.state = .starting ∧ u.device.autostart = some .started) ∧
        ∀ item, startFault u = some item →
          s.sequencer.activity = .none →
          u.device.state = .configuring ∧ u.device.autostart = some (.refused item))

/-- What STORE IMAGE writes, LOADING reads back (R164, R173, R204): the image of a configuration in range passes every
check, whatever bytes follow it, and its body gives the configuration with nothing clamped or replaced. -/
def Obligations.AStoredImageLoadsBack : Prop :=
  ∀ (c : Configuration) (rest : List Byte), c.clamped = c →
    c.image.length = 172 ∧ loadCheck (.bytes (c.image ++ rest)) = (.loaded, c.body) ∧
    Configuration.ofBody c.body = (c, false)

/-- STORE IMAGE, its checks passed (R173), and the course of the store (R174): the image of the configuration as it stands
is written from address 5 upward, body and CRC, in writes acknowledged one by one, and the header last, in one write.
The store ends DONE when the header write is acknowledged and FAILED when a write is not, also by the 20 ms timer of its
acknowledgement; either end is reported. An expiry of that timer whose write has been acknowledged before it is taken
leaves the store as it is. Sizes and sending times are free values (notes/assumptions/12.md). An event of
the memory that does not fit the write outstanding changes nothing: the model's choice (notes/assumptions/7.md). -/
def Obligations.StoreImageRunsToItsResult : Prop :=
  ∀ (tag : Byte) (auto : Bool) (s : State),
    let d := s.device
    let begun (t : State) (image : List Byte) (write : StoreWrite) (time : Nat) : State :=
      { t with choices := s.choices + 1
               device := { d with store := some { image := image, write := write, timer := ⟨s.now, time + 2000⟩ } } }
    (s.service.replies.length < 4 → d.state = .configuring ∨ d.state = .running → d.store = none →
      let s' := s.frameTaken .service
      ∃ size time u, 1 ≤ size ∧ size ≤ 167 ∧ exec (.storeImage .service tag [if auto then 1 else 0]) s = .next u ∧
        Reports [.device] s u ∧
        Runs .service 0x14 tag (.accepted []) s'
          (begun s' (Configuration.ofState s auto).image (.body 5 size) time) u) ∧
    (∀ (image : List Byte) (address size : Nat) (timer : Timer), d.store = some ⟨image, .body address size, timer⟩ →
      StoreProgress.sent ⟨image, .body address size, timer⟩ = (address, (image.drop address).take size) ∧
      (address + size < image.length → ∃ size' time u, 1 ≤ size' ∧ address + size + size' ≤ image.length ∧
        exec .storeWriteAck s = .next u ∧ Leaves (begun s image (.body (address + size) size') time) u) ∧
      (image.length ≤ address + size → ∃ time u,
        exec .storeWriteAck s = .next u ∧ Leaves (begun s image .header time) u) ∧
      exec .storeDone s = .next s) ∧
    (∀ (image : List Byte) (timer : Timer), d.store = some ⟨image, .header, timer⟩ →
      StoreProgress.sent ⟨image, .header, timer⟩ = (0, image.take 5) ∧
      (∃ u, exec .storeDone s = .next u ∧ Reports [.device] s u ∧
        Leaves { s with device := { d with store := none, lastStore := some .done } } u) ∧
      exec .storeWriteAck s = .next s) ∧
    (∀ store, d.store = some store →
      (store.timer.reached s.now = true → [.storeFailed] ∈ expiries s) ∧
      (s.writeLapsed = false ∨ store.timer.reached s.now = true →
        ∃ u, exec .storeFailed s = .next u ∧ Reports [.device] s u ∧
          Leaves { s with device := { d with store := none, lastStore := some .failed }, writeLapsed := false } u) ∧
      (s.writeLapsed = true → store.timer.reached s.now = false →
        exec .storeFailed s = .next { s with writeLapsed := false })) ∧
    (d.store = none →
      exec .storeWriteAck s = .next s ∧ exec .storeDone s = .next s ∧
      exec .storeFailed s = .next { s with writeLapsed := false })

/-- SET DEVICE PARAMETERS of one item (R38, R39, R44, R52, R171, R172): the value is clamped and in force at once. A
new leak interval or proof interval acts on the running timers, which keep their start values; a threshold brings the
pair into order and evaluates every point once, in ascending order, a level at or above the new fault threshold taking
its point into FAULT; any other parameter changes alone. The ascending order, the mask of the clamped fields and the
sizes of the values in the reply are the model's choice (notes/assumptions/37.md, 11.md and 15.md). -/
def Obligations.SetDeviceParametersTakesEffectAtOnce : Prop :=
  ∀ (tag hi lo : Byte) (c : ParamCode) (k : Nat) (s : State), s.service.replies.length < 4 →
    s.device.state.live = true → s.params.Ok → allParams[k]? = some c →
    let s' := s.frameTaken .service
    let v := max c.range.lo (min c.range.hi (word hi lo))
    let carried := s.params.put c v
    let d : DeviceParams :=
      if carried.fault ≤ carried.warnOn then { carried with warnOn := carried.fault - 1 } else carried
    let mask : Nat :=
      (if v = word hi lo then 0 else 2 ^ k) ||| (if carried.fault ≤ carried.warnOn then 256 else 0)
    let answers (expected : State) : Prop :=
      ∃ u, exec (.setDeviceParameters .service tag [BitVec.ofNat 8 k, hi, lo]) s = .next u ∧
        Runs .service 0x0E tag (.accepted (d.bytes ++ bytes2 mask)) s' expected.settled u
    (c ≠ .leakInterval → c ≠ .interval → c ≠ .warnOn → c ≠ .fault → answers { s' with params := d }) ∧
    (c = .leakInterval → v = s.params.leakInterval → answers { s' with params := d }) ∧
    (c = .leakInterval → v ≠ s.params.leakInterval → (s.now - s.leakTimer.start).toNat < 100000 * v →
      answers { s' with params := d, leakTimer := ⟨s.leakTimer.start, 100000 * v⟩ }) ∧
    (c = .leakInterval → v ≠ s.params.leakInterval → 100000 * v ≤ (s.now - s.leakTimer.start).toNat →
      (∀ p, (s.point p).health = .fault ∨ (s.point p).level - 1 < d.fault) →
      answers { s' with
        params := d
        leakTimer := ⟨s.now, 100000 * v⟩
        points := s.points.map (fun pt =>
          if 0 < pt.level then { pt with level := pt.level - 1, health := nextHealth d pt.health (pt.level - 1) }
          else pt) }) ∧
    (c = .interval → v = s.params.interval → answers { s' with params := d }) ∧
    (c = .interval → v ≠ s.params.interval →
      (∀ p x, (∀ t, ((s.point p).proof x).dueTimer = some t → (s.now - t.start).toNat < 100000 * v) ∧
        ∀ t, ((s.point p).proof x).overdueTimer = some t → (s.now - t.start).toNat < 2 * (100000 * v)) →
      let retimed (st : ProofStatus) : ProofStatus := { st with
        dueTimer := st.dueTimer.map (fun t => ⟨t.start, 100000 * v⟩)
        overdueTimer := st.overdueTimer.map (fun t => ⟨t.start, 2 * (100000 * v)⟩) }
      answers { s' with
        params := d
        points := s.points.map (fun pt => { pt with proofA := retimed pt.proofA, proofB := retimed pt.proofB }) }) ∧
    (c = .warnOn ∨ c = .fault → (∀ p, (s.point p).health = .fault ∨ (s.point p).level < d.fault) →
      answers { s' with
        params := d
        points := s.points.map (fun pt => { pt with health := nextHealth d pt.health pt.level }) }) ∧
    (c = .warnOn ∨ c = .fault →
      answers ((List.finRange 16).foldl (fun (v : State) (p : PointId) =>
        if (v.point p).health ≠ .fault ∧ d.fault ≤ (v.point p).level then v.fault p .level
        else v.setPoint p { v.point p with health := nextHealth d (v.point p).health (v.point p).level })
        { s' with params := d }))

/-- START, its checks passed, the delay to the second turn above 0 (R138, R152, R167, R168): the device is STARTING, every
mode is the start mode, and the power-on sequence has given group 0 its turn. START whose start checks fail is
refused with the first failing item. Then the start checks (R79, R167), each in ascending index order: a point with
one section on both sides, a section of more than four members, a point that starts in use with no section, and one
whose filter length less one reaches the response window. -/
def Obligations.StartBeginsThePowerOnSequence : Prop :=
  (∀ (tag : Byte) (s : State), s.service.replies.length < 4 → s.device.state = .configuring →
    s.sequencer.activity = .none →
    let s' := s.frameTaken .service
    (startFault s = none → s.sequencer.params.delay01 ≠ 0 →
      ∃ u, exec (.start .service tag []) s = .next u ∧ Replies .service ⟨0x12, tag, .accepted [2]⟩ s' u ∧
        u.device = { s.device with state := .starting } ∧ (∀ p, (u.point p).mode = (s.point p).startMode) ∧
        u.sequencer = { s.sequencer with
          activity := .powerOn, nextTurn := some 1, turnTimer := some ⟨s.now, 100 * s.sequencer.params.delay01⟩ } ∧
        ((s.group 0).state = .off → (s.group 0).good = false →
          u.group 0 = { s.group 0 with
            state := .enabling, timer := some ⟨s.now, 10000⟩, failReason := none, forced := none
            lastChange := s.now }) ∧
        ∀ g, g ≠ 0 → u.group g = s.group g) ∧
    (∀ item, startFault s = some item →
      ∃ u, exec (.start .service tag []) s = .next u ∧
        Runs .service 0x12 tag (.refused .configInvalid [byte item.code, byte item.index]) s' s' u)) ∧
  (∀ s : State,
    let sameSides (p : PointId) : Prop := (s.entry p).up ≠ none ∧ (s.entry p).up = (s.entry p).down
    let crowded (n : SectionId) : Prop := 4 < (members s n).length
    let unbound (p : PointId) : Prop :=
      (s.point p).startMode ≠ .outOfUse ∧ (s.entry p).up = none ∧ (s.entry p).down = none
    let slow (p : PointId) : Prop :=
      (s.point p).startMode ≠ .outOfUse ∧ 10 * s.params.response ≤ (s.point p).params.filter - 1
    (∀ p, sameSides p → (∀ q, q < p → ¬sameSides q) → startFault s = some (.sameSides p)) ∧
    ((∀ p, ¬sameSides p) →
      (∀ n, crowded n → (∀ m, m < n → ¬crowded m) → startFault s = some (.members n)) ∧
      ((∀ n, ¬crowded n) →
        (∀ p, unbound p → (∀ q, q < p → ¬unbound q) → startFault s = some (.unbound p)) ∧
        ((∀ p, ¬unbound p) →
          (∀ p, slow p → (∀ q, q < p → ¬slow q) → startFault s = some (.filterWindow p)) ∧
          ((∀ p, ¬slow p) → startFault s = none)))))

/-- HALT in RUNNING with no activity, the delay to the second turn above 0 (R105, R154, R170): every trusted section is
DISTURBED with cause DEVICE_HALT and its count held, the others stay, RUN is low, and the power-off sequence has given
group 3 its turn. -/
def Obligations.HaltDisturbsEverySection : Prop :=
  ∀ (tag : Byte) (s : State), s.service.replies.length < 4 → s.device.state = .running →
    s.sequencer.activity = .none → s.sequencer.params.delay23 ≠ 0 →
    let s' := s.frameTaken .service
    ∃ u, exec (.halt .service tag []) s = .next u ∧ Replies .service ⟨0x13, tag, .accepted [4]⟩ s' u ∧
      u.device = { s.device with state := .halting } ∧ u.outputs.run = .low ∧ u.outputs.runHigh = false ∧
      (∀ n, ((s.sec n).state.trusted = true →
          u.sec n = { s.sec n with state := .disturbed, cause := some .deviceHalt, clearTimer := none, hold := false
                                   sweep := false, lastChange := s.now }) ∧
        ((s.sec n).state.trusted = false → u.sec n = s.sec n)) ∧
      u.sequencer = { s.sequencer with
        activity := .powerOff, nextTurn := some 2, turnTimer := some ⟨s.now, 100 * s.sequencer.params.delay23⟩ } ∧
      ((s.group 3).state = .ready ∨ (s.group 3).state = .enabling ∨ (s.group 3).state = .settling →
        u.group 3 = { s.group 3 with
          state := .disabling, timer := some ⟨s.now, 10000⟩, failReason := none, forced := none
          lastChange := s.now }) ∧
      ∀ g, g ≠ 3 → u.group g = s.group g
end

