-- ==== Sys2Proof/Laws/State.lean ====
section
/-! SUPPORT. Laws/State.lean: tables, and one lemma per field for each update of the state, so that no proof unfolds a
record update. -/

namespace Sys2Proof

namespace Table

variable {n : Nat} {α β : Type}

theorem ext_items {t u : Table n α} (h : t.items = u.items) : t = u := by
  cases t; cases u; cases h; rfl

@[simp] theorem get_set_self (t : Table n α) (i : Fin n) (a : α) : (t.set i a).get i = a := by
  simp [get, set]

@[simp] theorem get_set_ne (t : Table n α) {i j : Fin n} (a : α) (h : j ≠ i) : (t.set i a).get j = t.get j := by
  have : i.val ≠ j.val := fun e => h (Fin.ext e.symm)
  simp [get, set, List.getElem_set_ne this]

theorem get_set (t : Table n α) (i j : Fin n) (a : α) :
    (t.set i a).get j = if j = i then a else t.get j := by
  by_cases h : j = i
  · subst h; simp
  · simp [h]

@[simp] theorem set_get_self (t : Table n α) (i : Fin n) : t.set i (t.get i) = t :=
  ext_items (by simp [set, get])

@[simp] theorem set_set (t : Table n α) (i : Fin n) (a b : α) : (t.set i a).set i b = t.set i b :=
  ext_items (by simp [set])

@[simp] theorem get_map (f : α → β) (t : Table n α) (i : Fin n) : (t.map f).get i = f (t.get i) := by
  simp [get, map]

@[simp] theorem get_replicate (a : α) (i : Fin n) : (replicate n a).get i = a := by
  simp [get, replicate]

@[simp] theorem get_ofFn (f : Fin n → α) (i : Fin n) : (ofFn f).get i = f i := by
  simp [get, ofFn]

/-- Two tables with the same records are the same table. -/
theorem ext_get {t u : Table n α} (h : ∀ i, t.get i = u.get i) : t = u := by
  apply ext_items
  apply List.ext_getElem (by rw [t.size, u.size])
  intro k hk hk'
  have hn : k < n := by rw [← t.size]; exact hk
  have := h ⟨k, hn⟩
  simpa [get] using this

end Table

namespace Machine

/-! ## Ports -/

@[simp] theorem State.onPort_port (i : PortId) (f : Port → Port) (s : State) : (s.onPort i f).port i = f (s.port i) := by
  cases i <;> rfl

@[simp] theorem State.onPort_port_ne {i j : PortId} (f : Port → Port) (s : State) (h : j ≠ i) :
    (s.onPort i f).port j = s.port j := by
  cases i <;> cases j <;> first | rfl | exact absurd rfl h

@[simp] theorem State.onPort_now (i : PortId) (f : Port → Port) (s : State) : (s.onPort i f).now = s.now := by
  cases i <;> rfl
@[simp] theorem State.onPort_sampleDue (i : PortId) (f : Port → Port) (s : State) :
    (s.onPort i f).sampleDue = s.sampleDue := by cases i <;> rfl
@[simp] theorem State.onPort_points (i : PortId) (f : Port → Port) (s : State) : (s.onPort i f).points = s.points := by
  cases i <;> rfl
@[simp] theorem State.onPort_topology (i : PortId) (f : Port → Port) (s : State) :
    (s.onPort i f).topology = s.topology := by cases i <;> rfl
@[simp] theorem State.onPort_view (i : PortId) (f : Port → Port) (s : State) : (s.onPort i f).view = s.view := by
  cases i <;> rfl
@[simp] theorem State.onPort_sections (i : PortId) (f : Port → Port) (s : State) :
    (s.onPort i f).sections = s.sections := by cases i <;> rfl
@[simp] theorem State.onPort_groups (i : PortId) (f : Port → Port) (s : State) : (s.onPort i f).groups = s.groups := by
  cases i <;> rfl
@[simp] theorem State.onPort_sequencer (i : PortId) (f : Port → Port) (s : State) :
    (s.onPort i f).sequencer = s.sequencer := by cases i <;> rfl
@[simp] theorem State.onPort_device (i : PortId) (f : Port → Port) (s : State) : (s.onPort i f).device = s.device := by
  cases i <;> rfl
@[simp] theorem State.onPort_params (i : PortId) (f : Port → Port) (s : State) : (s.onPort i f).params = s.params := by
  cases i <;> rfl
@[simp] theorem State.onPort_leakTimer (i : PortId) (f : Port → Port) (s : State) :
    (s.onPort i f).leakTimer = s.leakTimer := by cases i <;> rfl
@[simp] theorem State.onPort_channel (i : PortId) (f : Port → Port) (s : State) :
    (s.onPort i f).channel = s.channel := by cases i <;> rfl
@[simp] theorem State.onPort_queue (i : PortId) (f : Port → Port) (s : State) : (s.onPort i f).queue = s.queue := by
  cases i <;> rfl
@[simp] theorem State.onPort_outputs (i : PortId) (f : Port → Port) (s : State) :
    (s.onPort i f).outputs = s.outputs := by cases i <;> rfl
@[simp] theorem State.onPort_link (i : PortId) (f : Port → Port) (s : State) : (s.onPort i f).link = s.link := by
  cases i <;> rfl
@[simp] theorem State.onPort_trace (i : PortId) (f : Port → Port) (s : State) : (s.onPort i f).trace = s.trace := by
  cases i <;> rfl
@[simp] theorem State.onPort_straps (i : PortId) (f : Port → Port) (s : State) :
    (s.onPort i f).straps = s.straps := by cases i <;> rfl
@[simp] theorem State.onPort_pending (i : PortId) (f : Port → Port) (s : State) :
    (s.onPort i f).pending = s.pending := by cases i <;> rfl
@[simp] theorem State.onPort_choices (i : PortId) (f : Port → Port) (s : State) :
    (s.onPort i f).choices = s.choices := by cases i <;> rfl
@[simp] theorem State.onPort_writeLapsed (i : PortId) (f : Port → Port) (s : State) :
    (s.onPort i f).writeLapsed = s.writeLapsed := by cases i <;> rfl

/-! ## The work in hand: `postIf` and `trace` keep the state -/

@[simp] theorem Ev.postIf_s (b : Bool) (x : Subject) (w : Ev) : (w.postIf b x).s = w.s := by
  unfold Ev.postIf; split <;> rfl

@[simp] theorem Ev.postIf_traces (b : Bool) (x : Subject) (w : Ev) : (w.postIf b x).traces = w.traces := by
  unfold Ev.postIf; split <;> rfl

@[simp] theorem Ev.trace_s (r : TraceRecord) (w : Ev) : (w.trace r).s = w.s := rfl
@[simp] theorem Ev.trace_posts (r : TraceRecord) (w : Ev) : (w.trace r).posts = w.posts := rfl

/-! ## The state after one change of a record -/

theorem Ev.onPoint_s (p : PointId) (f : Point → Point) (w : Ev) :
    (w.onPoint p f).s = { w.s with points := w.s.points.set p (f (w.s.point p)) } := by simp [Ev.onPoint]

theorem Ev.onSection_s (n : SectionId) (f : SectionRecord → SectionRecord) (w : Ev) :
    (w.onSection n f).s = { w.s with
        sections := w.s.sections.set n ((w.s.sec n).stamped w.s.now (f (w.s.sec n)))
        outputs := { w.s.outputs with
          clr := w.s.outputs.clr.set n
            ((w.s.outputs.clr.get n).follow (w.s.sec n).state (f (w.s.sec n)).state) } } := by simp [Ev.onSection]

theorem Ev.onGroup_s (g : GroupId) (f : Group → Group) (w : Ev) :
    (w.onGroup g f).s =
      { w.s with groups := w.s.groups.set g ((w.s.group g).stamped w.s.now (f (w.s.group g))) } := by
  simp [Ev.onGroup]

theorem Ev.onDevice_s (f : Device → Device) (w : Ev) :
    (w.onDevice f).s = { w.s with
        device := f w.s.device
        outputs := w.s.outputs.followDevice w.s.device.state (f w.s.device).state } := by simp [Ev.onDevice]

@[simp] theorem Ev.onView_s (p : PointId) (f : PointView → PointView) (w : Ev) :
    (w.onView p f).s = { w.s with view := w.s.view.set p (f (w.s.view.get p)) } := rfl

@[simp] theorem Ev.onSequencer_s (f : Sequencer → Sequencer) (w : Ev) :
    (w.onSequencer f).s = { w.s with sequencer := f w.s.sequencer } := rfl

@[simp] theorem Ev.onProofs_s (c : Option Proof) (q : List SystemId) (w : Ev) :
    (w.onProofs c q).s = { w.s with channel := c, queue := q } := rfl

@[simp] theorem Ev.onParams_s (f : DeviceParams → DeviceParams) (w : Ev) :
    (w.onParams f).s = { w.s with params := f w.s.params } := rfl

@[simp] theorem Ev.choose_s (w : Ev) : w.choose.s = { w.s with choices := w.s.choices + 1 } := rfl

/-! ## The store -/

/-- The next write of a store: a body write of at least one byte that stays within the image, or the header write when the
image's end is reached. -/
theorem nextWrite_cases (image : List Byte) (address k : Nat) :
    (∃ size, 1 ≤ size ∧ address + size ≤ image.length ∧ nextWrite image address k = .body address size) ∨
    (image.length ≤ address ∧ nextWrite image address k = .header) := by
  unfold nextWrite
  split
  · exact .inl ⟨_, by omega, by omega, rfl⟩
  · exact .inr ⟨by omega, rfl⟩

/-- A memory write begun changes the store in progress and the number of the next choice, and no output. -/
theorem Ev.beginWrite_s (image : List Byte) (address : Nat) (w : Ev) :
    (w.beginWrite image address).s = { w.s with
      choices := w.s.choices + 1
      device := { w.s.device with
        store := some ⟨image, nextWrite image address w.s.choices,
          ⟨w.s.now, Config.sendTime w.s.choices + writeTimeout⟩⟩ }
      outputs := w.s.outputs.followDevice w.s.device.state w.s.device.state } := by
  simp [Ev.beginWrite, Ev.onDevice_s, startTimer]

/-- The end of a store takes it out of the device record and records its result. -/
theorem Ev.endStore_s (r : StoreResult) (w : Ev) :
    (w.endStore r).s = { w.s with
      device := { w.s.device with store := none, lastStore := some r }
      outputs := w.s.outputs.followDevice w.s.device.state w.s.device.state } := by
  simp [Ev.endStore, Ev.onDevice_s]

/-! ## Reading a record of the state after a change -/

@[simp] theorem State.point_set (s : State) (p q : PointId) (pt : Point) :
    State.point { s with points := s.points.set p pt } q = if q = p then pt else s.point q := Table.get_set ..

@[simp] theorem State.sec_set (s : State) (n m : SectionId) (r : SectionRecord) :
    State.sec { s with sections := s.sections.set n r } m = if m = n then r else s.sec m := Table.get_set ..

@[simp] theorem State.group_set (s : State) (g h : GroupId) (r : Group) :
    State.group { s with groups := s.groups.set g r } h = if h = g then r else s.group h := Table.get_set ..

@[simp] theorem State.entry_set (s : State) (p q : PointId) (e : TopologyEntry) :
    State.entry { s with topology := s.topology.set p e } q = if q = p then e else s.entry q := Table.get_set ..

/-! ## A record's time of last change does not touch its other fields -/

@[simp] theorem SectionRecord.stamped_state (now : Time) (a b : SectionRecord) : (a.stamped now b).state = b.state := by
  unfold SectionRecord.stamped; split <;> rfl
@[simp] theorem SectionRecord.stamped_count (now : Time) (a b : SectionRecord) : (a.stamped now b).count = b.count := by
  unfold SectionRecord.stamped; split <;> rfl
@[simp] theorem SectionRecord.stamped_cause (now : Time) (a b : SectionRecord) : (a.stamped now b).cause = b.cause := by
  unfold SectionRecord.stamped; split <;> rfl
@[simp] theorem SectionRecord.stamped_rc (now : Time) (a b : SectionRecord) : (a.stamped now b).rc = b.rc := by
  unfold SectionRecord.stamped; split <;> rfl
@[simp] theorem SectionRecord.stamped_entries (now : Time) (a b : SectionRecord) :
    (a.stamped now b).entries = b.entries := by unfold SectionRecord.stamped; split <;> rfl
@[simp] theorem SectionRecord.stamped_exits (now : Time) (a b : SectionRecord) : (a.stamped now b).exits = b.exits := by
  unfold SectionRecord.stamped; split <;> rfl
@[simp] theorem SectionRecord.stamped_sweep (now : Time) (a b : SectionRecord) : (a.stamped now b).sweep = b.sweep := by
  unfold SectionRecord.stamped; split <;> rfl
@[simp] theorem SectionRecord.stamped_hold (now : Time) (a b : SectionRecord) : (a.stamped now b).hold = b.hold := by
  unfold SectionRecord.stamped; split <;> rfl
@[simp] theorem SectionRecord.stamped_clearTimer (now : Time) (a b : SectionRecord) :
    (a.stamped now b).clearTimer = b.clearTimer := by unfold SectionRecord.stamped; split <;> rfl
@[simp] theorem SectionRecord.stamped_holdoffTimer (now : Time) (a b : SectionRecord) :
    (a.stamped now b).holdoffTimer = b.holdoffTimer := by unfold SectionRecord.stamped; split <;> rfl

@[simp] theorem Group.stamped_state (now : Time) (a b : Group) : (a.stamped now b).state = b.state := by
  unfold Group.stamped; split <;> rfl
@[simp] theorem Group.stamped_good (now : Time) (a b : Group) : (a.stamped now b).good = b.good := by
  unfold Group.stamped; split <;> rfl
@[simp] theorem Group.stamped_timer (now : Time) (a b : Group) : (a.stamped now b).timer = b.timer := by
  unfold Group.stamped; split <;> rfl
@[simp] theorem Group.stamped_failReason (now : Time) (a b : Group) :
    (a.stamped now b).failReason = b.failReason := by unfold Group.stamped; split <;> rfl
@[simp] theorem Group.stamped_forced (now : Time) (a b : Group) : (a.stamped now b).forced = b.forced := by
  unfold Group.stamped; split <;> rfl

end Machine

end Sys2Proof
end

