-- ==== Sys2Proof/Laws/Changes.lean ====
section
/-! SUPPORT. Laws/Changes.lean: every change that a command's event can make to a record, said once (`Change`), and for each
operation over the state that what it does is a sequence of such changes. A claim that every event keeps a property
follows from the cases of `Change`. -/

namespace Sys2Proof.Machine

/-! ## The changes of each record -/

/-- The changes of a system's proof status. -/
inductive ProofStep (st : ProofStatus) : ProofStatus → Prop
  | epochStart : ProofStep st st.epochStart
  | epochEnd : ProofStep st st.epochEnd
  | passed (now : Time) (interval : Nat) : ProofStep st (ProofStatus.passed now interval)
  | failed (r : ProofResult) : ProofStep st (st.failed r)
  | result (r : ProofResult) : ProofStep st { st with lastResult := some r }
  | timed (due overdue : Bool) (t u : Option Timer) :
      ProofStep st { st with due := due, overdue := overdue, dueTimer := t, overdueTimer := u }

/-- The changes of a point's record. -/
inductive PointStep (pt : Point) : Point → Prop
  | lines (a b : Line) : PointStep pt { pt with lineA := a, lineB := b }
  | confuse (c : Confusion) (q : Option Timer) :
      PointStep pt { pt with machine := .confused, confusion := some c, passage := none, quietTimer := q }
  | opened (m : DirectionMachine) (r : Passage) (h : m.crossing = true) :
      PointStep pt { pt with machine := m, passage := some r, confusion := none, quietTimer := none }
  | moved (m : DirectionMachine) (f : Passage → Passage) (h : pt.machine.crossing = true) (h' : m.crossing = true) :
      PointStep pt { pt with machine := m, passage := pt.passage.map f }
  | placed (m : DirectionMachine) (h : pt.machine.crossing = true) (h' : m.crossing = true) :
      PointStep pt { pt with machine := m }
  | record (f : Passage → Passage) : PointStep pt { pt with passage := pt.passage.map f }
  | quiet (q : Option Timer) (h : pt.machine = .confused) : PointStep pt { pt with quietTimer := q }
  | retreat (h : pt.machine.crossing = true) :
      PointStep pt { pt with machine := .idle, passage := none, retreatTally := raise pt.retreatTally }
  | stopped : PointStep pt { pt with machine := .idle, passage := none, confusion := none, quietTimer := none }
  | leftConfused (h : pt.machine = .confused) :
      PointStep pt { pt with machine := .idle, confusion := none, quietTimer := none }
  | counted (dir : Direction) (speed : Option Nat) (h : pt.machine.crossing = true) :
      PointStep pt (pt.afterCount dir speed)
  | weighed (weight g i o c f : Nat) (hg : g = pt.glitchTally ∨ g = raise pt.glitchTally)
      (hi : i = pt.irregularTally ∨ i = raise pt.irregularTally)
      (ho : o = pt.overspeedTally ∨ o = raise pt.overspeedTally)
      (hc : c = pt.confusedTally ∨ c = raise pt.confusedTally)
      (hf : f = pt.proofFailTally ∨ f = raise pt.proofFailTally) :
      PointStep pt { pt with level := min 255 (pt.level + weight), glitchTally := g, irregularTally := i,
                             overspeedTally := o, confusedTally := c, proofFailTally := f }
  | leaked : PointStep pt { pt with level := pt.level - 1 }
  | health (h : Health) (h1 : pt.health ≠ .fault) (h2 : h ≠ .fault) : PointStep pt { pt with health := h }
  | faulted (c : FaultCause) (t : Time) :
      PointStep pt { pt with health := .fault, faultCause := some c, faultTime := some t }
  | cleared : PointStep pt pt.clearFault
  | proof (x : Sys) (f : ProofStatus → ProofStatus) (h : ProofStep (pt.proof x) (f (pt.proof x))) :
      PointStep pt (pt.onProof x f)
  | epochsEnd : PointStep pt ((pt.onProof .a ProofStatus.epochEnd).onProof .b ProofStatus.epochEnd)
  | mode (m : Mode) : PointStep pt { pt with mode := m }
  | startMode (m : Mode) : PointStep pt { pt with startMode := m }
  | pair (q : PointParams) (st : Option PointParams) : PointStep pt { pt with params := q, staged := st }
  | loaded (m : Mode) (q : PointParams) : PointStep pt { pt with startMode := m, params := q }

/-- The changes of section `n`'s record in state `s`. A count side is taken, and a restore accepted, in RUNNING alone. -/
inductive SectionStep (s : State) (r : SectionRecord) : SectionRecord → Prop
  | disturb (c : Cause) : SectionStep s r (r.disturb c)
  | settle (a o : Bool) : SectionStep s r (r.settle s.now a o)
  | exit (a o : Bool) (h : s.device.state = .running) : SectionStep s r (r.exitSide.settle s.now a o)
  | entry (a o : Bool) (h : s.device.state = .running) : SectionStep s r (r.entrySide.settle s.now a o)
  | overdue : SectionStep s r r.takeOverdue
  | current (o : Bool) : SectionStep s r (r.takeCurrent o)
  | params (o : Bool) (d h : Nat) (p : Bool) : SectionStep s r (r.setParams s.now o d h p)
  | restore (o : Bool) (k : RestoreKind) (h : s.device.state = .running) (h' : r.state = .disturbed) :
      SectionStep s r (r.restore s.now o k)
  | membership (used : Bool) : SectionStep s r (r.takeMembership used)
  | expiry (o : Bool) (h : r.state = .clearing) (h' : r.clearTimer.isSome = true) :
      SectionStep s r (r.expiryCheck o)
  | holdoff : SectionStep s r { r with holdoffTimer := none }

/-- The changes of a group's record. -/
inductive GroupStep (g : Group) : Group → Prop
  | input (good pin : Bool) (run : Nat) : GroupStep g { g with good := good, pinHigh := pin, run := run }
  | untimed (st : GroupState) (h : st = .off ∨ st = .ready) : GroupStep g (g.toState st)
  | failed (r : FailReason) : GroupStep g (g.toFailed r)
  | timed (st : GroupState) (t : Timer) (h : st = .enabling ∨ st = .settling ∨ st = .disabling) :
      GroupStep g (g.toTimed st t)
  | manual (on : Bool) : GroupStep g (g.toManual on)
  | retimed (t : Timer) (h : g.timer.isSome = true) : GroupStep g { g with timer := some t }

/-- One change of the state made by an event, the device record, the ports, the link and the trace apart. -/
inductive Change (s : State) : State → Prop
  | point (p : PointId) (pt : Point) (h : PointStep (s.point p) pt) :
      Change s { s with points := s.points.set p pt }
  | view (p : PointId) (v : PointView) : Change s { s with view := s.view.set p v }
  | sec (n : SectionId) (r : SectionRecord) (h : SectionStep s (s.sec n) r) :
      Change s { s with
        sections := s.sections.set n ((s.sec n).stamped s.now r)
        outputs := { s.outputs with
          clr := s.outputs.clr.set n ((s.outputs.clr.get n).follow (s.sec n).state r.state) } }
  | group (g : GroupId) (r : Group) (h : GroupStep (s.group g) r) :
      Change s { s with groups := s.groups.set g ((s.group g).stamped s.now r) }
  | sequencer (q : Sequencer)
      (h : q.activity = .powerOff → s.sequencer.activity = .powerOff ∨ s.device.state ≠ .running) :
      Change s { s with sequencer := q }
  | joined (x : SystemId) : Change s { s with queue := joinTail x s }
  | leftQueue (p : PointId) : Change s { s with queue := withoutPoint p s.queue }
  | freed : Change s { s with channel := none }
  | held (pr pr' : Proof) (h : s.channel = some pr) (h' : pr'.system = pr.system) :
      Change s { s with channel := some pr' }
  | returned (x : SystemId) : Change s { s with channel := none, queue := joinHead x s }
  | taken (pr : Proof) (h : s.channel = none) (h' : pr.system ∈ s.queue) :
      Change s { s with channel := some pr, queue := s.queue.erase pr.system }
  | params (d : DeviceParams) (h : s.params.Ok → d.Ok) : Change s { s with params := d }
  | leakTimer (t : Timer) : Change s { s with leakTimer := t }
  | topology (t : Table 16 TopologyEntry) : Change s { s with topology := t }
  | phase : Change s { s with outputs := s.outputs.phaseEdge }
  | choice : Change s { s with choices := s.choices + 1 }
  | lapseTaken : Change s { s with writeLapsed := false }

/-- One change of the state made by an event, the ports, the link and the trace apart: the device leaves RUNNING only when
no count is trusted, and enters it at the end of a power-on sequence. -/
inductive Work (s : State) : State → Prop
  | change (t : State) (h : Change s t) : Work s t
  | device (d : Device)
      (h : d.state = s.device.state ∨
        d.state ≠ .running ∧ (s.device.state ≠ .running ∨ ∀ n, (s.sec n).state.trusted = false)) :
      Work s { s with device := d, outputs := s.outputs.followDevice s.device.state d.state }
  | ended (st : DeviceState)
      (h : st = .running ∨ st = .configuring ∧ s.sequencer.activity = .powerOff) :
      Work s { s with
        sequencer := { s.sequencer with activity := .none, nextTurn := none, turnTimer := none }
        device := { s.device with state := st }
        outputs := s.outputs.followDevice s.device.state st }

/-- A sequence of such work. -/
abbrev Works : State → State → Prop := Relation.ReflTransGen Work

/-- A sequence of changes. -/
abbrev Changes : State → State → Prop := Relation.ReflTransGen Change

theorem Changes.refl {s : State} : Changes s s := Relation.ReflTransGen.refl

theorem Changes.trans {s t u : State} (h : Changes s t) (h' : Changes t u) : Changes s u := Relation.ReflTransGen.trans h h'

theorem Change.changes {s t : State} (h : Change s t) : Changes s t := Relation.ReflTransGen.single h

theorem Works.trans {s t u : State} (h : Works s t) (h' : Works t u) : Works s u := Relation.ReflTransGen.trans h h'

theorem Changes.works {s t : State} (h : Changes s t) : Works s t := by
  induction h with
  | refl => exact .refl
  | tail _ h ih => exact ih.tail (.change _ h)

/-- What no work touches. -/
theorem Works.fixed {s t : State} (h : Works s t) :
    t.now = s.now ∧ t.sampleDue = s.sampleDue ∧ t.straps = s.straps ∧ t.pending = s.pending ∧
      t.control = s.control ∧ t.service = s.service ∧ t.link = s.link ∧ t.trace = s.trace := by
  induction h with
  | refl => simp
  | tail _ h ih =>
    cases h with
    | change _ h => cases h <;> simpa using ih
    | device d h => simpa using ih
    | ended st h => simpa using ih

theorem Changes.of_eq {s t : State} (h : t = s) : Changes s t := h ▸ Changes.refl

/-- What no change touches. -/
theorem Changes.fixed {s t : State} (h : Changes s t) :
    t.now = s.now ∧ t.sampleDue = s.sampleDue ∧ t.straps = s.straps ∧ t.pending = s.pending ∧
      t.control = s.control ∧ t.service = s.service ∧ t.link = s.link ∧ t.trace = s.trace ∧ t.device = s.device := by
  induction h with
  | refl => simp
  | tail _ h ih => cases h <;> simpa using ih

theorem Changes.now {s t : State} (h : Changes s t) : t.now = s.now := h.fixed.1

theorem Changes.device {s t : State} (h : Changes s t) : t.device = s.device := h.fixed.2.2.2.2.2.2.2.2

/-- A property that every change keeps is kept by a sequence of changes. -/
theorem Changes.keeps {P : State → Prop} (hP : ∀ s t, Change s t → P s → P t) {s t : State} (h : Changes s t) (hs : P s) :
    P t := by
  induction h with
  | refl => exact hs
  | tail _ h ih => exact hP _ _ h ih

/-! ## Sequences of work -/

theorem Changes.foldl {α : Type} (f : Ev → α → Ev) (hf : ∀ w x, Changes w.s (f w x).s) (l : List α) (w : Ev) :
    Changes w.s (l.foldl f w).s := by
  induction l generalizing w with
  | nil => exact .refl
  | cons x l ih => exact (hf w x).trans (ih _)

/-- A fold that keeps a side condition of the state. -/
theorem Changes.foldl_when {α : Type} (P : State → Prop) (f : Ev → α → Ev)
    (hf : ∀ w x, P w.s → Changes w.s (f w x).s ∧ P (f w x).s) (l : List α) (w : Ev) (hw : P w.s) :
    Changes w.s (l.foldl f w).s ∧ P (l.foldl f w).s := by
  induction l generalizing w with
  | nil => exact ⟨.refl, hw⟩
  | cons x l ih => exact ⟨(hf w x hw).1.trans (ih _ (hf w x hw).2).1, (ih _ (hf w x hw).2).2⟩

theorem Ev.onPoint_changes {p : PointId} {f : Point → Point} {w : Ev}
    (h : PointStep (w.s.point p) (f (w.s.point p))) : Changes w.s (w.onPoint p f).s := by
  rw [Ev.onPoint_s]; exact (Change.point p _ h).changes

theorem Ev.onSection_changes {n : SectionId} {f : SectionRecord → SectionRecord} {w : Ev}
    (h : SectionStep w.s (w.s.sec n) (f (w.s.sec n))) : Changes w.s (w.onSection n f).s := by
  rw [Ev.onSection_s]; exact (Change.sec n _ h).changes

theorem Ev.onGroup_changes {g : GroupId} {f : Group → Group} {w : Ev}
    (h : GroupStep (w.s.group g) (f (w.s.group g))) : Changes w.s (w.onGroup g f).s := by
  rw [Ev.onGroup_s]; exact (Change.group g _ h).changes

theorem Ev.onView_changes {p : PointId} {f : PointView → PointView} {w : Ev} : Changes w.s (w.onView p f).s :=
  (Change.view p _).changes

/-! ## Sections (Machine/Sections.lean) -/

theorem Ev.atSections_changes (p : PointId) (f : State → SectionId → SectionRecord → SectionRecord)
    (hf : ∀ s n, SectionStep s (s.sec n) (f s n (s.sec n))) (w : Ev) : Changes w.s (w.atSections p f).s :=
  Changes.foldl _ (fun w n => Ev.onSection_changes (hf w.s n)) _ w

theorem Ev.pointActive_changes (p : PointId) (w : Ev) : Changes w.s (w.pointActive p).s :=
  Ev.onView_changes.trans (Ev.atSections_changes p _ (fun _ _ => .settle _ _) _)

theorem Ev.pointQuiet_changes (p : PointId) (w : Ev) : Changes w.s (w.pointQuiet p).s :=
  Ev.onView_changes.trans (Ev.atSections_changes p _ (fun _ _ => .settle _ _) _)

theorem Ev.disturbAll_changes (p : PointId) (c : Cause) (w : Ev) : Changes w.s (w.disturbAll p c).s :=
  Ev.atSections_changes p _ (fun _ _ => .disturb c) w

theorem Ev.proofOverdue_changes (p : PointId) (w : Ev) : Changes w.s (w.proofOverdue p).s :=
  Ev.onView_changes.trans (Ev.atSections_changes p _ (fun _ _ => .overdue) _)

theorem Ev.proofCurrent_changes (p : PointId) (w : Ev) : Changes w.s (w.proofCurrent p).s :=
  Ev.onView_changes.trans (Ev.atSections_changes p _ (fun _ _ => .current _) _)

theorem Ev.exit_changes (n : Option SectionId) (w : Ev) (h : w.s.device.state = .running) :
    Changes w.s (w.takeSide SectionRecord.exitSide n).s := by
  cases n with
  | none => exact .refl
  | some n => exact Ev.onSection_changes (.exit _ _ h)

theorem Ev.entry_changes (n : Option SectionId) (w : Ev) (h : w.s.device.state = .running) :
    Changes w.s (w.takeSide SectionRecord.entrySide n).s := by
  cases n with
  | none => exact .refl
  | some n => exact Ev.onSection_changes (.entry _ _ h)

@[simp] theorem Ev.takeSide_device (f : SectionRecord → SectionRecord) (n : Option SectionId) (w : Ev) :
    (w.takeSide f n).s.device = w.s.device := by
  cases n with
  | none => rfl
  | some n => simp [Ev.takeSide, Ev.onSection_s]

theorem Ev.handOver_changes (e : CountEvent) (w : Ev) (h : w.s.device.state = .running) :
    Changes w.s (w.handOver e).s :=
  (Ev.onView_changes.trans (Ev.exit_changes e.left _ h)).trans (Ev.entry_changes e.entered _ (by simpa using h))

/-! ## Passages (Machine/Passages.lean) -/

theorem Ev.enterConfused_changes (p : PointId) (c : ConfusionCause) (t : Time) (q : Option Timer) (w : Ev) :
    Changes w.s (w.enterConfused p c t q).s := by
  have h : Changes w.s (w.onPoint p (fun pt =>
      { pt with machine := .confused, confusion := some ⟨c, t⟩, passage := none, quietTimer := q })).s :=
    Ev.onPoint_changes (.confuse _ _)
  unfold Ev.enterConfused
  dsimp only
  split
  · exact h.trans (Ev.pointActive_changes p _)
  · exact h

theorem Ev.openPassage_changes (p : PointId) (m : DirectionMachine) (r : Passage) (w : Ev) (hm : m.crossing = true) :
    Changes w.s (w.openPassage p m r).s :=
  Changes.trans (Ev.onPoint_changes (.opened m r hm)) (Ev.pointActive_changes p _)

theorem Ev.retreat_changes (p : PointId) (d : Direction) (t : Time) (w : Ev)
    (h : (w.s.point p).machine.crossing = true) : Changes w.s (w.retreat p d t).s := by
  have h1 : Changes w.s (w.onPoint p (fun pt =>
      { pt with machine := .idle, passage := none, retreatTally := raise pt.retreatTally })).s :=
    Ev.onPoint_changes (.retreat h)
  unfold Ev.retreat
  dsimp only
  refine Changes.trans ?_ (Ev.pointQuiet_changes p _)
  exact h1

/-- What a cell of the transition table says of the states at its two ends. -/
theorem transition_ends {m m' : DirectionMachine} {a b : Bool} {act : MoveAction}
    (h : transition m a b = some (m', act)) :
    match act with
    | .plain => m.crossing = true ∧ m'.crossing = true
    | .openRecord => m = .idle ∧ m'.crossing = true
    | .retreat _ => m.crossing = true ∧ m' = .idle
    | .count _ => m.crossing = true ∧ m' = .idle
    | .confuse _ => m ≠ .confused ∧ m' = .confused
    | .reversal => m.crossing = true ∧ m'.crossing = true := by
  cases m <;> cases a <;> cases b <;> simp only [transition, reduceCtorEq, Option.some.injEq, Prod.mk.injEq] at h <;>
    obtain ⟨rfl, rfl⟩ := h <;> simp [DirectionMachine.crossing]

theorem Ev.deliverChange_changes (p : PointId) (chg : Lines) (a b : Bool) (t : Time) (w : Ev) :
    Changes w.s (w.deliverChange p chg a b t).s := by
  unfold Ev.deliverChange
  split
  · rename_i hm
    exact Ev.onPoint_changes (.quiet _ hm)
  · split
    · exact .refl
    · rename_i h
      exact Ev.openPassage_changes _ _ _ _ (transition_ends h).2
    · rename_i h
      exact Ev.onPoint_changes (.moved _ _ (transition_ends h).1 (transition_ends h).2)
    · rename_i h
      exact Ev.onPoint_changes (.moved _ (fun r => { r.recordChange chg a b t with reversal := true })
        (transition_ends h).1 (transition_ends h).2)
    · rename_i h
      exact Ev.retreat_changes _ _ _ _ (transition_ends h).1
    · exact Ev.enterConfused_changes _ _ _ _ _
    · exact .refl

theorem Ev.resetMachine_changes (p : PointId) (w : Ev) : Changes w.s (w.resetMachine p).s := by
  have h : Changes w.s (w.onPoint p (fun pt =>
      { pt with machine := .idle, passage := none, confusion := none, quietTimer := none })).s :=
    Ev.onPoint_changes .stopped
  unfold Ev.resetMachine
  dsimp only
  split
  · exact h
  · exact h.trans (Ev.pointQuiet_changes p _)

theorem Ev.initialise_changes (p : PointId) (w : Ev) : Changes w.s (w.initialise p).s := by
  unfold Ev.initialise
  split
  · exact Ev.enterConfused_changes _ _ _ _ _
  · exact .refl

/-! ## Engines and proofs (Machine/Engine.lean) -/

theorem Ev.onProofStatus_changes (p : PointId) (f : Point → Point) (w : Ev)
    (h : PointStep (w.s.point p) (f (w.s.point p))) : Changes w.s (w.onProofStatus p f).s := by
  have h1 := Ev.onPoint_changes h
  unfold Ev.onProofStatus
  dsimp only
  split
  · exact h1.trans (Ev.proofOverdue_changes p _)
  · split
    · exact h1.trans (Ev.proofCurrent_changes p _)
    · exact h1

theorem Ev.join_changes (x : SystemId) (w : Ev) : Changes w.s (w.join x).s :=
  (Change.joined x).changes

theorem Ev.startEpoch_changes (p : PointId) (x : Sys) (w : Ev) : Changes w.s (w.startEpoch p x).s :=
  (Ev.onProofStatus_changes p _ w (.proof x _ .epochStart)).trans (Ev.join_changes _ _)

theorem Ev.gainEligibility_changes (p : PointId) (w : Ev) : Changes w.s (w.gainEligibility p).s :=
  (Ev.startEpoch_changes p .a w).trans (Ev.startEpoch_changes p .b _)

theorem Ev.deliverEnd_changes (x : SystemId) (t : Time) (w : Ev) : Changes w.s (w.deliverEnd x t).s := by
  unfold Ev.deliverEnd
  split
  · exact Ev.deliverChange_changes _ _ _ _ _ _
  · exact .refl

theorem Ev.free_changes (w : Ev) : Changes w.s (w.onProofs none w.s.queue).s := Change.freed.changes

theorem Ev.endUnfinished_changes (p : PointId) (b : Bool) (w : Ev) : Changes w.s (w.endUnfinished p b).s := by
  unfold Ev.endUnfinished
  split
  · exact .refl
  · rename_i pr _
    split
    · have h : Changes w.s ((w.onProofs none w.s.queue).onPoint p (Point.withResult pr.system.sys .unfinished)).s :=
        (Ev.free_changes w).trans (Ev.onPoint_changes (.proof _ _ (.result _)))
      dsimp only
      split
      · refine Changes.trans ?_ (Ev.deliverEnd_changes _ _ _)
        exact h
      · exact h
    · exact .refl

theorem Ev.loseEligibility_changes (p : PointId) (b : Bool) (w : Ev) : Changes w.s (w.loseEligibility p b).s :=
  ((show Changes w.s (w.onProofs w.s.channel (withoutPoint p w.s.queue)).s from (Change.leftQueue p).changes).trans
    (Ev.endUnfinished_changes p b _)).trans (Ev.onProofStatus_changes p _ _ .epochsEnd)

theorem Ev.enterFault_changes (p : PointId) (c : FaultCause) (w : Ev) : Changes w.s (w.enterFault p c).s := by
  unfold Ev.enterFault
  dsimp only
  refine Changes.trans ?_ (Ev.loseEligibility_changes p true _)
  have h : Changes w.s (w.onPoint p (fun pt =>
      { pt with health := .fault, faultCause := some c, faultTime := some w.s.now })).s :=
    Ev.onPoint_changes (.faulted c w.s.now)
  have h2 : ∀ v : Ev, Changes v.s (if lit v.s p && inUse v.s p then v.initialise p else v).s := fun v => by
    split
    · exact Ev.initialise_changes _ _
    · exact .refl
  refine Changes.trans ?_ (h2 _)
  refine Changes.trans ?_ (Ev.resetMachine_changes p _)
  split
  · exact h.trans (Ev.disturbAll_changes _ _ _)
  · exact h

theorem Ev.evaluateHealth_changes (p : PointId) (w : Ev) : Changes w.s (w.evaluateHealth p).s := by
  have hn : ∀ d h l, h = Health.fault → nextHealth d h l = .fault := by intro d h l e; subst e; rfl
  unfold Ev.evaluateHealth
  dsimp only
  split
  · split
    · exact .refl
    · exact Ev.enterFault_changes _ _ _
  · rename_i e
    exact Ev.onPoint_changes (.health _ (fun c => by rw [hn _ _ _ c] at e; cases e) (by simp))
  · rename_i e
    exact Ev.onPoint_changes (.health _ (fun c => by rw [hn _ _ _ c] at e; cases e) (by simp))

theorem Ev.addWeight_changes (p : PointId) (weight : Nat) (f : Point → Point) (w : Ev)
    (h : PointStep (w.s.point p) { f (w.s.point p) with level := min 255 ((w.s.point p).level + weight) }) :
    Changes w.s (w.addWeight p weight f).s :=
  (Ev.onPoint_changes h).trans (Ev.evaluateHealth_changes p _)

theorem Ev.leak_changes (w : Ev) : Changes w.s w.leak.s := by
  refine Changes.foldl _ (fun w p => ?_) _ w
  split
  · exact Changes.trans (Ev.onPoint_changes .leaked) (Ev.evaluateHealth_changes p _)
  · exact .refl

theorem Ev.countEvent_changes (p : PointId) (d : Direction) (t : Time) (r : Passage) (w : Ev)
    (h : (w.s.point p).machine.crossing = true) : Changes w.s (w.countEvent p d t r).s := by
  have h1 : ∀ speed, Changes w.s (w.onPoint p (Point.afterCount d speed)).s :=
    fun speed => Ev.onPoint_changes (.counted d speed h)
  unfold Ev.countEvent
  dsimp only
  rw [Ev.trace_s]
  have hw : ∀ (tm : Timing) (v : Ev), Changes v.s (if tm.irregular || tm.overspeed then
      v.addWeight p (timingWeight v.s.params tm) (Point.raiseTimingTallies tm) else v).s := fun tm v => by
    split
    · refine Ev.addWeight_changes _ _ _ _ ?_
      refine .weighed _ _ _ _ _ _ (.inl rfl) ?_ ?_ (.inl rfl) (.inl rfl)
      · cases h : tm.irregular
        · exact .inl (by simp [Point.raiseTimingTallies, h])
        · exact .inr (by simp [Point.raiseTimingTallies, h])
      · cases h : tm.overspeed
        · exact .inl (by simp [Point.raiseTimingTallies, h])
        · exact .inr (by simp [Point.raiseTimingTallies, h])
    · exact .refl
  refine Changes.trans ?_ (hw _ _)
  split
  · rename_i hc
    refine (h1 _).trans (Ev.handOver_changes _ _ ?_)
    rw [Ev.onPoint_s]
    simp [counting] at hc
    exact hc.1.2
  · exact (h1 _).trans (Ev.pointQuiet_changes _ _)

theorem Ev.deliver_changes (p : PointId) (chg : Lines) (t : Time) (w : Ev) : Changes w.s (w.deliver p chg t).s := by
  unfold Ev.deliver
  dsimp only
  split
  · rename_i h
    exact Ev.countEvent_changes _ _ _ _ _ (transition_ends h).1
  · exact Ev.deliverChange_changes _ _ _ _ _ _

theorem Ev.passProof_changes (pr : Proof) (w : Ev) : Changes w.s (w.passProof pr).s := by
  unfold Ev.passProof
  dsimp only
  rw [Ev.traceProof, Ev.trace_s]
  exact (Ev.free_changes w).trans (Ev.onProofStatus_changes _ _ _ (.proof _ _ (.passed _ _)))

theorem Ev.proofFailure_changes (p : PointId) (n : Nat) (w : Ev) : Changes w.s (w.proofFailure p n).s := by
  have h : Changes w.s (w.addWeight p w.s.params.wProof
      (fun pt => { pt with proofFailTally := raise pt.proofFailTally })).s :=
    Ev.addWeight_changes _ _ _ _ (.weighed _ _ _ _ _ _ (.inl rfl) (.inl rfl) (.inl rfl) (.inl rfl) (.inr rfl))
  unfold Ev.proofFailure
  dsimp only
  split
  · exact h.trans (Ev.enterFault_changes _ _ _)
  · exact h

theorem Ev.failProof_changes (pr : Proof) (r : ProofResult) (w : Ev) : Changes w.s (w.failProof pr r).s := by
  have hj : ∀ v : Ev, Changes v.s (if eligible v.s pr.system.point then v.join pr.system else v).s := fun v => by
    split
    · exact Ev.join_changes _ _
    · exact .refl
  unfold Ev.failProof
  dsimp only
  rw [Ev.trace_s]
  refine Changes.trans ?_ (hj _)
  refine Changes.trans ?_ (Ev.proofFailure_changes _ _ _)
  exact ((Ev.free_changes w).trans (Ev.deliverEnd_changes _ _ _)).trans (Ev.onPoint_changes (.proof _ _ (.failed _)))

theorem firstState_crossing (x : Sys) : (firstState x).crossing = true := by cases x <;> rfl
theorem overlapState_crossing (x : Sys) : (overlapState x).crossing = true := by cases x <;> rfl

theorem Ev.hold_changes (pr pr' : Proof) (w : Ev) (h : w.s.channel = some pr) (h' : pr'.system = pr.system) :
    Changes w.s (w.onProofs (some pr') w.s.queue).s := (Change.held pr pr' h h').changes

theorem Ev.abortProof_changes (pr : Proof) (t : Time) (w : Ev) (h : w.s.channel = some pr) :
    Changes w.s (w.abortProof pr t).s :=
  Changes.trans (Ev.hold_changes pr _ w h (by rfl)) (Ev.openPassage_changes _ _ _ _ (firstState_crossing _))

theorem Ev.testedChange_changes (pr : Proof) (w : Ev) (h : w.s.channel = some pr) :
    Changes w.s (w.testedChange pr).s := by
  unfold Ev.testedChange
  dsimp only
  split
  · split
    · exact Ev.hold_changes pr _ w h rfl
    · exact .refl
  · split
    · exact .refl
    · exact Ev.passProof_changes pr w
  · split
    · exact .refl
    · exact Ev.hold_changes pr _ w h rfl

theorem Ev.abortPlace_changes (pr : Proof) (w : Ev) : Changes w.s (w.abortPlace pr).s := by
  unfold Ev.abortPlace
  dsimp only
  split
  · rename_i hm
    have hm : (w.s.point pr.system.point).machine = firstState pr.system.sys.other := by simpa using hm
    have h : Changes w.s (w.onPoint pr.system.point
        (fun pt => { pt with passage := pt.passage.map (Passage.partlyFor pr.system.sys) })).s :=
      Ev.onPoint_changes (.record _)
    split
    · exact h.trans (Ev.deliverEnd_changes _ _ _)
    · refine h.trans (Ev.onPoint_changes (.placed _ ?_ (overlapState_crossing _)))
      simp [Ev.onPoint_s, hm, firstState_crossing]
  · split
    · split
      · exact Ev.deliverEnd_changes _ _ _
      · exact Ev.openPassage_changes _ _ _ _ (firstState_crossing _)
    · exact .refl

theorem Ev.decideAbort_changes (pr : Proof) (w : Ev) : Changes w.s (w.decideAbort pr).s := by
  have hr : ∀ v : Ev, Changes v.s (if eligible v.s pr.system.point then
      v.onProofs none (joinHead pr.system v.s) else v).s := fun v => by
    split
    · exact (Change.returned _).changes
    · exact .refl
  unfold Ev.decideAbort
  dsimp only
  rw [Ev.traceProof, Ev.trace_s]
  refine Changes.trans ?_ (hr _)
  exact ((Ev.free_changes w).trans (Ev.abortPlace_changes _ _)).trans (Ev.onPoint_changes (.proof _ _ (.result _)))

theorem Ev.takeProof_changes (w : Ev) : Changes w.s w.takeProof.s := by
  unfold Ev.takeProof
  split
  · exact .refl
  · rename_i hc
    split
    · exact .refl
    · rename_i x hx
      refine (Change.taken _ hc ?_).changes
      exact List.mem_of_find?_eq_some hx

theorem Ev.applyStaged_changes (w : Ev) : Changes w.s w.applyStaged.s := by
  refine Changes.foldl _ (fun w p => ?_) _ w
  split
  · refine Ev.onPoint_changes ?_
    unfold Point.applyStaged
    split
    · exact .pair (w.s.point p).params (w.s.point p).staged
    · exact .pair _ _
  · exact .refl

theorem Ev.choose_changes (w : Ev) : Changes w.s w.choose.s := Change.choice.changes

theorem Ev.settleProofs_changes (w : Ev) : Changes w.s w.settleProofs.s := by
  unfold Ev.settleProofs
  split
  · split
    · exact ((Ev.choose_changes w).trans (Ev.applyStaged_changes _)).trans (Ev.takeProof_changes _)
    · exact (((Ev.choose_changes w).trans (Ev.takeProof_changes _)).trans (Ev.applyStaged_changes _)).trans
        (Ev.takeProof_changes _)
  · exact (Ev.applyStaged_changes w).trans (Ev.takeProof_changes _)

/-! ## Supplies (Machine/Supplies.lean) -/

theorem Ev.enterSettling_changes (g : GroupId) (w : Ev) : Changes w.s (w.enterSettling g).s :=
  Ev.onGroup_changes (.timed _ _ (by simp))

theorem Ev.enterEnabling_changes (g : GroupId) (w : Ev) : Changes w.s (w.enterEnabling g).s := by
  have h : Changes w.s (w.onGroup g (Group.toTimed .enabling (startTimer w.s.now supplyTimeout))).s :=
    Ev.onGroup_changes (.timed _ _ (by simp))
  unfold Ev.enterEnabling
  dsimp only
  split
  · exact h.trans (Ev.enterSettling_changes _ _)
  · exact h

theorem Ev.enterDisabling_changes (g : GroupId) (w : Ev) : Changes w.s (w.enterDisabling g).s :=
  Ev.onGroup_changes (.timed _ _ (by simp))

theorem Ev.lightPoint_changes (p : PointId) (w : Ev) : Changes w.s (w.lightPoint p).s := by
  unfold Ev.lightPoint
  dsimp only
  have h : Changes w.s (if inUse w.s p then w.initialise p else w).s := by
    split
    · exact Ev.initialise_changes _ _
    · exact .refl
  have hg : ∀ v : Ev, Changes v.s (if eligible v.s p then v.gainEligibility p else v).s := fun v => by
    split
    · exact Ev.gainEligibility_changes _ _
    · exact .refl
  exact h.trans (hg _)

theorem Ev.enterReady_changes (g : GroupId) (w : Ev) : Changes w.s (w.enterReady g).s :=
  Changes.trans (Ev.onGroup_changes (.untimed .ready (by simp))) (Changes.foldl _ (fun w p => Ev.lightPoint_changes p w) _ _)

theorem Ev.darkenPoint_changes (c : Cause) (p : PointId) (w : Ev) : Changes w.s (w.darkenPoint c p).s := by
  unfold Ev.darkenPoint
  dsimp only
  refine Changes.trans (Changes.trans ?_ (Ev.resetMachine_changes _ _)) (Ev.loseEligibility_changes _ _ _)
  split
  · exact Ev.disturbAll_changes _ _ _
  · exact .refl

theorem Ev.leaveGroup_changes (g : GroupId) (c : Cause) (f : Group → Group) (w : Ev)
    (h : GroupStep (w.s.group g) (f (w.s.group g))) : Changes w.s (w.leaveGroup g c f).s := by
  have h1 := Ev.onGroup_changes h
  unfold Ev.leaveGroup
  dsimp only
  split
  · exact h1.trans (Changes.foldl _ (fun w p => Ev.darkenPoint_changes c p w) _ _)
  · exact h1

theorem Ev.turnOn_changes (g : GroupId) (w : Ev) : Changes w.s (w.turnOn g).s := by
  unfold Ev.turnOn
  split
  · exact Ev.enterEnabling_changes g w
  all_goals exact .refl

theorem Ev.turnOff_changes (g : GroupId) (w : Ev) : Changes w.s (w.turnOff g).s := by
  unfold Ev.turnOff
  split
  · exact Ev.leaveGroup_changes _ _ _ _ (.timed _ _ (by simp))
  · exact Ev.enterDisabling_changes g w
  · exact Ev.enterDisabling_changes g w
  all_goals exact .refl

/-- A change of the sequencer that keeps its activity. -/
theorem Ev.onSequencer_changes (f : Sequencer → Sequencer) (w : Ev)
    (h : (f w.s.sequencer).activity = .powerOff →
      w.s.sequencer.activity = .powerOff ∨ w.s.device.state ≠ .running) :
    Changes w.s (w.onSequencer f).s := (Change.sequencer _ h).changes

theorem Ev.giveTurns_changes (on : Bool) (l : List (GroupId × Nat)) (g : GroupId) (w : Ev) :
    Changes w.s (w.giveTurns on g l).s := by
  have ht : ∀ (g : GroupId) (w : Ev), Changes w.s (if on then w.turnOn g else w.turnOff g).s := fun g w => by
    split
    · exact Ev.turnOn_changes g w
    · exact Ev.turnOff_changes g w
  induction l generalizing g w with
  | nil => exact (ht g w).trans (Ev.onSequencer_changes _ _ .inl)
  | cons x l ih =>
    obtain ⟨next, delay⟩ := x
    unfold Ev.giveTurns
    dsimp only
    split
    · exact (ht g w).trans (ih next _)
    · exact (ht g w).trans (Ev.onSequencer_changes _ _ .inl)

theorem Ev.turn_changes (on : Bool) (g : GroupId) (w : Ev) : Changes w.s (w.turn on g).s :=
  Ev.giveTurns_changes _ _ _ _

theorem Ev.startPowerOn_changes (w : Ev) : Changes w.s w.startPowerOn.s :=
  (Ev.onSequencer_changes (fun q => { q with activity := .powerOn }) w (fun h => by cases h)).trans
    (Ev.turn_changes _ _ _)

theorem Ev.startPowerOff_changes (w : Ev) (h : w.s.device.state ≠ .running) : Changes w.s w.startPowerOff.s :=
  (Ev.onSequencer_changes (fun q => { q with activity := .powerOff }) w (fun _ => .inr h)).trans
    (Ev.turn_changes _ _ _)

theorem Ev.endActivity_changes (w : Ev) : Changes w.s w.endActivity.s :=
  Ev.onSequencer_changes _ _ (fun h => by cases h)

theorem Ev.settleActivity_works (w : Ev) : Works w.s w.settleActivity.s := by
  unfold Ev.settleActivity
  split
  · exact .refl
  · split
    · rw [Ev.onDevice_s]
      exact .single (Work.ended .running (.inl rfl))
    · exact .refl
  · rename_i ha
    split
    · rw [Ev.onDevice_s]
      exact .single (Work.ended .configuring (.inr ⟨rfl, ha⟩))
    · exact .refl
  · split
    · exact (Ev.endActivity_changes w).works
    · exact .refl

theorem Ev.settle_works (w : Ev) : Works w.s w.settle.s :=
  (Ev.settleProofs_changes w).works.trans (Ev.settleActivity_works _)

theorem Ev.supplyGoodChange_changes (g : GroupId) (w : Ev) : Changes w.s (w.supplyGoodChange g).s := by
  have h : Changes w.s (w.onGroup g (fun r =>
      { r with good := !(w.s.group g).good, pinHigh := !(w.s.group g).good, run := 0 })).s :=
    Ev.onGroup_changes (.input _ _ _)
  unfold Ev.supplyGoodChange
  dsimp only
  split
  · split
    · exact h.trans (Ev.enterSettling_changes _ _)
    · exact h
  · split
    · exact h
    · exact h.trans (Ev.onGroup_changes (.failed _))
  · split
    · exact h
    · exact h.trans (Ev.leaveGroup_changes _ _ _ _ (.failed _))
  all_goals exact h

theorem Ev.offTimeExpiry_changes (g : GroupId) (w : Ev) : Changes w.s (w.offTimeExpiry g).s := by
  unfold Ev.offTimeExpiry
  split
  · exact Ev.onGroup_changes (.failed _)
  · split
    · exact Ev.enterEnabling_changes _ _
    · exact Ev.onGroup_changes (.untimed .off (by simp))

/-! ## Configuration (Machine/Configuration.lean) -/

theorem Ev.takeMembership_changes (old : Table 16 TopologyEntry) (n : SectionId) (w : Ev) :
    Changes w.s (w.takeMembership old n).s := by
  unfold Ev.takeMembership
  dsimp only
  rw [Ev.postIf_s]
  exact Ev.onSection_changes (.membership _)

theorem Ev.setTopology_changes (t : Table 16 TopologyEntry) (w : Ev) : Changes w.s (w.setTopology t).s := by
  unfold Ev.setTopology
  dsimp only
  refine Changes.trans ?_ (Changes.foldl _ (fun v n => Ev.takeMembership_changes _ n v) _ _)
  refine Changes.trans ?_ (Changes.foldl _ (fun v p => .of_eq (Ev.postIf_s _ _ v)) _ _)
  exact (Change.topology t).changes

theorem Ev.dueExpiry_changes (p : PointId) (x : Sys) (w : Ev) : Changes w.s (w.dueExpiry p x).s :=
  (Ev.onProofStatus_changes _ _ _ (.proof x _ (.timed true ((w.s.point p).proof x).overdue none _))).trans
    (Ev.join_changes _ _)

theorem Ev.overdueExpiry_changes (p : PointId) (x : Sys) (w : Ev) : Changes w.s (w.overdueExpiry p x).s :=
  Ev.onProofStatus_changes _ _ _ (.proof x _ (.timed ((w.s.point p).proof x).due true _ none))

theorem Ev.retimeDue_changes (i : Nat) (p : PointId) (x : Sys) (w : Ev) : Changes w.s (w.retimeDue i p x).s := by
  unfold Ev.retimeDue
  split
  · exact .refl
  · split
    · exact Ev.dueExpiry_changes _ _ _
    · exact Ev.onPoint_changes (.proof x _ (.timed ((w.s.point p).proof x).due ((w.s.point p).proof x).overdue _ _))

theorem Ev.retimeOverdue_changes (i : Nat) (p : PointId) (x : Sys) (w : Ev) :
    Changes w.s (w.retimeOverdue i p x).s := by
  unfold Ev.retimeOverdue
  split
  · exact .refl
  · split
    · exact Ev.overdueExpiry_changes _ _ _
    · exact Ev.onPoint_changes (.proof x _ (.timed ((w.s.point p).proof x).due ((w.s.point p).proof x).overdue _ _))

theorem Ev.retimeProofs_changes (i : Nat) (w : Ev) : Changes w.s (w.retimeProofs i).s :=
  Changes.foldl _ (fun v p => Changes.foldl _ (fun u x =>
    (Ev.retimeDue_changes i p x u).trans (Ev.retimeOverdue_changes i p x _)) _ v) _ w

theorem Ev.retimeLeak_changes (i : Nat) (w : Ev) : Changes w.s (w.retimeLeak i).s := by
  unfold Ev.retimeLeak
  dsimp only
  split
  · refine Changes.trans ?_ (Ev.leak_changes _)
    exact (Change.leakTimer _).changes
  · exact (Change.leakTimer _).changes

theorem Ev.evaluateAll_changes (w : Ev) : Changes w.s w.evaluateAll.s :=
  Changes.foldl _ (fun v p => Ev.evaluateHealth_changes p v) _ w

theorem Ev.setDeviceParams_changes (d : DeviceParams) (b : Bool) (w : Ev) (h : w.s.params.Ok → d.Ok) :
    Changes w.s (w.setDeviceParams d b).s := by
  have h0 : Changes w.s (w.onParams (fun _ => d)).s := (Change.params d h).changes
  have h1 : ∀ (i : Nat) (v : Ev), Changes v.s (if d.leakInterval = i then v else v.retimeLeak d.leakInterval).s :=
    fun i v => by
      split
      · exact .refl
      · exact Ev.retimeLeak_changes _ _
  have h2 : ∀ (i : Nat) (v : Ev), Changes v.s (if d.interval = i then v else v.retimeProofs d.interval).s :=
    fun i v => by
      split
      · exact .refl
      · exact Ev.retimeProofs_changes _ _
  unfold Ev.setDeviceParams
  dsimp only
  split
  · exact ((h0.trans (h1 _ _)).trans (h2 _ _)).trans (Ev.evaluateAll_changes _)
  · exact (h0.trans (h1 _ _)).trans (h2 _ _)

theorem Ev.takeOutOfUse_changes (p : PointId) (b : Bool) (w : Ev) : Changes w.s (w.takeOutOfUse p b).s := by
  unfold Ev.takeOutOfUse
  dsimp only
  refine Changes.trans (Changes.trans ?_ (Ev.resetMachine_changes _ _)) (Ev.loseEligibility_changes _ _ _)
  split
  · exact Ev.disturbAll_changes _ _ _
  · exact .refl

theorem Ev.bringIntoUse_changes (p : PointId) (w : Ev) : Changes w.s (w.bringIntoUse p).s := by
  unfold Ev.bringIntoUse
  dsimp only
  have h : Changes w.s (if lit w.s p then w.initialise p else w).s := by
    split
    · exact Ev.initialise_changes _ _
    · exact .refl
  have hg : ∀ v : Ev, Changes v.s (if eligible v.s p then v.gainEligibility p else v).s := fun v => by
    split
    · exact Ev.gainEligibility_changes _ _
    · exact .refl
  exact h.trans (hg _)

theorem Ev.changeMode_changes (p : PointId) (m : Mode) (w : Ev) : Changes w.s (w.changeMode p m).s := by
  have h : Changes w.s (w.onPoint p (fun pt => { pt with mode := m })).s := Ev.onPoint_changes (.mode m)
  unfold Ev.changeMode
  dsimp only
  split
  · exact h
  · exact h.trans (Ev.bringIntoUse_changes _ _)
  · exact h.trans (Ev.bringIntoUse_changes _ _)
  · exact h.trans (Ev.takeOutOfUse_changes _ _ _)
  · exact h.trans (Ev.takeOutOfUse_changes _ _ _)
  · exact h
  · exact h
  · exact h
  · split
    · exact h.trans (Ev.disturbAll_changes _ _ _)
    · exact h

theorem Ev.applyStartModes_changes (w : Ev) : Changes w.s w.applyStartModes.s :=
  Changes.foldl _ (fun v p => Ev.changeMode_changes p _ v) _ w

theorem Ev.beginStart_changes (w : Ev) : Changes w.s w.beginStart.s :=
  (Ev.applyStartModes_changes w).trans (Ev.startPowerOn_changes _)

end Sys2Proof.Machine
end

