-- ==== Sys2Proof/Laws/Frames.lean ====
section
/-! SUPPORT. Laws/Frames.lean: what the end of an event does to the state, said once: the ports, the link and the trace post
and send, and nothing else changes (`runEvent_leaves`); a command that is taken is answered, and its reply joins the
FIFO (`takeCommand_accepts`, `takeCommand_refuses`). -/

namespace Sys2Proof.Machine

/-! ## Records replaced in a statement -/

@[simp] theorem State.setPoint_point (p q : PointId) (pt : Point) (s : State) :
    (s.setPoint p pt).point q = if q = p then pt else s.point q := Table.get_set ..
@[simp] theorem State.setPoint_now (p : PointId) (pt : Point) (s : State) : (s.setPoint p pt).now = s.now := rfl
@[simp] theorem State.setPoint_channel (p : PointId) (pt : Point) (s : State) :
    (s.setPoint p pt).channel = s.channel := rfl
@[simp] theorem State.setPoint_queue (p : PointId) (pt : Point) (s : State) : (s.setPoint p pt).queue = s.queue := rfl
@[simp] theorem State.setPoint_sections (p : PointId) (pt : Point) (s : State) :
    (s.setPoint p pt).sections = s.sections := rfl
@[simp] theorem State.setPoint_groups (p : PointId) (pt : Point) (s : State) : (s.setPoint p pt).groups = s.groups := rfl
@[simp] theorem State.setPoint_view (p : PointId) (pt : Point) (s : State) : (s.setPoint p pt).view = s.view := rfl
@[simp] theorem State.setPoint_device (p : PointId) (pt : Point) (s : State) : (s.setPoint p pt).device = s.device := rfl
@[simp] theorem State.setPoint_params (p : PointId) (pt : Point) (s : State) : (s.setPoint p pt).params = s.params := rfl
@[simp] theorem State.setPoint_topology (p : PointId) (pt : Point) (s : State) :
    (s.setPoint p pt).topology = s.topology := rfl

@[simp] theorem State.setGroup_group (g h : GroupId) (r : Group) (s : State) :
    (s.setGroup g r).group h = if h = g then r else s.group h := Table.get_set ..

@[simp] theorem State.setSection_sec (n m : SectionId) (r : SectionRecord) (d : Drive) (s : State) :
    (s.setSection n r d).sec m = if m = n then r else s.sec m := Table.get_set ..

/-- A change taken touches its own line alone. -/
theorem State.withChange_point (p q : PointId) (x : Sys) (t : Time) (s : State) :
    (s.withChange p x t).point q = if q = p then (s.point p).onLine x (Line.take t) else s.point q := Table.get_set ..

/-- Both changes taken at one sample, in either order, leave the same state. -/
theorem State.withChange_comm (p : PointId) (t : Time) (s : State) :
    (s.withChange p .a t).withChange p .b t = (s.withChange p .b t).withChange p .a t := by
  simp [State.withChange, State.setPoint, Point.onLine]

/-! ## Posting and sending -/

theorem Port.SendsOnly.refl (q : Port) : q.SendsOnly q := rfl

theorem Port.SendsOnly.trans {q r u : Port} (h : q.SendsOnly r) (h' : r.SendsOnly u) : q.SendsOnly u := by
  cases q; cases r; cases u; simp [Port.SendsOnly] at *; simp_all

theorem AllButPorts.refl (s : State) : AllButPorts s s := rfl

theorem AllButPorts.trans {s t u : State} (h : AllButPorts s t) (h' : AllButPorts t u) : AllButPorts s u := by
  cases s; cases t; cases u; simp [AllButPorts] at *; simp_all

theorem Leaves.refl (s : State) : Leaves s s := ⟨rfl, rfl, rfl, rfl, rfl⟩

theorem Leaves.trans {s t u : State} (h : Leaves s t) (h' : Leaves t u) : Leaves s u := by
  obtain ⟨h1, h2, h3, h4, h5⟩ := h
  obtain ⟨h1', h2', h3', h4', h5'⟩ := h'
  refine ⟨h1.trans h1', h2.trans h2', h3.trans h3', ?_, ?_⟩
  · rw [h4'] ; rw [h4]
  · rw [h5'] ; rw [h5]

theorem Port.post_sendsOnly (x : Subject) (n : Nat) (q : Port) : q.SendsOnly (q.post x n) := by
  unfold Port.post; split <;> rfl

theorem Port.postAll_sendsOnly (posts : List Subject) (q : Port) : q.SendsOnly (q.postAll posts) := by
  unfold Port.postAll
  suffices h : ∀ (l : List Subject) (q : Port),
      q.SendsOnly (l.foldl (fun q x => if posts.contains x then q.post x (posts.count x) else q) q) from h _ q
  intro l
  induction l with
  | nil => exact fun q => .refl q
  | cons x l ih =>
    intro q
    refine Port.SendsOnly.trans ?_ (ih _)
    dsimp only
    split
    · exact Port.post_sendsOnly _ _ _
    · exact .refl q

/-- Posting leaves the transmitter and the reply FIFO as they are. -/
theorem Port.postAll_line (posts : List Subject) (q : Port) :
    (q.postAll posts).sending = q.sending ∧ (q.postAll posts).replies = q.replies := by
  unfold Port.postAll
  suffices h : ∀ (l : List Subject) (q : Port),
      (l.foldl (fun q x => if posts.contains x then q.post x (posts.count x) else q) q).sending = q.sending ∧
      (l.foldl (fun q x => if posts.contains x then q.post x (posts.count x) else q) q).replies = q.replies from h _ q
  intro l
  induction l with
  | nil => exact fun q => ⟨rfl, rfl⟩
  | cons x l ih =>
    intro q
    rw [List.foldl_cons, (ih _).1, (ih _).2]
    split
    · unfold Port.post; split <;> exact ⟨rfl, rfl⟩
    · exact ⟨rfl, rfl⟩

theorem Trace.place_masks (r : TraceRecord) (t : Trace) :
    t.place r = { t with buffer := (t.place r).buffer, drops := (t.place r).drops } := by
  unfold Trace.place; split <;> split <;> rfl

theorem Trace.take_masks (r : TraceRecord) (t : Trace) :
    t.take r = { t with buffer := (t.take r).buffer, drops := (t.take r).drops } := by
  unfold Trace.take; split
  · exact Trace.place_masks r t
  · rfl

theorem Trace.takeAll_masks (l : List TraceRecord) (t : Trace) :
    l.foldl (fun t r => t.take r) t =
      { t with buffer := (l.foldl (fun t r => t.take r) t).buffer
               drops := (l.foldl (fun t r => t.take r) t).drops } := by
  induction l generalizing t with
  | nil => rfl
  | cons r l ih => rw [List.foldl_cons, ih]; rw [Trace.take_masks r t]

/-- A transmitter's choice posts nothing and touches no more than its port, the image due flag and the trace buffer. -/
theorem State.transmit_leaves (i : PortId) (s : State) : Leaves s (s.transmit i) := by
  unfold State.transmit
  split
  · exact .refl s
  · split
    · cases i <;> exact ⟨rfl, rfl, rfl, rfl, rfl⟩
    · split
      · exact ⟨rfl, rfl, rfl, rfl, rfl⟩
      · split
        · unfold State.sendReport
          split
          · exact .refl s
          · cases i <;> exact ⟨rfl, rfl, rfl, rfl, rfl⟩
        · unfold State.sendTrace
          split
          · exact ⟨rfl, rfl, rfl, rfl, rfl⟩
          · exact .refl s

theorem State.transmitBoth_leaves (s : State) : Leaves s s.transmitBoth :=
  (State.transmit_leaves .control s).trans (State.transmit_leaves .service _)

/-- The end of an event leaves the state of its work. -/
theorem Ev.finish_leaves (w : Ev) : Leaves w.s w.finish := by
  refine Leaves.trans (t := { w.s with
    control := w.s.control.postAll w.posts
    service := w.s.service.postAll w.posts
    trace := (traceOrder w.traces).foldl (fun t r => t.take r) w.s.trace }) ?_ (State.transmitBoth_leaves _)
  exact ⟨rfl, Port.postAll_sendsOnly _ _, Port.postAll_sendsOnly _ _, rfl, Trace.takeAll_masks _ _⟩

/-- An event leaves the state of its work. -/
theorem runEvent_leaves (f : Ev → Ev) (s : State) : Leaves (f ⟨s, [], []⟩).s (runEvent f s) := Ev.finish_leaves _

/-! ## Replies -/

/-- A transmitter's choice on one port does not touch the other port. -/
theorem State.transmit_other {i j : PortId} (s : State) (h : j ≠ i) : (s.transmit i).port j = s.port j := by
  unfold State.transmit
  split
  · rfl
  · split
    · simp [h]
    · split
      · rename_i hi
        have : i = .control := by revert hi; cases i <;> simp
        subst this
        cases j
        · exact absurd rfl h
        · rfl
      · split
        · unfold State.sendReport
          split
          · rfl
          · simp [h]
        · unfold State.sendTrace
          split
          · cases j
            · rfl
            · exact absurd rfl h
          · rfl

/-- A free transmitter with a reply waiting begins the reply at the head; a busy one goes on (R188). -/
theorem State.transmit_line (i : PortId) (s : State) (h : (s.port i).replies ≠ [] ∨ (s.port i).sending.isSome = true) :
    (((s.transmit i).port i).sending, ((s.transmit i).port i).replies) =
      match (s.port i).sending, (s.port i).replies with
      | some f, l => (some f, l)
      | none, [] => (none, [])
      | none, r :: rest => (some (frame replyKind r.tag r.body), rest) := by
  unfold State.transmit
  cases hs : (s.port i).sending with
  | some f => simp [hs]
  | none =>
    cases hr : (s.port i).replies with
    | nil => simp [hs, hr] at h
    | cons r rest => simp

/-- A reply placed on a port, and the event finished. -/
theorem Ev.finish_replies (i : PortId) (r : Reply) (s : State) (w : Ev) (h1 : (w.s.port i).sending = (s.port i).sending)
    (h2 : (w.s.port i).replies = (s.port i).replies) :
    Replies i r s ({ w with s := w.s.reply i r }).finish := by
  let v : State := { w.s.reply i r with
    control := (w.s.reply i r).control.postAll w.posts
    service := (w.s.reply i r).service.postAll w.posts
    trace := (traceOrder w.traces).foldl (fun t r => t.take r) (w.s.reply i r).trace }
  have hv : (v.port i).sending = (s.port i).sending ∧ (v.port i).replies = (s.port i).replies ++ [r] := by
    cases i
    · obtain ⟨a, b⟩ := Port.postAll_line w.posts (w.s.reply .control r).control
      exact ⟨a.trans h1, b.trans (congrArg (· ++ [r]) h2)⟩
    · obtain ⟨a, b⟩ := Port.postAll_line w.posts (w.s.reply .service r).service
      exact ⟨a.trans h1, b.trans (congrArg (· ++ [r]) h2)⟩
  have key : ∀ u : State, (u.port i).sending = (s.port i).sending → (u.port i).replies = (s.port i).replies ++ [r] →
      (((u.transmit i).port i).sending, ((u.transmit i).port i).replies) = (s.port i).withReply r := by
    intro u h3 h4
    rw [State.transmit_line i u (.inl (by rw [h4]; simp)), h3, h4]
    unfold Port.withReply
    cases (s.port i).sending with
    | some f => rfl
    | none => cases (s.port i).replies <;> rfl
  have hf : ({ w with s := w.s.reply i r } : Ev).finish = (v.transmit .control).transmit .service := rfl
  unfold Replies
  rw [hf]
  cases i with
  | control =>
    rw [State.transmit_other (i := .service) _ (by simp)]
    exact key v hv.1 hv.2
  | service =>
    have e : (v.transmit .control).port .service = v.port .service := State.transmit_other _ (by simp)
    exact key _ (by rw [e]; exact hv.1) (by rw [e]; exact hv.2)

/-! ## Commands taken -/

theorem State.reply_leaves (i : PortId) (r : Reply) (s : State) : Leaves s (s.reply i r) := by
  cases i <;> exact ⟨rfl, rfl, rfl, rfl, rfl⟩

/-- An acceptance: the state of its work is left, and the reply is given. -/
theorem Answer.conclude_accepts (i : PortId) (kind tag : Byte) (s : State) (w : Ev) (d : List Byte)
    (h1 : (w.s.port i).sending = (s.port i).sending) (h2 : (w.s.port i).replies = (s.port i).replies) :
    Runs i kind tag (.accepted d) s w.s (Answer.conclude i kind tag s (accept w d)) :=
  ⟨(State.reply_leaves i _ w.s).trans (Ev.finish_leaves _), Ev.finish_replies i _ s w h1 h2⟩

/-- A refusal: nothing changes but for the reply. -/
theorem Answer.conclude_refuses (i : PortId) (kind tag : Byte) (s : State) (c : RefusalCode) (d : List Byte) :
    Runs i kind tag (.refused c d) s s (Answer.conclude i kind tag s (refuse c d)) :=
  ⟨(State.reply_leaves i _ s).trans (Ev.finish_leaves _), Ev.finish_replies i _ s ⟨s, [], []⟩ rfl rfl⟩

/-- A command frame that passes the port checks and is accepted. -/
theorem takeCommand_accepts {kind : Byte} {pm : Permitted} {fits : Nat → Bool} {act : List Byte → Ev → Answer}
    {i : PortId} {tag : Byte} {body : List Byte} {s : State} {w : Ev} {d : List Byte}
    (h4 : (s.port i).replies.length < 4) (hp : pm.on i = true) (hf : fits body.length = true)
    (ha : act body ⟨s.frameTaken i, [], []⟩ = accept w d)
    (h1 : (w.s.port i).sending = ((s.frameTaken i).port i).sending)
    (h2 : (w.s.port i).replies = ((s.frameTaken i).port i).replies) :
    Runs i kind tag (.accepted d) (s.frameTaken i) w.s (takeCommand kind pm fits act i tag body s) := by
  have hn : ¬ 4 ≤ ((s.frameTaken i).port i).replies.length := by
    have e : ((s.frameTaken i).port i).replies = (s.port i).replies := by cases i <;> rfl
    rw [e]; omega
  unfold takeCommand
  dsimp only
  rw [if_neg hn, hp, hf, ha]
  exact Answer.conclude_accepts i kind tag _ w d h1 h2

/-- A command frame that passes the port checks and is refused by its block. -/
theorem takeCommand_refuses {kind : Byte} {pm : Permitted} {fits : Nat → Bool} {act : List Byte → Ev → Answer}
    {i : PortId} {tag : Byte} {body : List Byte} {s : State} {c : RefusalCode} {d : List Byte}
    (h4 : (s.port i).replies.length < 4) (hp : pm.on i = true) (hf : fits body.length = true)
    (ha : act body ⟨s.frameTaken i, [], []⟩ = refuse c d) :
    Runs i kind tag (.refused c d) (s.frameTaken i) (s.frameTaken i)
      (takeCommand kind pm fits act i tag body s) := by
  have hn : ¬ 4 ≤ ((s.frameTaken i).port i).replies.length := by
    have e : ((s.frameTaken i).port i).replies = (s.port i).replies := by cases i <;> rfl
    rw [e]; omega
  unfold takeCommand
  dsimp only
  rw [if_neg hn, hp, hf, ha]
  exact Answer.conclude_refuses i kind tag _ c d

/-- A command frame on a port where its command is not permitted. -/
theorem takeCommand_wrongPort {kind : Byte} {pm : Permitted} {fits : Nat → Bool} {act : List Byte → Ev → Answer}
    {i : PortId} {tag : Byte} {body : List Byte} {s : State}
    (h4 : (s.port i).replies.length < 4) (hp : pm.on i = false) :
    Runs i kind tag (.refused .notPermittedOnPort []) (s.frameTaken i) (s.frameTaken i)
      (takeCommand kind pm fits act i tag body s) := by
  have hn : ¬ 4 ≤ ((s.frameTaken i).port i).replies.length := by
    have e : ((s.frameTaken i).port i).replies = (s.port i).replies := by cases i <;> rfl
    rw [e]; omega
  unfold takeCommand
  dsimp only
  rw [if_neg hn, hp]
  exact Answer.conclude_refuses i kind tag _ _ _

/-- A command frame whose body has a wrong length. -/
theorem takeCommand_badLength {kind : Byte} {pm : Permitted} {fits : Nat → Bool} {act : List Byte → Ev → Answer}
    {i : PortId} {tag : Byte} {body : List Byte} {s : State}
    (h4 : (s.port i).replies.length < 4) (hp : pm.on i = true) (hf : fits body.length = false) :
    Runs i kind tag (.refused .badLength []) (s.frameTaken i) (s.frameTaken i)
      (takeCommand kind pm fits act i tag body s) := by
  have hn : ¬ 4 ≤ ((s.frameTaken i).port i).replies.length := by
    have e : ((s.frameTaken i).port i).replies = (s.port i).replies := by cases i <;> rfl
    rw [e]; omega
  unfold takeCommand
  dsimp only
  rw [if_neg hn, hp, hf]
  exact Answer.conclude_refuses i kind tag _ _ _

/-- A command frame that finds four replies waiting is discarded, and raises the overrun tally alone. -/
theorem takeCommand_overrun {kind : Byte} {pm : Permitted} {fits : Nat → Bool} {act : List Byte → Ev → Answer}
    {i : PortId} {tag : Byte} {body : List Byte} {s : State} (h4 : 4 ≤ (s.port i).replies.length) :
    Leaves ((s.frameTaken i).overrun i) (takeCommand kind pm fits act i tag body s) := by
  have hn : 4 ≤ ((s.frameTaken i).port i).replies.length := by
    have e : ((s.frameTaken i).port i).replies = (s.port i).replies := by cases i <;> rfl
    rw [e]; exact h4
  unfold takeCommand
  dsimp only
  rw [if_pos hn]
  exact runEvent_leaves _ _

/-! ## The end of an event's work depends on the state alone -/

/-- Two pieces of work on one state that post differently. -/
def Ev.Same (v w : Ev) : Prop := v.s = w.s

theorem Ev.Same.onPoint {v w : Ev} (h : v.Same w) (p : PointId) (f : Point → Point) :
    (v.onPoint p f).Same (w.onPoint p f) := by unfold Ev.Same at *; rw [Ev.onPoint_s, Ev.onPoint_s, h]

theorem Ev.Same.onDevice {v w : Ev} (h : v.Same w) (f : Device → Device) : (v.onDevice f).Same (w.onDevice f) := by
  unfold Ev.Same at *; rw [Ev.onDevice_s, Ev.onDevice_s, h]

theorem Ev.Same.onProofs {v w : Ev} (h : v.Same w) (c : Option Proof) (q : List SystemId) :
    (v.onProofs c q).Same (w.onProofs c q) := by unfold Ev.Same at *; simp [h]

theorem Ev.Same.foldl {α : Type} {f : Ev → α → Ev} (hf : ∀ v w x, Ev.Same v w → (f v x).Same (f w x)) (l : List α)
    {v w : Ev} (h : v.Same w) : (l.foldl f v).Same (l.foldl f w) := by
  induction l generalizing v w with
  | nil => exact h
  | cons x l ih => exact ih (hf v w x h)

theorem Ev.Same.applyStaged {v w : Ev} (h : v.Same w) : v.applyStaged.Same w.applyStaged := by
  refine Ev.Same.foldl (fun v w p h => ?_) _ h
  have e : pairApplicable v.s p = pairApplicable w.s p := by rw [h]
  rw [e]
  split
  · exact h.onPoint _ _
  · exact h

theorem Ev.Same.takeProof {v w : Ev} (h : v.Same w) : v.takeProof.Same w.takeProof := by
  unfold Ev.takeProof
  rw [show v.s = w.s from h]
  split
  · exact h
  · split
    · exact h
    · exact h.onProofs _ _

theorem Ev.Same.choose {v w : Ev} (h : v.Same w) : v.choose.Same w.choose := by unfold Ev.Same at *; simp [h]

theorem Ev.Same.settleProofs {v w : Ev} (h : v.Same w) : v.settleProofs.Same w.settleProofs := by
  unfold Ev.settleProofs
  rw [show v.s = w.s from h]
  split
  · split
    · exact h.choose.applyStaged.takeProof
    · exact h.choose.takeProof.applyStaged.takeProof
  · exact h.applyStaged.takeProof

theorem Ev.Same.settleActivity {v w : Ev} (h : v.Same w) : v.settleActivity.Same w.settleActivity := by
  have he : v.endActivity.Same w.endActivity := by
    unfold Ev.Same Ev.endActivity at *; simp [h]
  unfold Ev.settleActivity
  rw [show v.s = w.s from h]
  split
  · exact h
  · split
    · exact he.onDevice _
    · exact h
  · split
    · exact he.onDevice _
    · exact h
  · split
    · exact he
    · exact h

/-- The work of an event, settled, is the settled state of the work. -/
theorem Ev.settle_s (w : Ev) : w.settle.s = w.s.settled :=
  Ev.Same.settleActivity (Ev.Same.settleProofs (v := w) (w := ⟨w.s, [], []⟩) rfl)

/-- An event whose work is settled leaves the settled state. -/
theorem runEvent_settled (f : Ev → Ev) (s : State) :
    Leaves (f ⟨s, [], []⟩).s.settled (runEvent (fun w => (f w).settle) s) := by
  rw [← Ev.settle_s]; exact runEvent_leaves _ _

/-! ## Notices depend on the state alone -/

theorem Ev.Same.onSection {v w : Ev} (h : v.Same w) (n : SectionId) (f : SectionRecord → SectionRecord) :
    (v.onSection n f).Same (w.onSection n f) := by unfold Ev.Same at *; rw [Ev.onSection_s, Ev.onSection_s, h]

theorem Ev.Same.onGroup {v w : Ev} (h : v.Same w) (g : GroupId) (f : Group → Group) :
    (v.onGroup g f).Same (w.onGroup g f) := by unfold Ev.Same at *; rw [Ev.onGroup_s, Ev.onGroup_s, h]

theorem Ev.Same.onView {v w : Ev} (h : v.Same w) (p : PointId) (f : PointView → PointView) :
    (v.onView p f).Same (w.onView p f) := by unfold Ev.Same at *; simp [h]

theorem Ev.Same.atSections {v w : Ev} (h : v.Same w) (p : PointId)
    (f : State → SectionId → SectionRecord → SectionRecord) : (v.atSections p f).Same (w.atSections p f) := by
  unfold Ev.atSections
  rw [show v.s = w.s from h]
  refine Ev.Same.foldl (fun v w n h => ?_) _ h
  rw [show v.s = w.s from h]
  exact h.onSection n _

theorem Ev.pointActive_s (p : PointId) (w : Ev) : (w.pointActive p).s = w.s.sendActive p :=
  ((show Ev.Same w ⟨w.s, [], []⟩ from rfl).onView p _).atSections p settleAt

theorem Ev.pointQuiet_s (p : PointId) (w : Ev) : (w.pointQuiet p).s = w.s.sendQuiet p :=
  ((show Ev.Same w ⟨w.s, [], []⟩ from rfl).onView p _).atSections p settleAt

theorem Ev.proofOverdue_s (p : PointId) (w : Ev) : (w.proofOverdue p).s = w.s.sendOverdue p :=
  ((show Ev.Same w ⟨w.s, [], []⟩ from rfl).onView p _).atSections p _

theorem Ev.proofCurrent_s (p : PointId) (w : Ev) : (w.proofCurrent p).s = w.s.sendCurrent p :=
  ((show Ev.Same w ⟨w.s, [], []⟩ from rfl).onView p _).atSections p _

theorem Ev.disturbAll_s (p : PointId) (c : Cause) (w : Ev) : (w.disturbAll p c).s = w.s.sendDisturbance p c :=
  (show Ev.Same w ⟨w.s, [], []⟩ from rfl).atSections p _

/-! ## Settling touches no port -/

theorem State.settled_fixed (s : State) :
    s.settled.now = s.now ∧ s.settled.control = s.control ∧ s.settled.service = s.service ∧ s.settled.link = s.link ∧
      s.settled.trace = s.trace := by
  have h := (Ev.settle_works ⟨s, [], []⟩).fixed
  exact ⟨h.1, h.2.2.2.2.1, h.2.2.2.2.2.1, h.2.2.2.2.2.2.1, h.2.2.2.2.2.2.2⟩

theorem State.settled_port (i : PortId) (s : State) : s.settled.port i = s.port i := by
  cases i
  · exact s.settled_fixed.2.1
  · exact s.settled_fixed.2.2.1

/-! ## Commands: a shorter form -/

theorem State.frameTaken_line (i : PortId) (s : State) :
    ((s.frameTaken i).port i).replies = (s.port i).replies ∧ ((s.frameTaken i).port i).sending = (s.port i).sending := by
  cases i <;> exact ⟨rfl, rfl⟩

/-- An accepted command that touches neither the line nor the FIFO of its port before its reply. -/
theorem takeCommand_runs {kind : Byte} {pm : Permitted} {fits : Nat → Bool} {act : List Byte → Ev → Answer}
    {i : PortId} {tag : Byte} {body : List Byte} {s : State} {expected : State} {d : List Byte}
    (h4 : (s.port i).replies.length < 4) (hp : pm.on i = true) (hf : fits body.length = true)
    (ha : ∃ w : Ev, act body ⟨s.frameTaken i, [], []⟩ = accept w d ∧ w.s = expected)
    (h1 : (expected.port i).sending = ((s.frameTaken i).port i).sending)
    (h2 : (expected.port i).replies = ((s.frameTaken i).port i).replies) :
    Runs i kind tag (.accepted d) (s.frameTaken i) expected (takeCommand kind pm fits act i tag body s) := by
  obtain ⟨w, hw, rfl⟩ := ha
  exact takeCommand_accepts h4 hp hf hw h1 h2

/-- The same for a command whose work is settled. -/
theorem takeCommand_settled {kind : Byte} {pm : Permitted} {fits : Nat → Bool} {act : List Byte → Ev → Answer}
    {i : PortId} {tag : Byte} {body : List Byte} {s : State} {expected : State} {d : List Byte}
    (h4 : (s.port i).replies.length < 4) (hp : pm.on i = true) (hf : fits body.length = true)
    (ha : ∃ w : Ev, act body ⟨s.frameTaken i, [], []⟩ = accept w.settle d ∧ w.s = expected)
    (h1 : expected.port i = (s.frameTaken i).port i) :
    Runs i kind tag (.accepted d) (s.frameTaken i) expected.settled (takeCommand kind pm fits act i tag body s) := by
  obtain ⟨w, hw, rfl⟩ := ha
  refine takeCommand_runs h4 hp hf ⟨_, hw, Ev.settle_s w⟩ ?_ ?_ <;> rw [State.settled_port, h1]

/-! ## Indices read back -/

theorem sectionIndex_ofNat (n : SectionId) : sectionIndex (BitVec.ofNat 8 n.val) = some n := by revert n; decide
theorem pointIndex_ofNat (p : PointId) : pointIndex (BitVec.ofNat 8 p.val) = some p := by revert p; decide
theorem groupIndex_ofNat (g : GroupId) : groupIndex (BitVec.ofNat 8 g.val) = some g := by revert g; decide

end Sys2Proof.Machine
end

