-- ==== Sys2Proof/Laws/Moves.lean ====
section
/-! SUPPORT. Laws/Moves.lean: what the meaning of each command can do, said once: unless the command is RESET, a command that
answers a next state leads there by a sequence of moves (`exec_moves`), each a `Change` of the records or one of the
listed changes of a port, the link or the trace. -/

namespace Sys2Proof.Machine

/-! ## The changes of the ports, the link and the trace -/

/-- The changes of a port. -/
inductive PortStep (q : Port) : Port → Prop
  | post (x : Subject) (n : Nat) (h : 1 ≤ n) : PortStep q (q.post x n)
  | taken : PortStep q { q with assembly := .hunting, gapTimer := none }
  | await (now : Time) (a : Assembly) : PortStep q (q.await now a)
  | discard : PortStep q q.discardFrame
  | overrun : PortStep q { q with overruns := raise q.overruns }
  | reply (r : Reply) (h : q.replies.length < 4) : PortStep q { q with replies := q.replies ++ [r] }
  | sendReply (r : Reply) (rest : List Reply) (f : Option (List Byte)) (h : q.replies = r :: rest) :
      PortStep q { q with replies := rest, sending := f }
  | sendUnasked (kind : Byte) (body : List Byte) : PortStep q (q.sendUnasked kind body)
  | sendReport (e : ReportEntry) (rest : List ReportEntry) (body : List Byte) (h : q.queue = e :: rest) :
      PortStep q ({ q with queue := rest, tokens := q.tokens - 1 }.sendUnasked reportKind body)
  | freed : PortStep q { q with sending := none }
  | refill : PortStep q q.refill
  | mask (m : ClassMask) : PortStep q (q.setMask m)
  | pacing (now : Time) (b r : Nat) (hb : burstRange.holds b = true) (hr : refillRange.holds r = true) :
      PortStep q (q.setPacing now b r)

/-- The changes of the control port's timers and link. -/
inductive LinkStep (l : Link) : Link → Prop
  | frame (now : Time) : LinkStep l (l.frameTaken now)
  | imageSent : LinkStep l { l with imageDue := false }
  | imageExpiry : LinkStep l l.imageExpiry
  | down (h : l.timer.isSome = true) : LinkStep l l.goDown
  | imagePeriod (now : Time) (p : Nat) (h : imagePeriodRange.holds p = true) : LinkStep l (l.setImagePeriod now p)
  | timeout (now : Time) (t : Nat) (h : t = 0 ∨ 100 ≤ t ∧ t ≤ 10000) : LinkStep l (l.setTimeout now t)

/-- The changes of the trace. -/
inductive TraceStep (t : Trace) : Trace → Prop
  | take (r : TraceRecord) : TraceStep t (t.take r)
  | sent (r : TraceRecord) (rest : List TraceRecord) (h : t.buffer = r :: rest) :
      TraceStep t { t with buffer := rest }
  | masks (p : Nat) (k : Byte) (n : Nat) : TraceStep t (t.setMasks p k n)

/-- One move of the part. -/
inductive Move (s : State) : State → Prop
  | work (t : State) (h : Work s t) : Move s t
  | port (i : PortId) (q : Port) (h : PortStep (s.port i) q) : Move s (s.onPort i (fun _ => q))
  | link (l : Link) (h : LinkStep s.link l) : Move s { s with link := l }
  | trace (t : Trace) (h : TraceStep s.trace t) : Move s { s with trace := t }

/-- A sequence of moves. -/
abbrev Moves : State → State → Prop := Relation.ReflTransGen Move

theorem Moves.refl {s : State} : Moves s s := Relation.ReflTransGen.refl
theorem Moves.trans {s t u : State} (h : Moves s t) (h' : Moves t u) : Moves s u := Relation.ReflTransGen.trans h h'
theorem Move.moves {s t : State} (h : Move s t) : Moves s t := Relation.ReflTransGen.single h

theorem Works.moves {s t : State} (h : Works s t) : Moves s t := by
  induction h with
  | refl => exact .refl
  | tail _ h ih => exact ih.trans (Move.work _ h).moves

theorem Changes.moves {s t : State} (h : Changes s t) : Moves s t := h.works.moves

/-- A property that every move keeps is kept by a sequence of moves. -/
theorem Moves.keeps {P : State → Prop} (hP : ∀ s t, Move s t → P s → P t) {s t : State} (h : Moves s t) (hs : P s) :
    P t := by
  induction h with
  | refl => exact hs
  | tail _ h ih => exact hP _ _ h ih

/-- What no move touches. -/
theorem Moves.fixed {s t : State} (h : Moves s t) :
    t.now = s.now ∧ t.sampleDue = s.sampleDue ∧ t.straps = s.straps ∧ t.pending = s.pending := by
  induction h with
  | refl => simp
  | tail _ h ih =>
    cases h with
    | work _ h =>
      obtain ⟨h1, h2, h3, h4, _⟩ := Works.fixed (Relation.ReflTransGen.single h)
      exact ⟨h1.trans ih.1, h2.trans ih.2.1, h3.trans ih.2.2.1, h4.trans ih.2.2.2⟩
    | port i q h => simpa using ih
    | link l h => simpa using ih
    | trace t h => simpa using ih

theorem State.onPort_moves (i : PortId) (f : Port → Port) (s : State) (h : PortStep (s.port i) (f (s.port i))) :
    Moves s (s.onPort i f) := by
  have e : s.onPort i f = s.onPort i (fun _ => f (s.port i)) := by cases i <;> rfl
  rw [e]; exact (Move.port i _ h).moves

/-! ## The end of an event -/

theorem Port.postAll_steps (posts : List Subject) (l : List Subject) (q : Port) :
    Relation.ReflTransGen PortStep q
      (l.foldl (fun q x => if posts.contains x then q.post x (posts.count x) else q) q) := by
  induction l generalizing q with
  | nil => exact .refl
  | cons x l ih =>
    refine Relation.ReflTransGen.trans ?_ (ih _)
    dsimp only
    split
    · rename_i h
      exact Relation.ReflTransGen.single (.post x _ (List.count_pos_iff.mpr (by simpa using h)))
    · exact .refl

theorem State.port_steps_moves (i : PortId) (s : State) {q : Port} (h : Relation.ReflTransGen PortStep (s.port i) q) :
    Moves s (s.onPort i (fun _ => q)) := by
  induction h with
  | refl => exact Relation.ReflTransGen.refl.trans (by
      have : s.onPort i (fun _ => s.port i) = s := by cases i <;> rfl
      rw [this])
  | @tail b c _ h ih =>
    refine ih.trans ?_
    have e : s.onPort i (fun _ => c) = (s.onPort i (fun _ => b)).onPort i (fun _ => c) := by cases i <;> rfl
    rw [e]
    exact (Move.port i _ (by simpa using h)).moves

theorem State.trace_steps_moves (s : State) (l : List TraceRecord) (t : Trace) :
    Moves { s with trace := t } { s with trace := l.foldl (fun t r => t.take r) t } := by
  induction l generalizing t with
  | nil => exact .refl
  | cons r l ih => exact (Move.trace (s := { s with trace := t }) _ (.take r)).moves.trans (ih _)

theorem State.transmit_moves (i : PortId) (s : State) : Moves s (s.transmit i) := by
  have htrace : Moves s (s.sendTrace i) := by
    unfold State.sendTrace
    split
    · rename_i r rest hb
      refine Moves.trans (Move.port .service _ (.sendUnasked traceKind (traceBody r))).moves ?_
      exact (Move.trace (s := { s with service := s.service.sendUnasked traceKind (traceBody r) }) _
        (.sent r rest hb)).moves
    · exact .refl
  unfold State.transmit
  split
  · exact .refl
  · split
    · rename_i r rest hr
      exact State.onPort_moves i _ s (.sendReply r rest _ hr)
    · split
      · refine Moves.trans (Move.port .control _ (.sendUnasked statusKind (statusBody s))).moves ?_
        exact (Move.link (s := { s with control := s.control.sendUnasked statusKind (statusBody s) }) _
          .imageSent).moves
      · split
        · unfold State.sendReport
          split
          · exact .refl
          · rename_i e rest he
            exact State.onPort_moves i _ s (.sendReport e rest _ he)
        · exact htrace

theorem State.transmitBoth_moves (s : State) : Moves s s.transmitBoth :=
  (State.transmit_moves .control s).trans (State.transmit_moves .service _)

theorem Ev.finish_moves (w : Ev) : Moves w.s w.finish := by
  unfold Ev.finish
  refine Moves.trans ?_ (State.transmitBoth_moves _)
  refine Moves.trans (State.port_steps_moves .control w.s (Port.postAll_steps w.posts allSubjects _)) ?_
  refine Moves.trans (State.port_steps_moves .service _ (Port.postAll_steps w.posts allSubjects _)) ?_
  let s' : State := { w.s with control := w.s.control.postAll w.posts, service := w.s.service.postAll w.posts }
  exact State.trace_steps_moves s' (traceOrder w.traces) w.s.trace

theorem runEvent_moves (f : Ev → Ev) (s : State) (h : Moves s (f ⟨s, [], []⟩).s) : Moves s (runEvent f s) :=
  h.trans (Ev.finish_moves _)

/-! ## Commands -/

theorem State.frameTaken_moves (i : PortId) (s : State) : Moves s (s.frameTaken i) := by
  cases i with
  | control =>
    exact (Move.port .control _ .taken).moves.trans
      (Move.link (s := { s with control := { s.control with assembly := .hunting, gapTimer := none } }) _
        (.frame s.now)).moves
  | service => exact (Move.port .service _ .taken).moves

@[simp] theorem State.frameTaken_replies (i j : PortId) (s : State) :
    ((s.frameTaken i).port j).replies = (s.port j).replies := by cases i <;> cases j <;> rfl

theorem State.reply_moves (i : PortId) (r : Reply) (s : State) (h : (s.port i).replies.length < 4) :
    Moves s (s.reply i r) :=
  State.onPort_moves i (fun q => { q with replies := q.replies ++ [r] }) s (.reply r h)

/-- An answer of a command: its changes are moves, and no reply joins or leaves the FIFO before the reply to it. -/
def Answer.Good (i : PortId) (s : State) (a : Answer) : Prop :=
  ∀ w d, a = .ok (w, d) → Moves s w.s ∧ (w.s.port i).replies = (s.port i).replies

theorem Answer.conclude_moves (i : PortId) (kind tag : Byte) (s : State) (a : Answer)
    (h4 : (s.port i).replies.length < 4) (h : a.Good i s) : Moves s (Answer.conclude i kind tag s a) := by
  cases a with
  | ok x =>
    obtain ⟨w, d⟩ := x
    obtain ⟨hm, hr⟩ := h w d rfl
    exact hm.trans ((State.reply_moves i ⟨kind, tag, .accepted d⟩ w.s (by rw [hr]; exact h4)).trans
      (Ev.finish_moves { w with s := w.s.reply i ⟨kind, tag, .accepted d⟩ }))
  | error x =>
    obtain ⟨c, d⟩ := x
    exact (State.reply_moves i ⟨kind, tag, .refused c d⟩ s h4).trans
      (Ev.finish_moves ⟨s.reply i ⟨kind, tag, .refused c d⟩, [], []⟩)

theorem Answer.good_require {i : PortId} {s : State} {b : Bool} {c : RefusalCode} {d : List Byte} {a : Answer}
    (h : a.Good i s) : Answer.Good i s (require b c d a) := by
  intro w e he
  unfold require at he
  split at he
  · exact h w e he
  · cases he

theorem Answer.good_refuse {i : PortId} {s : State} {c : RefusalCode} {d : List Byte} :
    Answer.Good i s (refuse c d) := fun _ _ h => by cases h

theorem Answer.good_withArgument {i : PortId} {s : State} {α : Type} {x : Option α} {f : α → Answer}
    (h : ∀ a, (f a).Good i s) : Answer.Good i s (withArgument x f) := by
  cases x with
  | none => exact Answer.good_refuse
  | some a => exact h a

/-- An acceptance whose work touches no port. -/
theorem Answer.good_works {i : PortId} {s : State} {w : Ev} {d : List Byte} (h : Works s w.s) :
    Answer.Good i s (accept w d) := by
  intro v e he
  cases he
  refine ⟨h.moves, ?_⟩
  cases i
  · exact congrArg Port.replies h.fixed.2.2.2.2.1
  · exact congrArg Port.replies h.fixed.2.2.2.2.2.1

theorem Answer.good_accept {i : PortId} {s : State} {w : Ev} {d : List Byte} (h : Changes s w.s) :
    Answer.Good i s (accept w d) := Answer.good_works h.works

/-- An acceptance whose work is a sequence of changes, settled. -/
theorem Answer.good_settled {i : PortId} {s : State} {w : Ev} {d : List Byte} (h : Changes s w.s) :
    Answer.Good i s (accept w.settle d) := Answer.good_works (h.works.trans (Ev.settle_works w))

theorem takeCommand_moves (kind : Byte) (pm : Permitted) (fits : Nat → Bool) (act : List Byte → Ev → Answer)
    (i : PortId) (tag : Byte) (body : List Byte) (s : State)
    (h : ∀ s, (act body ⟨s, [], []⟩).Good i s) : Moves s (takeCommand kind pm fits act i tag body s) := by
  unfold takeCommand
  dsimp only
  split
  · refine (State.frameTaken_moves i s).trans (runEvent_moves _ _ ?_ |> Moves.trans (State.onPort_moves i _ _ .overrun))
    exact .refl
  · rename_i h4
    refine (State.frameTaken_moves i s).trans (Answer.conclude_moves _ _ _ _ _ (by omega) ?_)
    exact Answer.good_require (Answer.good_require (h _))

/-! ## Section commands -/

theorem actRestoreSection_good (i : PortId) (body : List Byte) (s : State) :
    (actRestoreSection body ⟨s, [], []⟩).Good i s := by
  unfold actRestoreSection
  split
  · unfold require
    split
    · rename_i hd
      refine Answer.good_withArgument fun n => Answer.good_withArgument fun k => ?_
      unfold restoreChecked
      dsimp only
      unfold require
      split
      · rename_i hs
        refine Answer.good_require ?_
        split
        · exact Answer.good_refuse
        · split
          · exact Answer.good_refuse
          · split
            · exact Answer.good_refuse
            · split
              · exact Answer.good_accept (Ev.onSection_changes (w := ⟨s, [], []⟩)
                  (.restore _ _ (by simpa using hd) (by simpa using hs)))
              · exact Answer.good_refuse
      · exact Answer.good_refuse
    · exact Answer.good_refuse
  · exact Answer.good_refuse

theorem actCancelRestore_good (i : PortId) (body : List Byte) (s : State) :
    (actCancelRestore body ⟨s, [], []⟩).Good i s := by
  unfold actCancelRestore
  split
  · exact Answer.good_withArgument fun n => Answer.good_require
      (Answer.good_accept (Ev.onSection_changes (w := ⟨s, [], []⟩) (.disturb _)))
  · exact Answer.good_refuse

theorem actDisturbSection_good (i : PortId) (body : List Byte) (s : State) :
    (actDisturbSection body ⟨s, [], []⟩).Good i s := by
  unfold actDisturbSection
  split
  · exact Answer.good_withArgument fun n => Answer.good_require
      (Answer.good_accept (Ev.onSection_changes (w := ⟨s, [], []⟩) (.disturb _)))
  · exact Answer.good_refuse

theorem actSetSectionParameters_good (i : PortId) (body : List Byte) (s : State) :
    (actSetSectionParameters body ⟨s, [], []⟩).Good i s := by
  have h : ∀ n d h p, (sectionParamsChecked n d h p ⟨s, [], []⟩).Good i s := fun n d h p =>
    Answer.good_accept (Ev.onSection_changes (w := ⟨s, [], []⟩) (.params _ _ _ _))
  unfold actSetSectionParameters
  split
  · refine Answer.good_require (Answer.good_withArgument fun n => ?_)
    split
    · exact h _ _ _ _
    · exact Answer.good_require (h _ _ _ _)
  · exact Answer.good_refuse

theorem actQuerySections_good (i : PortId) (body : List Byte) (s : State) :
    (actQuerySections body ⟨s, [], []⟩).Good i s := by
  unfold actQuerySections
  split
  · exact Answer.good_withArgument fun n => Answer.good_accept .refl
  · exact Answer.good_refuse

/-! ## Point commands -/

theorem actSetTopology_good (i : PortId) (body : List Byte) (s : State) :
    (actSetTopology body ⟨s, [], []⟩).Good i s := by
  unfold actSetTopology
  refine Answer.good_require ?_
  split
  · exact Answer.good_refuse
  · exact Answer.good_require (Answer.good_withArgument fun l => Answer.good_require
      (Answer.good_accept (Ev.setTopology_changes _ ⟨s, [], []⟩)))

theorem actSetPointMode_good (i : PortId) (body : List Byte) (s : State) :
    (actSetPointMode body ⟨s, [], []⟩).Good i s := by
  have h1 : ∀ p m, (modeReply p ((⟨s, [], []⟩ : Ev).changeMode p m).settle).Good i s := fun p m =>
    Answer.good_settled (Ev.changeMode_changes p m ⟨s, [], []⟩)
  have h2 : ∀ p, (modeReply p ⟨s, [], []⟩).Good i s := fun p => Answer.good_accept .refl
  unfold actSetPointMode
  split
  · refine Answer.good_require (Answer.good_withArgument fun p => Answer.good_withArgument fun m => ?_)
    split
    · exact Answer.good_accept (Ev.onPoint_changes (w := ⟨s, [], []⟩) (.startMode m))
    · unfold changeModeCommand
      split
      · exact h2 p
      · exact h2 p
      · exact h2 p
      · exact h1 p _
      · exact h1 p _
      · exact h1 p _
      · exact h1 p _
      · exact Answer.good_require (Answer.good_require (Answer.good_require
          (Answer.good_accept (Ev.changeMode_changes p _ ⟨s, [], []⟩))))
      · exact Answer.good_refuse
  · exact Answer.good_refuse

theorem actSetPointParameters_good (i : PortId) (body : List Byte) (s : State) :
    (actSetPointParameters body ⟨s, [], []⟩).Good i s := by
  unfold actSetPointParameters
  split
  · refine Answer.good_require (Answer.good_withArgument fun p => ?_)
    unfold pointParamsChecked
    dsimp only
    split
    · exact Answer.good_settled (Ev.onPoint_changes (w := ⟨s, [], []⟩) (.pair _ _))
    · exact Answer.good_accept (Ev.onPoint_changes (w := ⟨s, [], []⟩) (.pair (s.point p).params _))
  · exact Answer.good_refuse

theorem Ev.clearFault_changes (p : PointId) (w : Ev) : Changes w.s (w.clearFault p).s := by
  have h : Changes w.s (w.onPoint p Point.clearFault).s := Ev.onPoint_changes .cleared
  have h1 : ∀ (b : Bool) (v : Ev), Changes v.s (if b && lit v.s p then v.initialise p else v).s := fun b v => by
    split
    · exact Ev.initialise_changes _ _
    · exact .refl
  have h2 : ∀ v : Ev, Changes v.s (if lit v.s p then v.gainEligibility p else v).s := fun v => by
    split
    · exact Ev.gainEligibility_changes _ _
    · exact .refl
  exact (h.trans (h1 _ _)).trans (h2 _)

theorem actClearPointFault_good (i : PortId) (body : List Byte) (s : State) :
    (actClearPointFault body ⟨s, [], []⟩).Good i s := by
  unfold actClearPointFault
  split
  · exact Answer.good_require (Answer.good_withArgument fun p => Answer.good_require
      (Answer.good_settled (Ev.clearFault_changes p ⟨s, [], []⟩)))
  · exact Answer.good_refuse

theorem actQueryPoints_good (i : PortId) (body : List Byte) (s : State) :
    (actQueryPoints body ⟨s, [], []⟩).Good i s := by
  unfold actQueryPoints
  split
  · exact Answer.good_withArgument fun n => Answer.good_accept .refl
  · exact Answer.good_refuse

/-! ## Supply commands -/

theorem Ev.retimeSettle_changes (t : Nat) (g : GroupId) (w : Ev) : Changes w.s (w.retimeSettle t g).s := by
  unfold Ev.retimeSettle
  split
  · rename_i ht
    split
    · exact Ev.enterReady_changes _ _
    · exact Ev.onGroup_changes (.retimed _ (by simp [ht]))
  · exact .refl

theorem Ev.setSupplyParams_changes (q : SupplyParams) (w : Ev) : Changes w.s (w.setSupplyParams q).s :=
  (Ev.onSequencer_changes _ w .inl).trans (Changes.foldl _ (fun v g => Ev.retimeSettle_changes _ g v) _ _)

theorem actSetSupplyParameters_good (i : PortId) (body : List Byte) (s : State) :
    (actSetSupplyParameters body ⟨s, [], []⟩).Good i s := by
  unfold actSetSupplyParameters
  split
  · exact Answer.good_require (Answer.good_settled (Ev.setSupplyParams_changes _ ⟨s, [], []⟩))
  · exact Answer.good_refuse

theorem actRecycleGroup_good (i : PortId) (body : List Byte) (s : State) :
    (actRecycleGroup body ⟨s, [], []⟩).Good i s := by
  unfold actRecycleGroup
  split
  · refine Answer.good_require (Answer.good_withArgument fun g => Answer.good_require (Answer.good_require ?_))
    refine Answer.good_settled (Changes.trans ?_ (Ev.leaveGroup_changes _ _ _ _ (.timed _ _ (by simp))))
    exact Ev.onSequencer_changes _ ⟨s, [], []⟩ (fun h => by cases h)
  · exact Answer.good_refuse

theorem actForceSupply_good (i : PortId) (body : List Byte) (s : State) :
    (actForceSupply body ⟨s, [], []⟩).Good i s := by
  unfold actForceSupply
  split
  · refine Answer.good_require (Answer.good_withArgument fun g => Answer.good_withArgument fun on => ?_)
    exact Answer.good_settled (Ev.leaveGroup_changes g _ _ ⟨s, [], []⟩ (.manual on))
  · exact Answer.good_refuse

theorem Ev.releaseGroup_changes (g : GroupId) (w : Ev) : Changes w.s (w.releaseGroup g).s := by
  unfold Ev.releaseGroup
  dsimp only
  split
  · split
    · exact Ev.enterSettling_changes _ _
    · exact Ev.onGroup_changes (.failed _)
  · split
    · exact Ev.onGroup_changes (.untimed .off (by simp))
    · exact Ev.onGroup_changes (.failed _)

theorem actReleaseSupply_good (i : PortId) (body : List Byte) (s : State) :
    (actReleaseSupply body ⟨s, [], []⟩).Good i s := by
  unfold actReleaseSupply
  split
  · exact Answer.good_require (Answer.good_withArgument fun g => Answer.good_require
      (Answer.good_settled (Ev.releaseGroup_changes g ⟨s, [], []⟩)))
  · exact Answer.good_refuse

/-! ## Parameters in range -/

theorem Range.holds_iff (r : Range) (v : Nat) : r.holds v = true ↔ r.lo ≤ v ∧ v ≤ r.hi := by simp [Range.holds]

theorem Range.clamp_holds (r : Range) (v : Nat) (h : r.lo ≤ r.hi) : r.holds (r.clamp v) = true := by
  rw [Range.holds_iff, Range.clamp, Machine.clamp]; omega

theorem ParamCode.range_order (c : ParamCode) : c.range.lo ≤ c.range.hi := by cases c <;> decide

/-- The range part of `DeviceParams.Ok`. -/
def DeviceParams.InRange (d : DeviceParams) : Prop := ∀ c : ParamCode, c.range.holds (d.get c) = true

theorem DeviceParams.get_put (d : DeviceParams) (c e : ParamCode) (v : Nat) :
    (d.put c v).get e = if e = c then v else d.get e := by cases c <;> cases e <;> rfl

theorem DeviceParams.put_inRange {d : DeviceParams} (h : d.InRange) (c : ParamCode) (v : Nat) :
    (d.put c (c.range.clamp v)).InRange := by
  intro e
  rw [DeviceParams.get_put]
  split
  · rename_i he; subst he; exact Range.clamp_holds _ _ (ParamCode.range_order _)
  · exact h e

theorem DeviceParams.ordered_ok {d : DeviceParams} (h : d.InRange) : d.ordered.Ok := by
  have hf : 2 ≤ d.fault ∧ d.fault ≤ 255 := (Range.holds_iff _ _).mp (h .fault)
  unfold DeviceParams.ordered
  split
  · refine ⟨fun c => ?_, by show d.fault - 1 < d.fault; omega⟩
    cases c
    case warnOn =>
      exact (Range.holds_iff _ _).mpr (show 1 ≤ d.fault - 1 ∧ d.fault - 1 ≤ 254 by omega)
    all_goals exact h _
  · exact ⟨h, by omega⟩

theorem DeviceParams.putAll_inRange {d : DeviceParams} (h : d.InRange) (l : List ParamItem) : (d.putAll l).InRange := by
  unfold DeviceParams.putAll
  induction l generalizing d with
  | nil => exact h
  | cons i l ih => exact ih (DeviceParams.put_inRange h _ _)

theorem DeviceParams.clamped_ok (d : DeviceParams) : d.clamped.Ok := by
  apply DeviceParams.ordered_ok
  intro c
  have : (allParams.foldl (fun d c => d.put c (c.range.clamp (d.get c))) d).get c = c.range.clamp (d.get c) := by
    cases c <;> rfl
  rw [this]
  exact Range.clamp_holds _ _ (ParamCode.range_order _)

/-! ## Device commands -/

theorem actSetDeviceParameters_good (i : PortId) (body : List Byte) (s : State) :
    (actSetDeviceParameters body ⟨s, [], []⟩).Good i s := by
  unfold actSetDeviceParameters
  refine Answer.good_require ?_
  split
  · exact Answer.good_refuse
  · refine Answer.good_require (Answer.good_withArgument fun l => Answer.good_require (Answer.good_settled ?_))
    exact Ev.setDeviceParams_changes _ _ ⟨s, [], []⟩
      (fun h => DeviceParams.ordered_ok (DeviceParams.putAll_inRange h.1 l))

theorem Ev.onDevice_works (f : Device → Device) (w : Ev)
    (h : (f w.s.device).state = w.s.device.state ∨
      (f w.s.device).state ≠ .running ∧ (w.s.device.state ≠ .running ∨ ∀ n, (w.s.sec n).state.trusted = false)) :
    Works w.s (w.onDevice f).s := by
  rw [Ev.onDevice_s]; exact .single (Work.device _ h)

theorem actStart_good (i : PortId) (body : List Byte) (s : State) : (actStart body ⟨s, [], []⟩).Good i s := by
  unfold actStart
  refine Answer.good_require ?_
  unfold require
  split
  · rename_i hd
    split
    · exact Answer.good_refuse
    · refine Answer.good_works (Works.trans (Works.trans ?_ (Ev.beginStart_changes _).works) (Ev.settle_works _))
      refine Ev.onDevice_works _ ⟨s, [], []⟩ (.inr ⟨by simp, .inl ?_⟩)
      have : s.device.state = .configuring := by simpa using hd
      simp [this]
  · exact Answer.good_refuse

theorem SectionRecord.disturb_untrusted (c : Cause) (r : SectionRecord) : (r.disturb c).state.trusted = false := by
  unfold SectionRecord.disturb
  split
  · rfl
  · rename_i h; simpa using h

/-- After the halt disturbance no section's count is trusted (R105). -/
theorem Ev.haltSections_untrusted (w : Ev) (n : SectionId) : (w.haltSections.s.sec n).state.trusted = false := by
  have hkeep : ∀ (l : List SectionId) (w : Ev) (n : SectionId), (w.s.sec n).state.trusted = false →
      ((l.foldl (fun w n => w.onSection n (SectionRecord.disturb .deviceHalt)) w).s.sec n).state.trusted = false := by
    intro l
    induction l with
    | nil => intro w n h; exact h
    | cons m l ih =>
      intro w n h
      refine ih _ n ?_
      rw [Ev.onSection_s]
      by_cases e : n = m
      · subst e; simp [State.sec, SectionRecord.disturb_untrusted]
      · simpa [State.sec, Table.get_set, e] using h
  have hall : ∀ (l : List SectionId) (w : Ev), n ∈ l →
      ((l.foldl (fun w n => w.onSection n (SectionRecord.disturb .deviceHalt)) w).s.sec n).state.trusted = false := by
    intro l
    induction l with
    | nil => intro w h; cases h
    | cons m l ih =>
      intro w h
      rcases List.mem_cons.mp h with e | h
      · subst e
        refine hkeep l _ n ?_
        rw [Ev.onSection_s]
        simp [State.sec, SectionRecord.disturb_untrusted]
      · exact ih _ h
  exact hall _ _ (List.mem_finRange n)

theorem Ev.haltSections_changes (w : Ev) : Changes w.s w.haltSections.s :=
  Changes.foldl _ (fun _ _ => Ev.onSection_changes (.disturb _)) _ w

theorem Ev.onSection_device (n : SectionId) (f : SectionRecord → SectionRecord) (w : Ev) :
    (w.onSection n f).s.device = w.s.device := by rw [Ev.onSection_s]

theorem Ev.disturbAll_device (p : PointId) (c : Cause) (w : Ev) : (w.disturbAll p c).s.device = w.s.device := by
  unfold Ev.disturbAll Ev.atSections
  generalize (w.s.entry p).bounds = l
  induction l generalizing w with
  | nil => rfl
  | cons n l ih => rw [List.foldl_cons, ih, Ev.onSection_device]

theorem Ev.halt_works (w : Ev) : Works w.s w.halt.s := by
  have hd : ∀ (l : List PointId) (v : Ev), (l.foldl (fun w p => w.disturbAll p .deviceHalt) v).s.device = v.s.device := by
    intro l
    induction l with
    | nil => intro v; rfl
    | cons p l ih => intro v; rw [List.foldl_cons, ih, Ev.disturbAll_device]
  unfold Ev.halt
  dsimp only
  refine Works.trans ?_ (Ev.startPowerOff_changes _ ?_).works
  · refine Works.trans ?_ (Changes.foldl _ (fun v p => Ev.disturbAll_changes p _ v) _ _).works
    refine (Ev.haltSections_changes w).works.trans ?_
    exact Ev.onDevice_works _ _ (.inr ⟨by simp, .inr (Ev.haltSections_untrusted w)⟩)
  · rw [hd, Ev.onDevice_s]; simp

theorem actHalt_good (i : PortId) (body : List Byte) (s : State) : (actHalt body ⟨s, [], []⟩).Good i s :=
  Answer.good_require (Answer.good_require (Answer.good_works
    ((Ev.halt_works ⟨s, [], []⟩).trans (Ev.settle_works _))))

theorem Ev.beginWrite_works (image : List Byte) (address : Nat) (w : Ev) : Works w.s (w.beginWrite image address).s :=
  (Ev.choose_changes w).works.trans (Ev.onDevice_works _ w.choose (.inl rfl))

theorem actStoreImage_good (i : PortId) (body : List Byte) (s : State) :
    (actStoreImage body ⟨s, [], []⟩).Good i s := by
  unfold actStoreImage
  split
  · exact Answer.good_require (Answer.good_require (Answer.good_withArgument fun b =>
      Answer.good_works (Ev.beginWrite_works _ _ ⟨s, [], []⟩)))
  · exact Answer.good_refuse

theorem actDeviceRecord_good (i : PortId) (body : List Byte) (s : State) :
    (actDeviceRecord body ⟨s, [], []⟩).Good i s := Answer.good_accept .refl

/-! ## Port commands -/

theorem clampLinkTimeout_range (t : Nat) :
    clampLinkTimeout t = 0 ∨ 100 ≤ clampLinkTimeout t ∧ clampLinkTimeout t ≤ 10000 := by
  unfold clampLinkTimeout clamp
  split
  · exact .inl rfl
  · right; omega

theorem State.setControlParams_moves (b r p t : Nat) (s : State) (hb : burstRange.holds b = true)
    (hr : refillRange.holds r = true) (hp : imagePeriodRange.holds p = true)
    (ht : t = 0 ∨ 100 ≤ t ∧ t ≤ 10000) : Moves s (s.setControlParams b r p t) := by
  refine Moves.trans (Move.port .control _ (.pacing s.now b r hb hr)).moves ?_
  refine Moves.trans (Move.link (s := { s with control := s.control.setPacing s.now b r }) _
    (.imagePeriod s.now p hp)).moves ?_
  exact (Move.link (s := { s with control := s.control.setPacing s.now b r, link := s.link.setImagePeriod s.now p }) _
    (.timeout s.now t ht)).moves

theorem State.setServiceParams_moves (b r : Nat) (s : State) (hb : burstRange.holds b = true)
    (hr : refillRange.holds r = true) : Moves s (s.setServiceParams b r) :=
  (Move.port .service _ (.pacing s.now b r hb hr)).moves

theorem Port.setPacing_replies (now : Time) (b r : Nat) (q : Port) : (q.setPacing now b r).replies = q.replies := by
  unfold Port.setPacing
  dsimp only
  split
  · rfl
  · split <;> rfl

theorem actSetPortParameters_good (i : PortId) (body : List Byte) (s : State) :
    (actSetPortParameters body ⟨s, [], []⟩).Good i s := by
  unfold actSetPortParameters
  split
  · refine Answer.good_require (Answer.good_withArgument fun q => ?_)
    unfold portParamsChecked
    dsimp only
    split
    · intro w d h
      cases h
      refine ⟨State.setControlParams_moves _ _ _ _ s (Range.clamp_holds _ _ (by decide))
        (Range.clamp_holds _ _ (by decide)) (Range.clamp_holds _ _ (by decide)) (clampLinkTimeout_range _), ?_⟩
      cases i
      · exact Port.setPacing_replies _ _ _ _
      · rfl
    · intro w d h
      cases h
      refine ⟨State.setServiceParams_moves _ _ s (Range.clamp_holds _ _ (by decide))
        (Range.clamp_holds _ _ (by decide)), ?_⟩
      cases i
      · rfl
      · exact Port.setPacing_replies _ _ _ _
  · exact Answer.good_refuse

theorem actSetReportMask_good (i : PortId) (body : List Byte) (s : State) :
    (actSetReportMask i body ⟨s, [], []⟩).Good i s := by
  unfold actSetReportMask
  split
  · refine Answer.good_withArgument fun m => ?_
    intro w d h
    cases h
    exact ⟨State.onPort_moves i _ s (.mask m), by simp [Port.setMask]⟩
  · exact Answer.good_refuse

theorem actSetTrace_good (i : PortId) (body : List Byte) (s : State) :
    (actSetTrace body ⟨s, [], []⟩).Good i s := by
  unfold actSetTrace
  split
  · refine Answer.good_require ?_
    intro w d h
    cases h
    exact ⟨(Move.trace _ (.masks _ _ _)).moves, by cases i <;> rfl⟩
  · exact Answer.good_refuse

/-! ## The image load -/

theorem State.loadPorts_moves (c : Configuration) (s : State) (h1 : burstRange.holds c.controlBurst = true)
    (h2 : refillRange.holds c.controlRefill = true) (h3 : burstRange.holds c.serviceBurst = true)
    (h4 : refillRange.holds c.serviceRefill = true) (h5 : imagePeriodRange.holds c.imagePeriod = true)
    (h6 : c.linkTimeout = 0 ∨ 100 ≤ c.linkTimeout ∧ c.linkTimeout ≤ 10000) : Moves s (s.loadPorts c) := by
  have e : s.loadPorts c = (s.setControlParams c.controlBurst c.controlRefill c.imagePeriod c.linkTimeout).setServiceParams
      c.serviceBurst c.serviceRefill := rfl
  rw [e]
  exact (State.setControlParams_moves _ _ _ _ s h1 h2 h5 h6).trans (State.setServiceParams_moves _ _ _ h3 h4)

theorem Ev.loadSupplies_changes (c : SupplyParams) (w : Ev) : Changes w.s (w.loadSupplies c).s :=
  Ev.onSequencer_changes _ w .inl

theorem Ev.applyConfiguration_moves (c : Configuration) (w : Ev) (hd : c.device.Ok)
    (hp : ∀ s : State, Moves s (s.loadPorts c)) :
    Moves w.s (w.applyConfiguration c).s ∧ (w.applyConfiguration c).s.device = w.s.device := by
  unfold Ev.applyConfiguration
  dsimp only
  generalize hw1 : (w.setDeviceParams c.device true).loadSupplies c.supplies = w1
  have m1 : Changes w.s w1.s := by
    rw [← hw1]
    exact (Ev.setDeviceParams_changes c.device true w (fun _ => hd)).trans (Ev.loadSupplies_changes _ _)
  generalize hw2 : ({ w1 with s := w1.s.loadPorts c } : Ev) = w2
  have m2 : Moves w1.s w2.s := by rw [← hw2]; exact hp _
  have d2 : w2.s.device = w1.s.device := by rw [← hw2]; rfl
  have m3 : Changes w2.s (allPoints.foldl (fun w p => w.loadPoint (c.points.get p) p) w2).s :=
    Changes.foldl _ (fun v p => Ev.onPoint_changes (.loaded _ _)) allPoints w2
  generalize allPoints.foldl (fun w p => w.loadPoint (c.points.get p) p) w2 = w3 at m3 ⊢
  have m4 : Changes w3.s (allSections.foldl (fun w n => w.loadSection (c.sections.get n) n) w3).s :=
    Changes.foldl _ (fun v n => Ev.onSection_changes (.params _ _ _ _)) allSections w3
  generalize allSections.foldl (fun w n => w.loadSection (c.sections.get n) n) w3 = w4 at m4 ⊢
  have m5 : Changes w4.s (w4.setTopology c.topology).s := Ev.setTopology_changes _ _
  exact ⟨(((m1.moves.trans m2).trans m3.moves).trans m4.moves).trans m5.moves,
    by rw [m5.device, m4.device, m3.device, d2, m1.device]⟩

theorem Configuration.ofBody_applied (l : List Byte) (w : Ev) :
    Moves w.s (w.applyConfiguration (Configuration.ofBody l).1).s ∧
      (w.applyConfiguration (Configuration.ofBody l).1).s.device = w.s.device :=
  Ev.applyConfiguration_moves _ w (DeviceParams.clamped_ok _)
    (fun s => State.loadPorts_moves _ s (Range.clamp_holds _ _ (by decide)) (Range.clamp_holds _ _ (by decide))
      (Range.clamp_holds _ _ (by decide)) (Range.clamp_holds _ _ (by decide)) (Range.clamp_holds _ _ (by decide))
      (clampLinkTimeout_range _))

theorem Ev.completeLoad_moves (m : MemoryRead) (w : Ev) (hl : w.s.device.state = .loading) :
    Moves w.s (w.completeLoad m).s := by
  unfold Ev.completeLoad
  split
  · rename_i body _
    obtain ⟨h1, h2⟩ := Configuration.ofBody_applied body w
    dsimp only
    generalize w.applyConfiguration (Configuration.ofBody body).1 = v at h1 h2 ⊢
    have hv : v.s.device.state ≠ .running := by rw [h2, hl]; simp
    split
    · exact h1.trans (Ev.onDevice_works _ v (.inr ⟨by simp, .inl hv⟩)).moves
    · exact h1.trans (Ev.onDevice_works _ v (.inr ⟨by simp, .inl hv⟩)).moves
    · exact (h1.trans (Ev.onDevice_works _ v (.inr ⟨by simp, .inl hv⟩)).moves).trans (Ev.beginStart_changes _).moves
  · exact (Ev.onDevice_works _ w (.inr ⟨by simp, .inl (by rw [hl]; simp)⟩)).moves

/-! ## Every command -/

/-- A meaning that answers a next state by moves. -/
def MovesTo (s : State) (o : Host.Outcome State Fault Refusal) : Prop := ∃ t, o = .next t ∧ Moves s t

theorem MovesTo.stay {s : State} : MovesTo s (.next s) := ⟨s, rfl, .refl⟩
theorem MovesTo.of {s t : State} (h : Moves s t) : MovesTo s (.next t) := ⟨t, rfl, h⟩

theorem MovesTo.event {s : State} {f : Ev → Ev} (h : Changes s (f ⟨s, [], []⟩).s) : MovesTo s (.next (runEvent f s)) :=
  .of (runEvent_moves f s h.moves)

theorem MovesTo.settled {s : State} {f : Ev → Ev} (h : Changes s (f ⟨s, [], []⟩).s) :
    MovesTo s (.next (runEvent (fun w => (f w).settle) s)) :=
  .of (runEvent_moves _ s (h.moves.trans (Ev.settle_works _).moves))

theorem MovesTo.command {kind : Byte} {pm : Permitted} {fits : Nat → Bool} {act : List Byte → Ev → Answer}
    {i : PortId} {tag : Byte} {body : List Byte} {s : State} (h : ∀ s, (act body ⟨s, [], []⟩).Good i s) :
    MovesTo s (.next (takeCommand kind pm fits act i tag body s)) := .of (takeCommand_moves _ _ _ _ _ _ _ s h)

theorem execUnknownCommand_moves (i : PortId) (kind tag : Byte) (body : List Byte) (s : State) :
    MovesTo s (execUnknownCommand i kind tag body s) := by
  unfold execUnknownCommand
  dsimp only
  split
  · exact .of ((State.frameTaken_moves i s).trans
      (Moves.trans (State.onPort_moves i _ _ .overrun) (runEvent_moves _ _ .refl)))
  · exact .of ((State.frameTaken_moves i s).trans
      (Answer.conclude_moves _ _ _ _ _ (by omega) Answer.good_refuse))

theorem takeFrame_moves (i : PortId) (kind tag : Byte) (body : List Byte) (s : State) :
    MovesTo s (takeFrame i kind tag body s) := by
  unfold takeFrame
  split
  · exact .command (actRestoreSection_good i body)
  · exact .command (actCancelRestore_good i body)
  · exact .command (actDeviceRecord_good i body)
  · exact .command (actDeviceRecord_good i body)
  · exact .command (actQuerySections_good i body)
  · exact .command (actQueryPoints_good i body)
  · exact .command (actDisturbSection_good i body)
  · exact .command (actSetReportMask_good i body)
  · exact .command (actSetTopology_good i body)
  · exact .command (actSetPointMode_good i body)
  · exact .command (actSetPointParameters_good i body)
  · exact .command (actClearPointFault_good i body)
  · exact .command (actSetSectionParameters_good i body)
  · exact .command (actSetDeviceParameters_good i body)
  · exact .command (actSetSupplyParameters_good i body)
  · exact .command (actSetPortParameters_good i body)
  · exact .command (actSetTrace_good i body)
  · exact .command (actStart_good i body)
  · exact .command (actHalt_good i body)
  · exact .command (actStoreImage_good i body)
  · exact .command (actRecycleGroup_good i body)
  · exact .command (actForceSupply_good i body)
  · exact .command (actReleaseSupply_good i body)
  · exact execUnknownCommand_moves i kind tag body s

theorem Ev.betweenChanges_changes (w : Ev) : Changes w.s w.betweenChanges.s := by
  unfold Ev.betweenChanges
  split
  · exact (Ev.choose_changes w).trans (Ev.settleProofs_changes _)
  · exact (Ev.choose_changes w).trans (Ev.applyStaged_changes _)

theorem Ev.acceptedChange_changes (p : PointId) (lines : Lines) (t : Time) (w : Ev) :
    Changes w.s (w.acceptedChange p lines t).s := by
  have ht : ∀ (x : Sys) (v : Ev), Changes v.s (v.takeLine p x t).s := fun x v =>
    Ev.onPoint_changes (by cases x <;> exact .lines _ _)
  have hr : ∀ (x : Sys) (v : Ev), Changes v.s (v.routeChange p x t).s := fun x v => by
    unfold Ev.routeChange
    split
    · exact Ev.deliver_changes _ _ _ _
    · rename_i pr hpr
      have hc : v.s.channel = some pr := by
        unfold proofAt at hpr
        split at hpr
        · cases hpr
        · split at hpr
          · rename_i h _; rw [h]; exact hpr
          · cases hpr
      split
      · exact Ev.testedChange_changes pr v hc
      · unfold Ev.partnerChange
        dsimp only
        split
        · exact Ev.abortProof_changes pr t v hc
        · exact Ev.deliver_changes _ _ _ _
  have h1 : ∀ (x : Sys) (v : Ev), Changes v.s (v.changeOne p x t).s := fun x v => by
    unfold Ev.changeOne
    dsimp only
    split
    · exact (ht x v).trans (hr x _)
    · exact ht x v
  unfold Ev.acceptedChange
  split
  · exact h1 .a w
  · exact h1 .b w
  · unfold Ev.changeBoth
    split
    · split
      · exact (((Ev.choose_changes w).trans (h1 _ _)).trans (Ev.betweenChanges_changes _)).trans (h1 _ _)
      · exact ((Ev.choose_changes w).trans (h1 _ _)).trans (h1 _ _)
    · exact ((ht .a w).trans (ht .b _)).trans (Ev.deliver_changes _ _ _ _)
    · exact (ht .a w).trans (ht .b _)

theorem Ev.glitch_changes (p : PointId) (x : Sys) (start : Time) (length : Byte) (w : Ev) :
    Changes w.s (w.glitch p x start length).s := by
  have h1 : Changes w.s (w.onPoint p (Point.onLine x (fun l =>
      { l with raw := l.accepted, pinLow := l.accepted, run := 0 }))).s :=
    Ev.onPoint_changes (by cases x <;> exact .lines _ _)
  unfold Ev.glitch
  dsimp only
  split
  · refine h1.trans ?_
    rw [Ev.trace_s]
    exact Ev.addWeight_changes _ _ _ _ (.weighed _ _ _ _ _ _ (.inr rfl) (.inl rfl) (.inl rfl) (.inl rfl) (.inl rfl))
  · exact h1

theorem Ev.quietExpiry_changes (p : PointId) (c : Confusion) (expiry : Time) (w : Ev)
    (h : (w.s.point p).machine = .confused) : Changes w.s (w.quietExpiry p c expiry).s := by
  have h1 : Changes w.s (w.onPoint p (fun pt =>
      { pt with machine := .idle, confusion := none, quietTimer := none })).s :=
    Ev.onPoint_changes (.leftConfused h)
  have h2 : ∀ v : Ev, Changes v.s (v.confusedPassage p).s := fun v => by
    have h3 : Changes v.s (v.addWeight p v.s.params.wConfused
        (fun pt => { pt with confusedTally := raise pt.confusedTally })).s :=
      Ev.addWeight_changes _ _ _ _ (.weighed _ _ _ _ _ _ (.inl rfl) (.inl rfl) (.inl rfl) (.inr rfl) (.inl rfl))
    unfold Ev.confusedPassage
    dsimp only
    split
    · exact h3.trans (Ev.disturbAll_changes _ _ _)
    · exact h3
  have h4 : ∀ v : Ev, Changes v.s (if (v.s.point p).machine == .idle then v.pointQuiet p else v).s := fun v => by
    split
    · exact Ev.pointQuiet_changes _ _
    · exact .refl
  unfold Ev.quietExpiry
  dsimp only
  refine Changes.trans ?_ (h4 _)
  rw [Ev.trace_s]
  split
  · exact h1
  · exact h1.trans (h2 _)

/-- Every command but RESET answers a next state, by moves. -/
theorem exec_moves (c : Instr) (s : State) (hc : c ≠ .reset) : MovesTo s (exec c s) := by
  cases c
  case reset => exact absurd rfl hc
  case acceptedChange p lines t => exact .settled (Ev.acceptedChange_changes p lines t ⟨s, [], []⟩)
  case glitch p x start length => exact .settled (Ev.glitch_changes p x start length ⟨s, [], []⟩)
  case quietTimerExpiry p =>
    show MovesTo s (execQuietTimerExpiry p s)
    unfold execQuietTimerExpiry
    split
    · rename_i h _ _
      split
      · exact .settled (Ev.quietExpiry_changes p _ _ ⟨s, [], []⟩ h)
      · exact .stay
    · exact .stay
  case leakTimerExpiry =>
    show MovesTo s (execLeakTimerExpiry s)
    unfold execLeakTimerExpiry
    split
    · exact .settled ((Change.leakTimer _).changes.trans
        (Ev.leak_changes ⟨{ s with leakTimer := s.leakTimer.again }, [], []⟩))
    · exact .stay
  case dueTimerExpiry p x =>
    show MovesTo s (execDueTimerExpiry p x s)
    unfold execDueTimerExpiry
    split
    · exact .settled (Ev.dueExpiry_changes p x ⟨s, [], []⟩)
    · exact .stay
  case overdueTimerExpiry p x =>
    show MovesTo s (execOverdueTimerExpiry p x s)
    unfold execOverdueTimerExpiry
    split
    · exact .event (Ev.overdueExpiry_changes p x ⟨s, [], []⟩)
    · exact .stay
  case assertWindowExpiry =>
    show MovesTo s (execAssertWindowExpiry s)
    unfold execAssertWindowExpiry
    split
    · exact .stay
    · split
      · exact .settled (Ev.failProof_changes _ _ ⟨s, [], []⟩)
      · exact .stay
  case releaseWindowExpiry =>
    show MovesTo s (execReleaseWindowExpiry s)
    unfold execReleaseWindowExpiry
    split
    · exact .stay
    · split
      · exact .settled (Ev.failProof_changes _ _ ⟨s, [], []⟩)
      · exact .stay
  case abortWaitExpiry =>
    show MovesTo s (execAbortWaitExpiry s)
    unfold execAbortWaitExpiry
    split
    · exact .stay
    · split
      · exact .settled (Ev.decideAbort_changes _ ⟨s, [], []⟩)
      · exact .stay
  case clearDelayExpiry n =>
    show MovesTo s (execClearDelayExpiry n s)
    unfold execClearDelayExpiry
    split
    · rename_i h
      have h : (s.sec n).state = .clearing ∧ timerReached s.now (s.sec n).clearTimer = true := by simpa using h
      refine .event (Ev.onSection_changes (w := ⟨s, [], []⟩) (.expiry _ h.1 ?_))
      show (s.sec n).clearTimer.isSome = true
      cases ht : (s.sec n).clearTimer with
      | none => rw [ht] at h; exact absurd h.2 (by simp [timerReached])
      | some t => rfl
    · exact .stay
  case holdoffTimerExpiry n =>
    show MovesTo s (execHoldoffTimerExpiry n s)
    unfold execHoldoffTimerExpiry
    split
    · exact .event (Ev.onSection_changes (w := ⟨s, [], []⟩) .holdoff)
    · exact .stay
  case supplyGoodChange g => exact .settled (Ev.supplyGoodChange_changes g ⟨s, [], []⟩)
  case supplyGoodTimeout g =>
    show MovesTo s (execSupplyGoodTimeout g s)
    unfold execSupplyGoodTimeout
    split
    · exact .settled (Ev.onGroup_changes (w := ⟨s, [], []⟩) (.failed _))
    · exact .stay
  case settleTimerExpiry g =>
    show MovesTo s (execSettleTimerExpiry g s)
    unfold execSettleTimerExpiry
    split
    · exact .settled (Ev.enterReady_changes g ⟨s, [], []⟩)
    · exact .stay
  case offTimeExpiry g =>
    show MovesTo s (execOffTimeExpiry g s)
    unfold execOffTimeExpiry
    split
    · exact .settled (Ev.offTimeExpiry_changes g ⟨s, [], []⟩)
    · exact .stay
  case turnTimerExpiry =>
    show MovesTo s (execTurnTimerExpiry s)
    unfold execTurnTimerExpiry
    split
    · split
      · exact .settled (Ev.turn_changes _ _ ⟨s, [], []⟩)
      · exact .stay
    · split
      · exact .settled (Ev.turn_changes _ _ ⟨s, [], []⟩)
      · exact .stay
    · exact .stay
  case phaseTimerExpiry =>
    show MovesTo s (execPhaseTimerExpiry s)
    unfold execPhaseTimerExpiry
    split
    · exact .of Change.phase.changes.moves
    · exact .stay
  case gapTimerExpiry i =>
    show MovesTo s (execGapTimerExpiry i s)
    unfold execGapTimerExpiry
    split
    · exact .of (State.onPort_moves i _ s .discard)
    · exact .stay
  case frameDiscarded i reason => exact .of (State.onPort_moves i _ s .discard)
  case refillTimerExpiry i =>
    show MovesTo s (execRefillTimerExpiry i s)
    unfold execRefillTimerExpiry
    split
    · exact .of (runEvent_moves _ s (State.onPort_moves i _ s .refill))
    · exact .stay
  case imageTimerExpiry =>
    show MovesTo s (execImageTimerExpiry s)
    unfold execImageTimerExpiry
    split
    · exact .of (runEvent_moves _ s (Move.link _ .imageExpiry).moves)
    · exact .stay
  case linkTimerExpiry =>
    show MovesTo s (execLinkTimerExpiry s)
    unfold execLinkTimerExpiry
    split
    · rename_i h
      refine .of (Move.link _ (.down ?_)).moves
      cases ht : s.link.timer with
      | none => rw [ht] at h; exact absurd h (by simp [timerReached])
      | some t => rfl
    · exact .stay
  case transmitComplete i =>
    show MovesTo s (execTransmitComplete i s)
    unfold execTransmitComplete
    split
    · exact .of (runEvent_moves _ s (State.onPort_moves i (fun q => { q with sending := none }) s .freed))
    · exact .stay
  case imageLoadComplete m =>
    show MovesTo s (execImageLoadComplete m s)
    unfold execImageLoadComplete
    split
    · rename_i h
      exact .of (runEvent_moves _ s ((Ev.completeLoad_moves m ⟨s, [], []⟩ (by simpa using h)).trans
        (Ev.settle_works _).moves))
    · exact .stay
  case storeWriteAck =>
    show MovesTo s (execStoreWriteAck s)
    unfold execStoreWriteAck
    split
    · exact .of (runEvent_moves _ s (Ev.beginWrite_works _ _ ⟨s, [], []⟩).moves)
    · exact .stay
    · exact .stay
  case storeDone =>
    show MovesTo s (execStoreDone s)
    unfold execStoreDone
    split
    · exact .of (runEvent_moves _ s (Ev.onDevice_works _ ⟨s, [], []⟩ (.inl rfl)).moves)
    · exact .stay
    · exact .stay
  case storeFailed =>
    show MovesTo s (execStoreFailed s)
    have taken : Moves s { s with writeLapsed := false } := Change.lapseTaken.changes.moves
    unfold execStoreFailed
    dsimp only
    split
    · split
      · exact .of taken
      · exact .of (taken.trans (runEvent_moves _ _ (Ev.onDevice_works _ ⟨_, [], []⟩ (.inl rfl)).moves))
    · exact .of taken
  case unknownCommand i kind tag body => exact execUnknownCommand_moves i kind tag body s
  case restoreSection i tag body => exact .command (actRestoreSection_good i body)
  case cancelRestore i tag body => exact .command (actCancelRestore_good i body)
  case queryDevice i tag body => exact .command (actDeviceRecord_good i body)
  case linkCheck i tag body => exact .command (actDeviceRecord_good i body)
  case querySections i tag body => exact .command (actQuerySections_good i body)
  case queryPoints i tag body => exact .command (actQueryPoints_good i body)
  case disturbSection i tag body => exact .command (actDisturbSection_good i body)
  case setReportMask i tag body => exact .command (actSetReportMask_good i body)
  case setTopology i tag body => exact .command (actSetTopology_good i body)
  case setPointMode i tag body => exact .command (actSetPointMode_good i body)
  case setPointParameters i tag body => exact .command (actSetPointParameters_good i body)
  case clearPointFault i tag body => exact .command (actClearPointFault_good i body)
  case setSectionParameters i tag body => exact .command (actSetSectionParameters_good i body)
  case setDeviceParameters i tag body => exact .command (actSetDeviceParameters_good i body)
  case setSupplyParameters i tag body => exact .command (actSetSupplyParameters_good i body)
  case setPortParameters i tag body => exact .command (actSetPortParameters_good i body)
  case setTrace i tag body => exact .command (actSetTrace_good i body)
  case start i tag body => exact .command (actStart_good i body)
  case halt i tag body => exact .command (actHalt_good i body)
  case storeImage i tag body => exact .command (actStoreImage_good i body)
  case recycleGroup i tag body => exact .command (actRecycleGroup_good i body)
  case forceSupply i tag body => exact .command (actForceSupply_good i body)
  case releaseSupply i tag body => exact .command (actReleaseSupply_good i body)
  case characterReceived i ch =>
    show MovesTo s (execCharacterReceived i ch s)
    unfold execCharacterReceived
    split
    · exact .of (State.onPort_moves i _ s (.await _ _))
    · exact .of (State.onPort_moves i _ s .discard)
    · exact takeFrame_moves _ _ _ _ _

/-! ## One unit of time -/

/-- What a unit of time does: the counter, the lines, the supply inputs, the queue, the free choices and the lapse of a
memory write. -/
theorem State.tick_eq (s : State) : ∃ now found k lapsed,
    s.tick = { s with
      now := now, sampleDue := false
      points := s.points.map (fun pt => { pt with lineA := pt.lineA.sampled now, lineB := pt.lineB.sampled now })
      groups := s.groups.map Group.sampled
      pending := s.pending ++ found
      choices := k
      writeLapsed := lapsed } := by
  unfold State.tick
  dsimp only
  split
  · exact ⟨_, _, _, _, rfl⟩
  · exact ⟨_, _, _, _, rfl⟩

end Sys2Proof.Machine
end

