-- ==== Sys2Proof/WellFormed.lean ====
section
/-! DEFINITION. WellFormed.lean: the commands that the outside can send. The meanings are defined on every term; a term
that fails a check here stands for no event of the part. -/

namespace Sys2Proof

/-- The command kinds the part knows are 0x01 to 0x17 (R201). -/
def commandKind (kind : Byte) : Bool := decide (1 ≤ kind.toNat) && decide (kind.toNat ≤ 0x17)

/-- A frame body holds 0 to 240 bytes (R201). -/
def bodyFits (body : List Byte) : Bool := decide (body.length ≤ 240)

/-- A glitch lasts at least 2 samples (R3); a frame of an unknown kind has a kind that is no command's (R184); every
body fits a frame (R201); and the serial memory gives at most its 8 KiB (00_scope.md, Features). -/
def Instr.wf : Instr → Bool
  | .reset => true
  | .acceptedChange _ _ _ => true
  | .glitch _ _ _ length => decide (2 ≤ length.toNat)
  | .quietTimerExpiry _ => true
  | .leakTimerExpiry => true
  | .dueTimerExpiry _ _ => true
  | .overdueTimerExpiry _ _ => true
  | .assertWindowExpiry => true
  | .releaseWindowExpiry => true
  | .abortWaitExpiry => true
  | .clearDelayExpiry _ => true
  | .holdoffTimerExpiry _ => true
  | .supplyGoodChange _ => true
  | .supplyGoodTimeout _ => true
  | .settleTimerExpiry _ => true
  | .offTimeExpiry _ => true
  | .turnTimerExpiry => true
  | .phaseTimerExpiry => true
  | .gapTimerExpiry _ => true
  | .frameDiscarded _ _ => true
  | .refillTimerExpiry _ => true
  | .imageTimerExpiry => true
  | .linkTimerExpiry => true
  | .transmitComplete _ => true
  | .imageLoadComplete .noAcknowledge => true
  | .imageLoadComplete (.bytes read) => decide (read.length ≤ 8192)
  | .storeWriteAck => true
  | .storeDone => true
  | .storeFailed => true
  | .unknownCommand _ kind _ body => !commandKind kind && bodyFits body
  | .restoreSection _ _ body => bodyFits body
  | .cancelRestore _ _ body => bodyFits body
  | .queryDevice _ _ body => bodyFits body
  | .linkCheck _ _ body => bodyFits body
  | .querySections _ _ body => bodyFits body
  | .queryPoints _ _ body => bodyFits body
  | .disturbSection _ _ body => bodyFits body
  | .setReportMask _ _ body => bodyFits body
  | .setTopology _ _ body => bodyFits body
  | .setPointMode _ _ body => bodyFits body
  | .setPointParameters _ _ body => bodyFits body
  | .clearPointFault _ _ body => bodyFits body
  | .setSectionParameters _ _ body => bodyFits body
  | .setDeviceParameters _ _ body => bodyFits body
  | .setSupplyParameters _ _ body => bodyFits body
  | .setPortParameters _ _ body => bodyFits body
  | .setTrace _ _ body => bodyFits body
  | .start _ _ body => bodyFits body
  | .halt _ _ body => bodyFits body
  | .storeImage _ _ body => bodyFits body
  | .recycleGroup _ _ body => bodyFits body
  | .forceSupply _ _ body => bodyFits body
  | .releaseSupply _ _ body => bodyFits body
  | .characterReceived _ _ => true

end Sys2Proof
end

