-- ==== Sys2Proof/Tests/Slice0.lean ====
section
/-! SUPPORT. Tests/Slice0.lean: the well-formedness smoke tests; tests whose expected values are the spec's own worked cases;
and, for each statement of Certificates/Slice0/Obligations.lean that has hypotheses, a witness: concrete states and
operands that meet them, clause by clause. -/

namespace Sys2Proof.Tests

open Sys2Proof Sys2Proof.Machine

/-! ## Well-formedness: each check refuses an ill-formed command -/

theorem test_wf_glitch_of_one_sample : (Instr.glitch 0 .a 0 1).wf = false := by decide
theorem test_wf_glitch_of_two_samples : (Instr.glitch 0 .a 0 2).wf = true := by decide
theorem test_wf_unknown_command_of_a_known_kind : (Instr.unknownCommand .control 0x17 0 []).wf = false := by decide
theorem test_wf_unknown_command : (Instr.unknownCommand .control 0x18 0 []).wf = true := by decide
theorem test_wf_body_of_241_bytes : (Instr.setTopology .service 0 (List.replicate 241 0)).wf = false := by
  decide +kernel
theorem test_wf_body_of_240_bytes : (Instr.setTopology .service 0 (List.replicate 240 0)).wf = true := by
  decide +kernel
theorem test_wf_memory_over_8_KiB : (Instr.imageLoadComplete (.bytes (List.replicate 8193 0))).wf = false := by
  decide +kernel

/-! ## The states of the tests

The crossover of section 4.7: points 0 to 4 counting and proven, points 5 to 15 out of use, sections 0 to 3 used. -/

/-- A free line. -/
def freeLine : Line := { pinLow := false, raw := false, accepted := false, run := 0, runStart := 0, changeTime := 0 }
def occupiedLine : Line := { freeLine with pinLow := true, raw := true, accepted := true }

/-- A system that passed its proof 10 s before time 60,000,000. -/
def provenSystem : ProofStatus :=
  { proven := true, lastPass := some 59000000, due := false, overdue := false
    dueTimer := some ⟨59000000, 6000000⟩, overdueTimer := some ⟨59000000, 12000000⟩, failures := 0
    lastResult := some .pass }

def countingPoint : Point :=
  { Point.reset false false with
    lineA := freeLine, lineB := freeLine, mode := .counting, startMode := .counting
    proofA := provenSystem, proofB := provenSystem }

def unusedPoint : Point := { Point.reset false false with lineA := freeLine, lineB := freeLine }

def crossover : Table 16 TopologyEntry :=
  ⟨[⟨some 1, some 0⟩, ⟨some 2, some 1⟩, ⟨some 1, none⟩, ⟨some 3, some 1⟩, ⟨none, some 3⟩]
    ++ List.replicate 11 ⟨none, none⟩, rfl⟩

def clearSection : SectionRecord := { SectionRecord.reset with state := .clear, rc := 1, lastRestore := some 100 }
def readyGroup : Group := { Group.reset true with state := .ready, good := true }

/-- The crossover in service at time 60,000,000: every section CLEAR, every clear output high. -/
def inService : State :=
  { State.reset with
    now := 60000000, sampleDue := false
    points := ⟨List.replicate 5 countingPoint ++ List.replicate 11 unusedPoint, rfl⟩
    topology := crossover
    view := ⟨List.replicate 5 ⟨false, false⟩ ++ List.replicate 11 ⟨false, true⟩, rfl⟩
    sections := ⟨List.replicate 4 clearSection ++ List.replicate 8 .reset, rfl⟩
    groups := .replicate 4 readyGroup
    device := { State.reset.device with
      state := .running, loadResult := some .none, autostart := some .notRequested }
    leakTimer := ⟨59500000, 1000000⟩
    outputs := { phaseHigh := true, phaseTimer := ⟨59999600, 500⟩
                 clr := ⟨List.replicate 4 .toggling ++ List.replicate 8 .low, rfl⟩, run := .toggling, runHigh := true }
    control := { State.reset.control with refillTimer := ⟨59999000, 5000⟩ }
    service := { State.reset.service with refillTimer := ⟨59999000, 5000⟩ }
    link := { State.reset.link with imageTimer := ⟨59995000, 10000⟩, timer := some ⟨59990000, 100000⟩ } }

/-- One point's record, section's record or group's record changed. -/
def onP (p : PointId) (f : Point → Point) (s : State) : State := { s with points := s.points.set p (f (s.point p)) }
def onS (n : SectionId) (f : SectionRecord → SectionRecord) (s : State) : State :=
  { s with sections := s.sections.set n (f (s.sec n)) }
def onG (g : GroupId) (f : Group → Group) (s : State) : State := { s with groups := s.groups.set g (f (s.group g)) }

/-- The device in another state. -/
def inState (d : DeviceState) (s : State) : State := { s with device := { s.device with state := d } }

/-- The next state that a step gives, if it gives one. -/
def nextOf (o : Host.Outcome State Fault Refusal) (s : State) : State :=
  match o with
  | .next t => t
  | _ => s

/-- The state after a list of commands. -/
def after (l : List Instr) (s : State) : State := l.foldl (fun s c => nextOf (exec c s) s) s

/-- Both transmitters busy. -/
def busy (s : State) : State :=
  { s with control := { s.control with sending := some [] }, service := { s.service with sending := some [] } }

/-! ## The spec's worked cases -/

/-- The crossover with one axle in section 0 (sections 1.5 and 5.9). -/
def oneAxle : State := onS 0 (fun r => { r with state := .occupied, count := 1, entries := 1 }) inService

/-- Section 1.5, a clean up passage: intervals 498 and 512, speed 100; the axle leaves section 0 and enters section 1. -/
theorem test_clean_up_passage :
    let t := after [.acceptedChange 0 .a 1000, .acceptedChange 0 .b 1498, .acceptedChange 0 .a 2100,
      .acceptedChange 0 .b 2612] oneAxle
    (t.point 0).machine = .idle ∧ (t.point 0).upTally = 1 ∧ (t.point 0).lastSpeed = some 100 ∧
      (t.sec 0).state = .clearing ∧ (t.sec 0).count = 0 ∧ (t.sec 1).state = .occupied ∧ (t.sec 1).count = 1 := by
  decide +kernel

/-- Section 1.5, a rocking shunt wheel: one count, no speed, no retreat. -/
theorem test_rocking_shunt_wheel :
    let t := after [.acceptedChange 0 .a 5000, .acceptedChange 0 .b 5900, .acceptedChange 0 .a 7000,
      .acceptedChange 0 .a 7400, .acceptedChange 0 .b 8100, .acceptedChange 0 .b 8600, .acceptedChange 0 .a 9300,
      .acceptedChange 0 .b 9900] oneAxle
    (t.point 0).machine = .idle ∧ (t.point 0).upTally = 1 ∧ (t.point 0).lastSpeed = none ∧
      (t.point 0).retreatTally = 0 ∧ (t.point 0).level = 0 := by
  decide +kernel

/-- Section 1.5, a jump: both lines drop at one sample in DN2; the quiet timer runs from the change time. -/
theorem test_jump_confuses :
    let t := after [.acceptedChange 0 .b 15000, .acceptedChange 0 .a 15500, .acceptedChange 0 .both 20400] oneAxle
    (t.point 0).machine = .confused ∧ (t.point 0).confusion = some ⟨.jump, 20400⟩ ∧
      (t.point 0).quietTimer = some ⟨20400, 50000⟩ ∧ (t.point 0).passage = none := by
  decide +kernel

/-- An up record of four times. -/
def upRecord (aOn bOn aOff bOff : Time) : Passage :=
  { onset := aOn, aOn := some aOn, bOn := some bOn, aOff := some aOff, bOff := some bOff, reversal := false
    partly := false }

def defaults : DeviceParams := State.reset.params

/-- Section 2.4, the worked cases: a plain, an irregular, a clamped passage and both anomalies, halves rounded upward, a
lead across the wrap (496 units), a stopped wagon. -/
theorem test_timing_worked_cases :
    (upRecord 0 498 1000 1512).timing defaults 140 .up = ⟨some 100, some .pass, false, false⟩ ∧
    (upRecord 0 300 1000 1520).timing defaults 140 .up = ⟨some 123, some .irregular, true, false⟩ ∧
    (upRecord 0 90 1000 1090).timing defaults 140 .up = ⟨some 511, some .pass, false, true⟩ ∧
    (upRecord 0 60 1000 1100).timing defaults 140 .up = ⟨some 511, some .irregular, true, true⟩ ∧
    (upRecord 0 319 1000 1320).timing defaults 100 .up = ⟨some 113, some .pass, false, false⟩ ∧
    (upRecord 4294967000 200 1000 1496).timing defaults 140 .up
      = (upRecord 0 496 1000 1496).timing defaults 140 .up ∧
    (upRecord 10000 10900 95000 95620).timing defaults 140 .up = ⟨some 66, some .pass, false, false⟩ := by
  decide +kernel

/-- Section 2.5, warning and release: 33 warns, 17 stays in the band, 16 releases; a raised threshold frees no FAULT. -/
theorem test_health_worked_cases :
    nextHealth defaults .ok 33 = .warn ∧ nextHealth defaults .warn 17 = .warn ∧ nextHealth defaults .warn 16 = .ok ∧
    nextHealth { defaults with warnOn := 20, fault := 60 } .warn 70 = .fault ∧ nextHealth defaults .fault 70 = .fault := by
  decide

/-- Section 2.5, a passage that faults its point: level 121 and 8 give FAULT, after the axle is counted. -/
theorem test_passage_that_faults_its_point :
    let t := after [.acceptedChange 0 .a 0, .acceptedChange 0 .b 60, .acceptedChange 0 .a 1000,
      .acceptedChange 0 .b 1100] (onP 0 (fun pt => { pt with level := 121, health := .warn }) oneAxle)
    (t.point 0).level = 129 ∧ (t.point 0).faultCause = some .level ∧ (t.sec 1).cause = some .pointFault ∧
      (t.sec 1).count = 1 ∧ (t.sec 0).state = .disturbed ∧ (t.sec 0).count = 0 := by
  decide +kernel

/-- Section 5.9, two orders at one section: a clear-delay expiry and "proof overdue" end in CLEARING with the hold set. -/
theorem test_expiry_and_overdue_in_either_order :
    let r : SectionRecord := { clearSection with state := .clearing, clearTimer := some ⟨0, 100000⟩ }
    (r.expiryCheck false).takeOverdue.state = .clearing ∧ (r.expiryCheck false).takeOverdue.hold = true ∧
    (r.takeOverdue.expiryCheck true).state = .clearing ∧ (r.takeOverdue.expiryCheck true).hold = true := by
  decide

/-- Section 4.7, a table refused by START: the first failing item of three. -/
theorem test_start_refused_by_its_first_failing_item :
    let s := { State.reset with
      topology := (crossover.set 5 ⟨some 1, none⟩).set 7 ⟨some 6, some 6⟩
      points := State.reset.points.set 5 { State.reset.point 5 with startMode := .supervising } }
    startFault s = some (.sameSides 7) ∧
    startFault { s with topology := s.topology.set 7 ⟨none, none⟩ } = some (.members 1) ∧
    startFault { s with topology := crossover } = some (.unbound 5) := by
  decide +kernel

/-- Section 6.8: RESTORE SECTION with a stale counter is refused with STALE, carrying 17; with 17 it makes it 18. -/
theorem test_restore_sweep :
    let s := onS 1 (fun r => { r with state := .disturbed, cause := some .underflow, rc := 17 }) inService
    ((after [.restoreSection .control 7 [1, 0, 0, 16]] s).control.sending
      = some (frame 0x80 7 [0x01, 1, 8, 0, 17])) ∧
    ((after [.restoreSection .control 7 [1, 0, 0, 17]] s).sec 1).rc = 18 ∧
    ((after [.restoreSection .control 7 [1, 0, 0, 17]] s).sec 1).state = .restoring := by
  decide +kernel

/-- Section 11.9, the trace buffer overflows: with 63 entries and 4 drops a two-entry record is dropped no more once two
are free: GAP joins, then the record. -/
theorem test_gap_joins_before_the_record :
    let b := List.replicate 62 (TraceRecord.gap 0)
    let t : Trace := { pointMask := 0xFFFF, kindMask := 0x3F, sectionMask := 0, buffer := b, drops := 4 }
    let e : CountEvent := { point := 0, direction := .up, time := 0, speed := none, plausibility := none, left := none
                            entered := none }
    (t.take (.counted e)).buffer = b ++ [.gap 4, .counted e] := by
  decide +kernel

/-- The CRC-16 of R183 by its published check value over the nine digits 1 to 9 (from outside the spec: this polynomial
with initial value 0xFFFF, not reflected, not inverted, gives 0x29B1). -/
theorem test_crc_check_value : crc16 [0x31, 0x32, 0x33, 0x34, 0x35, 0x36, 0x37, 0x38, 0x39] = 0x29B1 := by
  decide +kernel

/-- R182: the four rates by the straps; and 0xC3 on the line, start bit, data bits least significant first, stop bit. -/
theorem test_baud_rates_and_a_character_on_the_line :
    ([0#2, 1#2, 2#2, 3#2].map (fun b => (Baud.ofStraps b).rate)) = [19200, 57600, 115200, 460800] ∧
    ((List.range 10).map ({ State.reset.control with sending := some [0xC3] } : Port).lineLevel)
      = [false, true, true, false, false, false, false, true, true, true] := by decide +kernel

/-- R174: the body and CRC from address 5 upward in any sizes, the header last, in one write, at address 0. -/
theorem test_store_writes_the_header_last :
    let image : List Byte := [0x5E, 0x91, 1, 0, 4, 10, 11, 12, 13]
    StoreProgress.sent ⟨image, .body 5 3, ⟨0, 2000⟩⟩ = (5, [10, 11, 12]) ∧
    StoreProgress.sent ⟨image, .body 8 1, ⟨0, 2000⟩⟩ = (8, [13]) ∧
    StoreProgress.sent ⟨image, .header, ⟨0, 2000⟩⟩ = (0, [0x5E, 0x91, 1, 0, 4]) := by decide

/-- The table gives no row any bits: no word spells a command. -/
theorem test_no_word_spells_a_command : decodeTableWord 8 0 = none := rfl

/-! ## Witnesses: invariants and lines -/

/-- The crossover in service with a phase expiry waiting is a safe state with a high clear output, and its step answers a
next state. It meets the hypotheses of every `EveryStepKeeps…` statement (each part of `Safe` holds) and of
`AHighClearOutputStandsForAnEmptyProvenSection`. -/
def inServiceWaiting : State := { inService with now := 60000100, pending := [.phaseTimerExpiry] }

theorem witness_safe_parts_points : inServiceWaiting.PointsOk ∧ inServiceWaiting.SectionsOk ∧
    inServiceWaiting.GroupsOk := by
  unfold State.PointsOk Point.Ok State.SectionsOk SectionRecord.Ok State.GroupsOk Group.Ok
  decide +kernel

theorem witness_safe_parts_outputs : inServiceWaiting.OutputsOk ∧ inServiceWaiting.TrustOk ∧
    inServiceWaiting.ViewOk ∧ inServiceWaiting.MembersOk ∧ inServiceWaiting.QuietOk := by
  unfold State.OutputsOk State.TrustOk State.ViewOk State.MembersOk State.QuietOk
  decide +kernel

theorem witness_safe_parts_ports : inServiceWaiting.ProofsOk ∧ inServiceWaiting.params.Ok ∧
    inServiceWaiting.LinesOk := by
  refine ⟨⟨by decide, by intro pr h; cases h⟩, ⟨?_, by decide⟩, ?_⟩
  · intro c; cases c <;> decide
  · unfold State.LinesOk Port.Ok Link.Ok Trace.Ok
    decide +kernel

theorem witness_safe : inServiceWaiting.Safe :=
  ⟨witness_safe_parts_points.1, witness_safe_parts_points.2.1, witness_safe_parts_points.2.2,
    witness_safe_parts_outputs.1, witness_safe_parts_outputs.2.1, witness_safe_parts_ports.1,
    witness_safe_parts_ports.2.1, witness_safe_parts_ports.2.2, witness_safe_parts_outputs.2.2.1,
    witness_safe_parts_outputs.2.2.2.1, witness_safe_parts_outputs.2.2.2.2⟩

theorem witness_EveryStepKeeps : inServiceWaiting.Safe ∧ (∃ t, step inServiceWaiting = .next t) ∧
    inServiceWaiting.device.state ≠ .configuring ∧ inServiceWaiting.device.state ≠ .loading ∧
    inServiceWaiting.pending.head? ≠ some .reset :=
  ⟨witness_safe, ⟨_, rfl⟩, by decide, by decide, by decide⟩

/-- A point in FAULT above the threshold, whose systems are not eligible; another point's system waiting in the queue. -/
theorem witness_EveryStepKeeps_eligible :
    let pt : Point := { countingPoint with
      level := 129, health := .fault, faultCause := some .level, faultTime := some 59000000
      proofA := { provenSystem with overdue := true, dueTimer := none, overdueTimer := none }
      proofB := { provenSystem with overdue := true, dueTimer := none, overdueTimer := none } }
    let s : State := { onP 0 (fun _ => pt) inServiceWaiting with queue := [⟨1, .a⟩] }
    let t : State := { s with points := .ofFn (fun p => if p.val < 5 then s.point p else
      { unusedPoint with proofA := { unusedPoint.proofA with overdue := true }
                         proofB := { unusedPoint.proofB with overdue := true } }) }
    t.EligibleOk ∧ t.LevelsOk ∧ t.params.fault ≤ (t.point 0).level ∧ ⟨1, .a⟩ ∈ t.queue ∧ ∃ u, step t = .next u := by
  refine ⟨⟨by decide +kernel, nofun, fun p x => ?_⟩, ?_, by decide +kernel, by decide +kernel, _, rfl⟩
  · cases x <;> revert p <;> decide +kernel
  · unfold State.LevelsOk
    decide +kernel

theorem witness_AHighClearOutputStandsForAnEmptyProvenSection :
    inServiceWaiting.Safe ∧ clrLevel inServiceWaiting.outputs 0 = true ∧ (0 : PointId) ∈ members inServiceWaiting 0 :=
  ⟨witness_safe, by decide, by decide⟩

/-- Both branches of the sample time; a supply-good input at its tenth differing sample. -/
theorem witness_IdleStepPassesOneUnitOfTime : inService.pending = [] ∧ inService.sampleDue = false ∧
    State.reset.pending = [] ∧ State.reset.sampleDue = true ∧
    ({ readyGroup with pinHigh := false, run := 9 } : Group).accepts = true := by decide

/-- Run lengths 0, 1 and 2 on the accepted level; with filter 20, the 19th and the 20th differing sample; equal change
times and one unit apart, also across the wrap; a supply input at its ninth and tenth differing sample. -/
theorem witness_SampleActsByTheRunLengthTable :
    let l1 : Line := { freeLine with run := 1 }
    let l2 : Line := { freeLine with run := 2 }
    let l18 : Line := { freeLine with pinLow := true, run := 18 }
    let l19 : Line := { l18 with run := 19 }
    let low : Group := { readyGroup with pinHigh := false, run := 8 }
    (freeLine.pinLow = freeLine.accepted ∧ freeLine.run = 0) ∧ (l1.pinLow = l1.accepted ∧ 1 ≤ l1.run ∧ ¬2 ≤ l1.run) ∧
    (l2.pinLow = l2.accepted ∧ 2 ≤ l2.run) ∧
    (l18.pinLow ≠ l18.accepted ∧ l18.run + 1 < 20) ∧ (l19.pinLow ≠ l19.accepted ∧ 20 ≤ l19.run + 1) ∧
    (((5 - 4 : Time).toNat < (5 - 3 : Time).toNat) ∧ ((5 - 0 : Time).toNat < (5 - 0xFFFFFFFF : Time).toNat)) ∧
    (∀ ta tb, ¬(Found.nothing = .accepted ta ∧ Found.accepted 5 = .accepted tb)) ∧
    (readyGroup.pinHigh = readyGroup.good) ∧ (low.pinHigh ≠ low.good ∧ ¬10 ≤ low.run + 1) ∧
    (let r : Group := { low with run := 9 }
     r.pinHigh ≠ r.good ∧ 10 ≤ r.run + 1) := by
  simp only [reduceCtorEq, false_and, not_false_eq_true, implies_true, true_and]
  decide

/-- A point out of use in a READY group, and a point in use in a dark group. -/
def darkGroup : State := onG 0 (fun g => { g with state := .failed, failReason := some .supplyLoss }) inService

theorem witness_AChangeAtADarkPointUpdatesItsLineAlone :
    (lit inService 5 && inUse inService 5) = false ∧ lit inService 5 = true ∧
    (lit darkGroup 0 && inUse darkGroup 0) = false ∧ inUse darkGroup 0 = true := by decide

/-- Point 0 confused, at rest and with its quiet timer running from time 59,950,000. -/
def confusedAt (c : ConfusionCause) : State :=
  onP 0 (fun pt => { pt with machine := .confused, confusion := some ⟨c, 59900000⟩, quietTimer := some ⟨59950000, 50000⟩ })
    inService

/-- Point 0 with its machine in state `m`, its record in flight, and its lines reading `a` and `b`. -/
def inCell (m : DirectionMachine) (a b : Bool) : State :=
  let line (occupied : Bool) : Line := if occupied then occupiedLine else freeLine
  onP 0 (fun pt => { pt with
    machine := m, lineA := line a, lineB := line b
    passage := if m.crossing then some (Passage.opened 59000000) else none
    confusion := if m = .confused then some ⟨.jump, 59000000⟩ else none }) inService

/-- The cells of R9: a state with the pair it holds, the lines that change, and the new pair. -/
def cells : List (DirectionMachine × (Bool × Bool) × Lines × Bool × Bool) :=
  [(.idle, (false, false), .a, true, false), (.idle, (false, false), .b, false, true),
   (.idle, (false, false), .both, true, true),
   (.up1, (true, false), .a, false, false), (.up1, (true, false), .both, false, true),
   (.up1, (true, false), .b, true, true),
   (.up2, (true, true), .both, false, false), (.up2, (true, true), .b, true, false), (.up2, (true, true), .a, false, true),
   (.up3, (false, true), .b, false, false), (.up3, (false, true), .both, true, false),
   (.up3, (false, true), .a, true, true),
   (.dn1, (false, true), .b, false, false), (.dn1, (false, true), .both, true, false),
   (.dn1, (false, true), .a, true, true),
   (.dn2, (true, true), .both, false, false), (.dn2, (true, true), .b, true, false), (.dn2, (true, true), .a, false, true),
   (.dn3, (true, false), .a, false, false), (.dn3, (true, false), .both, false, true), (.dn3, (true, false), .b, true, true),
   (.confused, (true, true), .both, false, false), (.confused, (false, false), .a, true, false)]

theorem witness_ADeliveredChangeMovesTheMachineByTheTable :
    ∀ c ∈ cells,
      let s := inCell c.1 c.2.1.1 c.2.1.2
      lit s 0 = true ∧ inUse s 0 = true ∧ proofAt s 0 = none ∧ (s.point 0).machine = c.1 ∧
        reads (s.withChanges 0 c.2.2.1 60000000) 0 .a = c.2.2.2.1 ∧
        reads (s.withChanges 0 c.2.2.1 60000000) 0 .b = c.2.2.2.2 := by decide +kernel

/-- A change is delivered outside a proof, and in the wait after an abort when it is the arriving system's. -/
theorem witness_Delivers :
    let s := inCell .up1 true false
    let w : State := { inCell .dn1 false true with
      channel := some ⟨⟨0, .a⟩, .abortWait, 59999000, none, ⟨59999800, 200⟩, false⟩ }
    Delivers s 0 .both ∧ Delivers w 0 .b ∧ (w.point 0).machine = .dn1 ∧
      reads (w.withChanges 0 .b 60000000) 0 .a = false ∧ reads (w.withChanges 0 .b 60000000) 0 .b = false :=
  ⟨⟨by decide, by decide, .inl (by decide)⟩, ⟨by decide, by decide, .inr ⟨_, .b, rfl, rfl, rfl, rfl⟩⟩, by decide,
    by decide, by decide⟩

/-- Point 0 in UP1, A occupied, and in DN1, B occupied. -/
def inUp1 : State := after [.acceptedChange 0 .a 60000000] inService
def inDn1 : State := after [.acceptedChange 0 .b 60000000] inService

theorem witness_WheelOnsetsAndRetreatsMoveTheMachine :
    (Delivers inService 0 (Sys.a).lines ∧ (inService.point 0).machine = .idle ∧
      ((inService.point 0).line .a).accepted = false ∧ reads inService 0 .b = false) ∧
    (Delivers inUp1 0 (Sys.a).lines ∧ (inUp1.point 0).machine = firstState .a ∧
      ((inUp1.point 0).line .a).accepted = true ∧ reads inUp1 0 .b = false ∧ (inUp1.point 0).passage.isSome = true ∧
      (busy inUp1).service.sending ≠ none) ∧
    (Delivers inDn1 0 (Sys.b).lines ∧ (inDn1.point 0).machine = firstState .b ∧
      ((inDn1.point 0).line .b).accepted = true ∧ reads inDn1 0 .a = false) ∧
    ((inService.point 0).lineA.accepted = false ∧ (inService.point 0).lineB.accepted = false) :=
  ⟨⟨⟨by decide, by decide, .inl (by decide)⟩, by decide, by decide, by decide⟩,
    ⟨⟨by decide +kernel, by decide +kernel, .inl (by decide +kernel)⟩, by decide +kernel, by decide +kernel,
      by decide +kernel, by decide +kernel, by decide +kernel⟩,
    ⟨⟨by decide +kernel, by decide +kernel, .inl (by decide +kernel)⟩, by decide +kernel, by decide +kernel,
      by decide +kernel⟩, by decide⟩

/-- Point 0 in UP3 of the clean passage of section 1.5, and in DN3 of its mirror. -/
def inUp3 : State := after [.acceptedChange 0 .a 1000, .acceptedChange 0 .b 1498, .acceptedChange 0 .a 2100] inService
def inDn3 : State := after [.acceptedChange 0 .b 1000, .acceptedChange 0 .a 1498, .acceptedChange 0 .b 2100] inService

/-- Point 0 in UP3 of the passage of section 2.4 with both anomalies, at a health level. -/
def inHaste (level : Nat) : State :=
  busy (onP 0 (fun pt => { pt with level := level, health := .warn })
    (after [.acceptedChange 0 .a 0, .acceptedChange 0 .b 60, .acceptedChange 0 .a 1000] inService))

/-- The timing of the passage that point 0 completes with system `x` at time `t`. -/
def timingAt (x : Sys) (t : Time) (d : Direction) (s : State) : Timing :=
  ((s.withChange 0 x t).recordAfter 0 x t).timing s.params (s.point 0).params.spacing d

theorem witness_ACountedPassageIsHandedToItsSections :
    (∀ s ∈ [inUp3, inState .starting inUp3, onP 0 (fun pt => { pt with mode := .supervising }) inUp3],
      lit s 0 = true ∧ inUse s 0 = true ∧ proofAt s 0 = none ∧ (s.point 0).machine = .up3 ∧
        ((s.point 0).line .b).accepted = true ∧ ((s.point 0).line .a).accepted = false ∧
        (timingAt .b 2612 .up s).irregular = false ∧ (timingAt .b 2612 .up s).overspeed = false) ∧
    ([inUp3, inState .starting inUp3, onP 0 (fun pt => { pt with mode := .supervising }) inUp3].map
      (fun s => counting s 0)) = [true, false, false] ∧
    (lit inDn3 0 = true ∧ inUse inDn3 0 = true ∧ proofAt inDn3 0 = none ∧ (inDn3.point 0).machine = .dn3 ∧
      ((inDn3.point 0).line .a).accepted = true ∧ ((inDn3.point 0).line .b).accepted = false) := by
  decide +kernel

/-- An irregular and overspeed passage whose weights of 8 stop one short of the fault threshold, and reach it. -/
theorem witness_ACountedPassageIsHandedToItsSections_anomalies :
    (∀ level ∈ [119, 120],
      lit (inHaste level) 0 = true ∧ inUse (inHaste level) 0 = true ∧ proofAt (inHaste level) 0 = none ∧
        ((inHaste level).point 0).machine = .up3 ∧ (((inHaste level).point 0).line .b).accepted = true ∧
        (((inHaste level).point 0).line .a).accepted = false ∧ (inHaste level).service.sending ≠ none ∧
        (timingAt .b 1100 .up (inHaste level)).irregular = true ∧
        (timingAt .b 1100 .up (inHaste level)).overspeed = true) ∧
    ¬((inHaste 119).point 0).faults (inHaste 119).params
      ((inHaste 119).params.wIrregular + (inHaste 119).params.wOverspeed) ∧
    ((inHaste 120).point 0).faults (inHaste 120).params
      ((inHaste 120).params.wIrregular + (inHaste 120).params.wOverspeed) := by
  unfold Point.faults
  decide +kernel

/-- The lead intervals 65535, just saturated, and 65534; a passing and a failing pair (section 2.4). -/
theorem witness_TimingArithmeticFollowsItsStages :
    (let r := upRecord 0 65535 70000 70100
     r.aOn = some 0 ∧ r.bOn = some 65535 ∧ r.aOff = some 70000 ∧ r.bOff = some 70100 ∧ r.reversal = false ∧
       r.partly = false ∧ min 65535 (65535 - 0 : Time).toNat = 65535) ∧
    (min 65535 (65534 - 0 : Time).toNat < 65535) ∧
    ((512 - 498) * 16 ≤ defaults.tol * 512) ∧ ¬((520 - 300) * 16 ≤ defaults.tol * 520) ∧
    { upRecord 0 498 1000 1512 with reversal := true }.reversal = true := by decide

/-- Point 0 at a health level, both transmitters busy. -/
def atLevel (level : Nat) : State := busy (onP 0 (fun pt => { pt with level := level, health := .warn }) inService)

/-- A glitch of 2 samples and of 1; the weight one short of the fault threshold, and reaching it. -/
theorem witness_AGlitchTakenAddsItsWeight :
    (∀ level ∈ [126, 127],
      takesGlitch (atLevel level) 0 .a = true ∧ proofAt (atLevel level) 0 = none ∧ (atLevel level).service.sending ≠ none) ∧
    (2 ≤ (2 : Byte).toNat ∧ (1 : Byte).toNat < 2) ∧
    ¬((atLevel 126).point 0).faults (atLevel 126).params (atLevel 126).params.wGlitch ∧
    ((atLevel 127).point 0).faults (atLevel 127).params (atLevel 127).params.wGlitch ∧
    takesGlitch inService 5 .a = false := by
  unfold Point.faults
  decide +kernel

/-- The quiet timer at its expiry, with the start-up mark and without; the confused weight of 32 one short of the fault
threshold, and reaching it. -/
theorem witness_TheQuietTimerEndsConfusion :
    let weighed (level : Nat) : State := busy (onP 0 (fun pt => { pt with level := level, health := .warn })
      (confusedAt .jump))
    (((confusedAt .startUp).point 0).machine = .confused ∧
      ((confusedAt .startUp).point 0).confusion = some ⟨.startUp, 59900000⟩ ∧
      ((confusedAt .startUp).point 0).quietTimer = some ⟨59950000, 50000⟩ ∧
      (Timer.mk 59950000 50000).reached (confusedAt .startUp).now = true) ∧
    (∀ level ∈ [95, 96], ((weighed level).point 0).machine = .confused ∧
      ((weighed level).point 0).confusion = some ⟨.jump, 59900000⟩ ∧ ConfusionCause.jump ≠ .startUp ∧
      ((weighed level).point 0).quietTimer = some ⟨59950000, 50000⟩ ∧ proofAt (weighed level) 0 = none ∧
      (weighed level).service.sending ≠ none) ∧
    ¬((weighed 95).point 0).faults (weighed 95).params (weighed 95).params.wConfused ∧
    ((weighed 96).point 0).faults (weighed 96).params (weighed 96).params.wConfused := by
  unfold Point.faults
  decide +kernel

/-- The leak timer at its expiry; levels at and beside each threshold of the table. -/
theorem witness_TheLeakLowersEveryLevel :
    let s := onP 0 (fun pt => { pt with level := 1 }) { inService with now := 60500000 }
    (s.leakTimer.reached s.now = true ∧
      ∀ p, (s.point p).health ≠ .fault → (s.point p).level - 1 < s.params.fault) ∧
    defaults.warnOn < defaults.fault ∧ defaults.fault ≤ 128 ∧ defaults.warnOn ≤ 32 ∧ 32 < defaults.fault ∧
    31 < defaults.warnOn ∧ defaults.warnOn / 2 < 17 ∧ 16 ≤ defaults.warnOn / 2 := by decide +kernel

/-! ## Witnesses: proofs -/

/-- Both timers of system 0A at their expiry; a second system of the point overdue already. -/
theorem witness_DueAndOverdueTimersMarkTheirSystem :
    timerReached 65000000 ((inService.point 0).proof .a).dueTimer = true ∧
    timerReached 71000000 ((inService.point 0).proof .a).overdueTimer = true := by decide

/-- Systems 0A and 1A wait; point 0 has a wheel over it. -/
def waiting : State := { inUp1 with queue := [⟨0, .a⟩, ⟨1, .a⟩, ⟨1, .b⟩] }

theorem witness_TheFreeChannelTakesTheFirstTakeableSystem :
    waiting.channel = none ∧ stagedReady waiting = false ∧ waiting.sequencer.activity = .none ∧
    waiting.queue = [⟨0, .a⟩] ++ ⟨1, .a⟩ :: [⟨1, .b⟩] ∧ (⟨1, .a⟩ : SystemId) ∉ ([⟨0, .a⟩] : List SystemId) ∧
    (∀ y ∈ ([⟨0, .a⟩] : List SystemId), (waiting.point y.point).machine ≠ .idle ∨
      (waiting.point y.point).staged ≠ none) ∧
    (waiting.point 1).machine = .idle ∧ (waiting.point 1).staged = none := by decide +kernel

/-- A staged pair ready with a system waiting; no system to take; and each activity at its end and before it. -/
theorem witness_TheFreeChannelTakesTheFirstTakeableSystem_rest :
    (let s := onP 1 (fun pt => { pt with staged := some ⟨140, 20⟩ }) waiting
     s.sequencer.activity = .none ∧ stagedReady s = true ∧ s.channel = none ∧ s.queue ≠ []) ∧
    (let s := { waiting with queue := [⟨0, .a⟩] }
     (∀ y ∈ s.queue, takeable s y = false) ∧ stagedReady s = false) ∧
    (let s (a : Activity) (next : Option GroupId) (st : GroupState) : State :=
       inState .starting (onG 3 (fun g => { g with state := st })
         { inService with sequencer := { inService.sequencer with activity := a, nextTurn := next } })
     ((s .powerOn none .ready).sequencer.nextTurn = none ∧
       ∀ g, ((s .powerOn none .ready).group g).state ≠ .enabling ∧ ((s .powerOn none .ready).group g).state ≠ .settling) ∧
     (s .powerOn (some 3) .ready).sequencer.nextTurn ≠ none ∧ ((s .powerOn none .settling).group 3).state = .settling ∧
     ((s .powerOff none .off).sequencer.nextTurn = none ∧ ∀ g, ((s .powerOff none .off).group g).state ≠ .disabling) ∧
     ((s .powerOff none .disabling).group 3).state = .disabling ∧
     (∀ st ∈ [GroupState.ready, .failed, .manual], ((s (.recycle 3) none st).group 3).state = st) ∧
     ((s (.recycle 3) none .settling).group 3).state = .settling) := by decide +kernel

/-- System 0A under proof since time 59,999,800, its response window of 200 units at its end. -/
def underTest (ph : Phase) : State :=
  { inService with channel := some ⟨⟨0, .a⟩, ph, 59999800, none, ⟨59999800, 200⟩, false⟩ }

theorem witness_AProofTakesTheChangesOfItsPoint :
    (lit (underTest .assert) 0 = true ∧ inUse (underTest .assert) 0 = true ∧
      (underTest .assert).channel = some ⟨⟨0, .a⟩, .assert, 59999800, none, ⟨59999800, 200⟩, false⟩ ∧
      (((underTest .assert).point 0).line .a).accepted = false) ∧
    (lit (underTest .release) 0 = true ∧ inUse (underTest .release) 0 = true ∧
      ((onP 0 (fun pt => { pt with lineA := occupiedLine }) (underTest .release)).point 0).lineA.accepted = true ∧
      (busy (underTest .release)).service.sending ≠ none) ∧
    ((((underTest .release).point 0).line .b).accepted = false ∧ Phase.release ≠ .abortWait) ∧
    (∀ l ∈ [freeLine, occupiedLine],
      let s := onP 0 (fun pt => { pt with lineA := l }) (underTest .abortWait)
      lit s 0 = true ∧ inUse s 0 = true ∧ ((s.point 0).line .a).accepted = l.accepted) ∧
    (let s := onP 0 (fun pt => { pt with lineA := occupiedLine, staged := some ⟨150, 30⟩ }) (underTest .release)
     lit s 0 = true ∧ inUse s 0 = true ∧ (s.point 0).machine = .idle ∧ (s.point 0).staged = some ⟨150, 30⟩ ∧
       ((s.point 0).line .a).accepted = true ∧ ((s.point 0).line .b).accepted = false) := by decide

/-- The entry to FAULT of a point at rest, dark, and under proof, each with a line free and occupied. -/
theorem witness_AGlitchTakenAddsItsWeight_fault :
    (∀ l ∈ [freeLine, occupiedLine], ∀ y ∈ [Sys.a, .b],
      let s := onP 0 (fun pt => pt.onLine y (fun _ => l)) inService
      let d := onP 0 (fun pt => pt.onLine y (fun _ => l)) darkGroup
      let u := onP 0 (fun pt => pt.onLine y (fun _ => l)) (underTest .assert)
      (proofAt s 0 = none ∧ lit s 0 = true ∧ inUse s 0 = true ∧ ((s.point 0).line y).accepted = l.accepted) ∧
      (proofAt d 0 = none ∧ lit d 0 = false) ∧
      (underProof u 0 .a = true ∧ lit u 0 = true ∧ inUse u 0 = true ∧ ((u.point 0).line y).accepted = l.accepted)) ∧
    inServiceWaiting.ViewOk ∧
    (counting inService 0 = true ∧ (1 : SectionId) ∈ (inService.entry 0).bounds ∧
      (inService.sec 1).state.trusted = true) :=
  ⟨by decide +kernel, witness_safe_parts_outputs.2.2.1, by decide⟩

/-- The window at its end, with the tested system free and occupied: nothing failed before; one failure before; and the
proof weight of 64 reaching the fault threshold from level 64. -/
theorem witness_AProofThatIsNotAnsweredFails :
    ∀ ph ∈ [Phase.assert, Phase.release], ∀ l ∈ [freeLine, occupiedLine],
      let s (failures level : Nat) : State := busy (onP 0 (fun pt => { pt with
        lineA := l, level := level, health := if level = 0 then .ok else .warn
        proofA := { pt.proofA with failures := failures } }) (underTest ph))
      (Timer.mk 59999800 200).reached 60000000 = true ∧
      (∀ failures ∈ [0, 1], ∀ level ∈ [0, 63, 64],
        ((s failures level).point 0).machine = .idle ∧ eligible (s failures level) 0 = true ∧
        (((s failures level).point 0).proof .a).failures = failures ∧
        (((s failures level).point 0).line .b).accepted = false ∧ (⟨0, .a⟩ : SystemId) ∉ (s failures level).queue ∧
        (s failures level).service.sending ≠ none) ∧
      ¬((s 0 63).point 0).faults (s 0 63).params (s 0 63).params.wProof ∧
      ((s 0 64).point 0).faults (s 0 64).params (s 0 64).params.wProof := by
  unfold Point.faults
  decide +kernel

/-- A wheel has reached B of point 0 while A was under proof: the wait ends with A read free, and without. -/
def aborted (readFree : Bool) (l : Line) : State :=
  { onP 0 (fun pt => { pt with lineA := l }) inDn1 with
    channel := some ⟨⟨0, .a⟩, .abortWait, 59999000, none, ⟨59999800, 200⟩, readFree⟩ }

theorem witness_TheAbortWaitEndsInItsDecision :
    (∀ readFree ∈ [true, false], ∀ l ∈ [freeLine, occupiedLine],
      let s := aborted readFree l
      (Timer.mk 59999800 200).reached s.now = true ∧ eligible s 0 = true ∧ ((s.point 0).machine = firstState (Sys.a).other) ∧
        ((s.point 0).line .a).accepted = l.accepted ∧ ((s.point 0).line (Sys.a).other).accepted = true ∧
        (busy s).service.sending ≠ none) ∧
    (∀ readFree ∈ [true, false], ∀ l ∈ [freeLine, occupiedLine],
      let s := onP 0 (fun pt => { pt with lineB := freeLine, machine := .idle, passage := none }) (aborted readFree l)
      eligible s 0 = true ∧ (s.point 0).machine = .idle ∧ ((s.point 0).line .a).accepted = l.accepted ∧
        ((s.point 0).line (Sys.a).other).accepted = false) ∧
    (let s := onP 0 (fun pt => { pt with machine := .confused, confusion := some ⟨.jump, 59999900⟩, passage := none })
       (aborted true freeLine)
     eligible s 0 = true ∧ (s.point 0).machine ≠ firstState (Sys.a).other ∧ (s.point 0).machine ≠ .idle) := by
  decide +kernel

/-! ## Witnesses: sections -/

theorem witness_NoticesReachTheSectionsOfThePoint :
    (1 : SectionId) ∈ (inService.entry 0).bounds ∧ (0 : SectionId) ∈ (inService.entry 0).bounds ∧
    (2 : SectionId) ∉ (inService.entry 0).bounds := by decide

def upEvent : CountEvent :=
  { point := 0, direction := .up, time := 2612, speed := some 100, plausibility := some .pass, left := some 0
    entered := some 1 }

theorem witness_HandOverAppliesBothSides :
    upEvent.left = some 0 ∧ upEvent.entered = some 1 ∧ (0 : SectionId) ≠ 1 ∧ (2 : SectionId) ≠ 0 := by decide

/-- Counts 0, 1, 1022 and 1023; each state; clear delays 0 and 1; and the sweep and proof-hold flags both ways. -/
theorem witness_SectionsFollowTheirTables :
    ∀ st ∈ [SectionState.unused, .disturbed, .occupied, .restoring, .clearing, .clear], ∀ c ∈ [0, 1, 1022, 1023],
      ∀ d ∈ [0, 1], ∀ f ∈ [true, false],
      let r : SectionRecord :=
        { SectionRecord.reset with state := st, count := c, clearDelay := d, sweep := f, hold := f }
      ((r.state = .unused ∨ r.state = .disturbed) ∨ r.state ≠ .unused ∧ r.state ≠ .disturbed) ∧
        (r.count = 0 ∨ 1 ≤ r.count) ∧ (r.count = 1023 ∨ r.count ≤ 1022) ∧ r.count ≤ 1023 := by
  decide

/-- Section 0 in CLEARING at its clear-delay expiry, with no member overdue and with one; a holdoff at its expiry. -/
def clearing0 : State :=
  onS 0 (fun r => { r with state := .clearing, clearTimer := some ⟨59900000, 100000⟩
                           holdoffTimer := some ⟨59500000, 500000⟩ }) inService

theorem witness_TheClearDelayEndsInClearOrHold :
    let held := { clearing0 with view := clearing0.view.set 0 ⟨false, true⟩ }
    ((clearing0.sec 0).state = .clearing ∧ timerReached clearing0.now (clearing0.sec 0).clearTimer = true ∧
      anyOverdue clearing0 0 = false) ∧
    ((held.sec 0).state = .clearing ∧ timerReached held.now (held.sec 0).clearTimer = true ∧
      anyOverdue held 0 = true ∧ (held.sec 0).hold = false) ∧
    (∀ i ∈ [PortId.control, .service], ((busy held).port i).sending ≠ none) ∧
    timerReached clearing0.now (clearing0.sec 0).holdoffTimer = true := by decide

/-! ## Witnesses: supplies -/

theorem witness_ADarkenedPointStopsCounting :
    inServiceWaiting.PointsOk ∧ inServiceWaiting.ViewOk ∧ wasCounting inServiceWaiting 0 = true ∧
    (1 : SectionId) ∈ (inServiceWaiting.entry 0).bounds ∧ (inServiceWaiting.sec 1).state.trusted = true :=
  ⟨witness_safe_parts_points.1, witness_safe_parts_outputs.2.2.1, by decide, by decide, by decide⟩

/-- Group 0 in a state, with a supply level and a timer of 10,000 units at its end. -/
def groupIn (st : GroupState) (good : Bool) : State :=
  onG 0 (fun g => { g with state := st, good := good, timer := some ⟨59990000, 10000⟩ }) inService

theorem witness_ASupplyGoodChangeActsByTheGroupState :
    (((groupIn .enabling false).group 0).state = .enabling ∧ (!((groupIn .enabling false).group 0).good) = true) ∧
    (((groupIn .settling true).group 0).state = .settling ∧ (!((groupIn .settling true).group 0).good) = false) ∧
    (((groupIn .ready true).group 0).state = .ready ∧ (!((groupIn .ready true).group 0).good) = false) ∧
    (((groupIn .off false).group 0).state ≠ .enabling ∧ (!((groupIn .off false).group 0).good) = true) ∧
    (((groupIn .enabling true).group 0).state ≠ .settling ∧ ((groupIn .enabling true).group 0).state ≠ .ready ∧
      (!((groupIn .enabling true).group 0).good) = false) := by decide

theorem witness_GroupTimersActByTheirStates :
    ∀ st ∈ [GroupState.enabling, .settling, .disabling], ∀ good ∈ [true, false],
      timerReached (groupIn st good).now ((groupIn st good).group 0).timer = true ∧
        ((groupIn st good).group 0).state = st := by decide +kernel

/-- A point that lights: out of use, in FAULT, and in use with its lines free and with one occupied. -/
theorem witness_GroupTimersActByTheirStates_light :
    let ended (m : Mode) (h : Health) (l : Line) : State := onP 0 (fun pt => { pt with
      mode := m, health := h, lineA := l
      proofA := { provenSystem with overdue := true, dueTimer := none, overdueTimer := none }
      proofB := { provenSystem with overdue := true, dueTimer := none, overdueTimer := none } }) inService
    ∀ m ∈ [Mode.outOfUse, .supervising, .counting], ∀ h ∈ [Health.ok, .fault], ∀ l ∈ [freeLine, occupiedLine],
      let s := ended m h l
      lit s 0 = true ∧ (s.point 0).machine = .idle ∧ (s.point 0).health = h ∧ inUse s 0 = decide (m ≠ .outOfUse) ∧
        ∀ x ∈ [Sys.a, .b], ((s.point 0).proof x).overdue = true ∧ (⟨0, x⟩ : SystemId) ∉ s.queue ∧
          underProof s 0 x = false := by decide +kernel

/-- The turn of the last group of either sequence, and of one before it. -/
def turnOf (a : Activity) (g : GroupId) : State :=
  { inService with sequencer := ⟨⟨1, 1, 1, 500⟩, a, some g, some ⟨59980000, 20000⟩⟩ }

theorem witness_TheTurnTimerGivesTheNextTurn :
    ((turnOf .powerOn 3).sequencer.nextTurn = some 3 ∧ (turnOf .powerOn 3).sequencer.activity = .powerOn ∧
      timerReached (turnOf .powerOn 3).now (turnOf .powerOn 3).sequencer.turnTimer = true) ∧
    ((turnOf .powerOn 2).sequencer.nextTurn = some 2 ∧ (turnOf .powerOn 2).sequencer.params.delay 2 ≠ 0) ∧
    ((turnOf .powerOff 0).sequencer.nextTurn = some 0 ∧ (turnOf .powerOff 0).sequencer.activity = .powerOff) ∧
    ((turnOf .powerOff 1).sequencer.nextTurn = some 1 ∧ (turnOf .powerOff 1).sequencer.params.delay 0 ≠ 0) := by decide

/-- The configured part, no supply on. -/
def configuring : State := inState .configuring (onG 0 (fun _ => .reset false)
  (onG 1 (fun _ => .reset false) (onG 2 (fun _ => .reset false) (onG 3 (fun _ => .reset false)
    { State.reset with topology := crossover }))))

theorem witness_SetSupplyParametersReplacesTheFour :
    configuring.service.replies.length < 4 ∧ configuring.device.state = .configuring ∧
    ∀ g, (configuring.group g).state ≠ .settling := by decide

theorem witness_RecycleAndForceDarkenTheGroup :
    inService.service.replies.length < 4 ∧ inService.device.state = .running ∧ inService.sequencer.activity = .none ∧
    (inService.group 0).state = .ready ∧ (darkGroup.group 0).state = .failed ∧ darkGroup.device.state = .running ∧
    inService.device.state.live = true ∧ configuring.device.state.live = true := by decide

/-- Group 0 forced, the supply reading good or not, in each live device state. -/
def forcedGroup (on good : Bool) (d : DeviceState) : State :=
  inState d (onG 0 (fun g => { g with state := .manual, good := good, forced := some on }) inService)

theorem witness_ReleaseSupplyFollowsItsTable :
    (∀ on ∈ [true, false], ∀ good ∈ [true, false], ∀ d ∈ [DeviceState.configuring, .starting, .running],
      let s := forcedGroup on good d
      s.service.replies.length < 4 ∧ s.device.state.live = true ∧ s.device.state = d ∧ (s.group 0).state = .manual ∧
        (s.group 0).forced = some on ∧ (s.group 0).good = good) ∧
    (let s := { forcedGroup false false .starting with sequencer := ⟨⟨1, 1, 1, 500⟩, .powerOn, some 0, none⟩ }
     s.sequencer.nextTurn = some 0 ∧ (0 : GroupId) ≤ 0) ∧
    (∀ next, (forcedGroup false false .starting).sequencer.nextTurn = some next → (0 : GroupId) < next) := by
  decide +kernel

/-! ## Witnesses: outputs and ports -/

theorem witness_ThePhaseEdgeActsOnTheOutputs :
    let s := inServiceWaiting
    (s.outputs.phaseTimer.reached s.now = true ∧ s.outputs.phaseHigh = true) ∧
    (let s' := { s with outputs := { s.outputs with phaseHigh := false } }
     s'.outputs.phaseTimer.reached s'.now = true ∧ s'.outputs.phaseHigh = false) := by decide

theorem witness_PortTimersRefillAndSupervise :
    (∀ i ∈ [PortId.control, .service],
      (({ inService with now := 60004000 } : State).port i).refillTimer.reached 60004000 = true ∧
        ((busy inService).port i).sending ≠ none) ∧
    (inService.link.imageTimer.reached 60005000 = true ∧ inService.control.sending = none ∧
      inService.control.replies = []) ∧ (busy inService).control.sending ≠ none ∧
    (inService.control.tokens = inService.control.burst ∧ ({ inService.control with tokens := 3 } : Port).tokens < 4) ∧
    timerReached 60090000 inService.link.timer = true := by decide

/-- A port whose frame has ended, with what waits. -/
def sent (q : Port) : Port := { q with sending := some [] }
def aReply : Reply := ⟨0x04, 1, .accepted []⟩

theorem witness_TheTransmitterTakesTheFirstReadySource :
    let s := { inService with control := sent inService.control, service := sent inService.service }
    (∀ i ∈ [PortId.control, .service], (s.port i).sending ≠ none ∧ (s.port i).replies = []) ∧
    (sent { inService.control with replies := [aReply] }).replies = aReply :: [] ∧
    ({ s.link with imageDue := true } : Link).imageDue = true ∧ s.link.imageDue = false ∧
    (let q := sent { inService.service with queue := [⟨.device, 1⟩], tokens := 1 }
     q.queue = ⟨.device, 1⟩ :: [] ∧ 0 < q.tokens) ∧ s.link.up = true ∧
    ({ s.trace with buffer := [.gap 1] } : Trace).buffer = .gap 1 :: [] ∧ s.trace.buffer = [] ∧
    inService.control.sending = none ∧
    (∀ k ∈ [0, 1, 8, 9], k < 10 ∧ 0 < [(0xC3 : Byte)].length ∧
      ({ inService.control with sending := some [0xC3] } : Port).sending = some [0xC3]) := by decide

/-- A subject of each class, and each autostart result. -/
theorem witness_TheTransmitterTakesTheFirstReadySource_reports :
    (∀ x ∈ [Subject.sec 11, .point 15, .group 3, .device], (ReportEntry.mk x 1).subject = x) ∧
    (∀ a ∈ [none, some AutostartResult.notRequested, some .started, some (.refused (.members 11))],
      ({ inService.device with autostart := a } : Device).autostart = a) := by decide

/-- The assembly in each state; LEN 1, 2, 242 and 243; the last byte of a frame whose CRC does not match. -/
theorem witness_TheAssemblyFollowsItsTable :
    inService.control.assembly = .hunting ∧
    ({ inService.control with assembly := .length } : Port).assembly = .length ∧
    (2 ≤ (2 : Byte).toNat ∧ (242 : Byte).toNat ≤ 242 ∧ (1 : Byte).toNat < 2 ∧ 242 < (243 : Byte).toNat) ∧
    (([4, 0, 0] : List Byte).length + 1 = (2 : Byte).toNat + 2 ∧
      (([4, 0, 0] : List Byte) ++ [0]).drop (2 : Byte).toNat ≠
        crcBytes (2 :: (([4, 0, 0] : List Byte) ++ [0]).take (2 : Byte).toNat)) ∧
    ([4, 0] : List Byte).length + 1 < (2 : Byte).toNat + 2 ∧
    timerReached 500 (some ⟨0, 500⟩) = true := by decide +kernel

/-- A LINK CHECK frame with TAG 7, up to its last byte. -/
def linkCheckKept : List Byte := [0x04, 7] ++ (crcBytes [2, 0x04, 7]).take 1
def linkCheckLast : Byte := (crcBytes [2, 0x04, 7]).getD 1 0

theorem witness_AValidFrameIsTakenAsItsCommand :
    ([] : List Byte).length ≤ 240 ∧ (BitVec.ofNat 8 (([] : List Byte).length + 2) : Byte) = 2 ∧
    linkCheckKept ++ [linkCheckLast] = 0x04 :: 7 :: [] ++ crcBytes (2 :: 0x04 :: 7 :: []) ∧
    ({ inService with control := { inService.control with assembly := .collecting 2 linkCheckKept } } : State).control.assembly
      = .collecting 2 linkCheckKept := by decide +kernel

/-- A full reply FIFO, and one with a free entry; the kinds at the ends of their ranges; bodies one byte short and one
byte long on a permitted port. -/
theorem witness_ThePortChecksComeFirst :
    4 ≤ ({ inService.control with replies := List.replicate 4 aReply } : Port).replies.length ∧
    (busy inService).control.sending ≠ none ∧
    ({ inService.control with replies := List.replicate 3 aReply } : Port).replies.length < 4 ∧
    ((0 : Byte).toNat = 0 ∧ 0x17 < (0x18 : Byte).toNat) ∧ (9 ≤ (9 : Byte).toNat ∧ (0x17 : Byte).toNat ≤ 0x17) ∧
    (∀ l ∈ [([0, 0, 0] : List Byte), [0, 0, 0, 0, 0]], (1 : Byte).toNat ≤ 8 ∧ ¬l.length = 4) ∧
    (∀ l ∈ [([0, 0] : List Byte), [0, 0, 0, 0, 0]], 3 ≤ (0x0D : Byte).toNat ∧ ¬(l.length = 3 ∨ l.length = 4)) ∧
    (∀ l ∈ [([0, 0] : List Byte), [0, 0, 0, 0]], ¬l.length % 3 = 0) := by
  decide

theorem witness_QueriesReplyAndChangeNothing :
    (inService.port .control).replies.length < 4 ∧ (inService.port .service).replies.length < 4 ∧
    inService.queue.length ≤ 32 ∧
    ({ inService with queue := List.replicate 32 ⟨1, .a⟩ } : State).queue.length ≤ 32 := by decide

theorem witness_ReportAndTraceMasksAreReplaced :
    (inService.port .control).replies.length < 4 ∧ inService.service.replies.length < 4 ∧
    ((15 : Byte).toNat < 16 ∧ 16 ≤ (16 : Byte).toNat) ∧ ((63 : Byte).toNat < 64 ∧ (15 : Byte).toNat < 16) ∧
    64 ≤ (64 : Byte).toNat ∧ ∀ i ∈ [PortId.control, .service], ((busy inService).port i).sending ≠ none := by decide

/-- An event that traces point 1 and then point 0: the records in the order of R197. -/
theorem witness_ReportAndTraceMasksAreReplaced_event :
    let f (w : Ev) : Ev := { w with traces := [.glitch 1 .a 5 2, .glitch 0 .b 5 2], posts := [.point 1, .point 1] }
    let w := f ⟨busy inService, [], []⟩
    let l : List TraceRecord := [.glitch 0 .b 5 2, .glitch 1 .a 5 2]
    (∀ i, (w.s.port i).sending ≠ none) ∧ l.Perm w.traces ∧ (∀ r ∈ l, r.about.isSome = true) ∧
      l.Pairwise (fun r r' => ∀ a ∈ r.about, ∀ b ∈ r'.about, a.1 < b.1 ∨ a.1 = b.1 ∧ a.2 < b.2) :=
  ⟨by intro i; cases i <;> decide, List.Perm.swap _ _ [], by decide, by decide⟩

/-- A record that passes the masks and records that do not; a buffer of 62, 63 and 64 entries; drop counts 0 and 1. -/
theorem witness_ReportAndTraceMasksAreReplaced_take :
    let t (kinds : Byte) (sections : BitVec 16) (n drops : Nat) : Trace :=
      { pointMask := 1, kindMask := kinds, sectionMask := sections, buffer := List.replicate n (.gap 1), drops := drops }
    let e : CountEvent := { point := 0, direction := .up, time := 0, speed := none, plausibility := none, left := some 3
                            entered := none }
    ((TraceRecord.counted e).about = some (0, 0) ∧ (TraceRecord.glitch 0 .a 5 2).about = some (0, 4) ∧
      (TraceRecord.proof ⟨0, .a⟩ .pass 1 none 2 0).about = some (0, 5)) ∧
    ((t 1 8 63 0).pointMask.getLsbD 0 = true ∧ (t 1 8 63 0).kindMask.getLsbD 0 = true ∧
      ((t 1 8 63 0).sectionMask.getLsbD 3 = true ∧ e.left = some 3) ∧ (t 1 8 63 0).drops = 0 ∧
      (t 1 8 63 0).buffer.length < 64 ∧ 64 ≤ (t 1 8 64 0).buffer.length) ∧
    (1 ≤ (t 1 8 62 1).drops ∧ (t 1 8 62 1).buffer.length ≤ 62 ∧ 63 ≤ (t 1 8 63 1).buffer.length) ∧
    ((t 32 0 0 0).kindMask.getLsbD 5 = true ∧ (t 32 0 0 0).sectionMask = 0 ∧ (t 32 8 0 0).sectionMask ≠ 0) ∧
    ((t 1 8 0 0).kindMask.getLsbD 4 = false ∧ (t 1 8 0 0).pointMask.getLsbD 1 = false) := by decide +kernel

/-- Refill and image periods beside and at the running timers' ages of 1,000 and 5,000 units; each link timeout case. -/
theorem witness_SetPortParametersTakesEffectAtOnce :
    inService.service.replies.length < 4 ∧ inService.device.state.live = true ∧
    ({ inService.service with replies := List.replicate 3 aReply } : Port).replies.length < 4 ∧
    ((busy inService).control.sending ≠ none ∧ (busy inService).service.sending ≠ none) ∧
    ((inService.now - inService.control.refillTimer.start).toNat = 1000 ∧ ¬100 * max 5 (min 1000 (word 0 11)) ≤ 1000 ∧
      100 * max 5 (min 1000 (word 0 10)) ≤ 1000 ∧ max 5 (min 1000 (word 0 50)) = inService.control.refillPeriod) ∧
    ((inService.now - inService.link.imageTimer.start).toNat = 5000 ∧ ¬100 * max 20 (min 2000 (word 0 51)) ≤ 5000 ∧
      100 * max 20 (min 2000 (word 0 50)) ≤ 5000 ∧ max 20 (min 2000 (word 0 100)) = inService.link.imagePeriod) ∧
    (inService.link.timeout = 1000 ∧ inService.link.timer = some ⟨59990000, 100000⟩ ∧
      (inService.now - 59990000).toNat = 10000 ∧ ¬100 * max 100 (min 10000 (word 0 101)) ≤ 10000 ∧
      100 * max 100 (min 10000 (word 0 100)) ≤ 10000) := by decide

/-! ## Witnesses: section commands -/

/-- Section 1 DISTURBED with its restoration counter at 17. -/
def disturbed1 : State :=
  onS 1 (fun r => { r with state := .disturbed, cause := some .underflow, rc := 17, directPermitted := true }) inService

/-- Every check of RESTORE SECTION passes; with a clear delay of 0, no member overdue and one overdue. -/
theorem witness_RestoreSectionTrustsTheCountAgain :
    let none' := onS 1 (fun r => { r with clearDelay := 0 }) disturbed1
    let held := { none' with view := none'.view.set 2 ⟨false, true⟩ }
    (disturbed1.control.replies.length < 4 ∧ disturbed1.device.state = .running ∧
      (disturbed1.sec 1).state = .disturbed ∧ (0 : Byte) ++ (17 : Byte) = (disturbed1.sec 1).rc ∧
      (disturbed1.sec 1).holdoffTimer = none ∧
      ∀ p ∈ members disturbed1 1, counting disturbed1 p = true ∧ (disturbed1.point p).machine = .idle) ∧
    ((disturbed1.sec 1).directPermitted = true ∧ (disturbed1.sec 1).clearDelay ≠ 0) ∧
    ((none'.sec 1).clearDelay = 0 ∧ anyOverdue none' 1 = false) ∧
    ((held.sec 1).clearDelay = 0 ∧ anyOverdue held 1 = true) := by decide +kernel

theorem witness_RestoreSectionIsRefusedByItsFirstFailingCheck :
    configuring.device.state ≠ .running ∧
    (inService.device.state = .running ∧ 12 ≤ (12 : Byte).toNat ∧ 2 ≤ (2 : Byte).toNat) ∧
    ((1 : Byte).toNat < 2 ∧ (1 : Byte) = BitVec.ofNat 8 (1 : SectionId).val ∧ (inService.sec 1).state ≠ .disturbed) ∧
    ((disturbed1.sec 1).state = .disturbed ∧ (0 : Byte) ++ (16 : Byte) ≠ (disturbed1.sec 1).rc) ∧
    (let s := onS 1 (fun r => { r with holdoffTimer := some ⟨59600000, 500000⟩ }) disturbed1
     (s.sec 1).holdoffTimer = some ⟨59600000, 500000⟩ ∧ (0 : Byte) ++ (17 : Byte) = (s.sec 1).rc) ∧
    (let s := onP 2 (fun pt => { pt with mode := .supervising }) disturbed1
     (s.sec 1).holdoffTimer = none ∧ 2 ∈ members s 1 ∧ counting s 2 = false ∧
       ∀ q ∈ members s 1, q < 2 → counting s q = true) ∧
    (let s := onP 2 (fun pt => { pt with machine := .up1 }) disturbed1
     (∀ p ∈ members s 1, counting s p = true) ∧ 2 ∈ members s 1 ∧ (s.point 2).machine ≠ .idle ∧
       ∀ q ∈ members s 1, q < 2 → (s.point q).machine = .idle) ∧
    (let s := onS 1 (fun r => { r with directPermitted := false }) disturbed1
     (∀ p ∈ members s 1, (s.point p).machine = .idle) ∧ (1 : Byte) = 1 ∧ (s.sec 1).directPermitted = false) := by
  decide +kernel

theorem witness_CancelAndDisturbEndTheTrustInACount :
    ((onS 1 (fun r => { r with state := .restoring }) inService).sec 1).state = .restoring ∧
    (inService.port .control).replies.length < 4 ∧ (inService.sec 1).state.trusted = true ∧
    (inService.sec 1).state = .clear ∧ (disturbed1.sec 1).state = .disturbed ∧ (inService.sec 11).state = .unused ∧
    (inService.sec 1).state ≠ .restoring ∧ 12 ≤ (12 : Byte).toNat ∧ (inService.port .service).replies.length < 4 ∧
    (busy inService).control.sending ≠ none ∧ (busy inService).service.sending ≠ none := by
  decide

/-- New clear delays beside and at the running timer's age of 100,000 units, 11 and 10; a stopped timer. -/
theorem witness_SetSectionParametersRetimesTheSection :
    inService.service.replies.length < 4 ∧ inService.device.state.live = true ∧ (inService.sec 1).clearTimer = none ∧
    configuring.device.state = .configuring ∧ (configuring.sec 1).clearTimer = none ∧
    ((clearing0.sec 0).clearTimer = some ⟨59900000, 100000⟩ ∧
      (clearing0.now - 59900000).toNat < 10000 * min 100 (11 : Byte).toNat) ∧
    ((clearing0.sec 0).state = .clearing ∧ 10000 * min 100 (10 : Byte).toNat ≤ (clearing0.now - 59900000).toNat) ∧
    inService.device.state ≠ .configuring := by decide

/-! ## Witnesses: topology and point commands -/

theorem witness_SetTopologyReplacesTheEntries :
    let l : List TopologyItem := [⟨0, ⟨none, none⟩⟩, ⟨5, ⟨some 11, some 11⟩⟩]
    (configuring.service.replies.length < 4 ∧ configuring.device.state = .configuring ∧ 1 ≤ l.length ∧
      l.length ≤ 16 ∧ (l.map TopologyItem.point).Nodup) ∧
    (membersIn (withEntries configuring.topology l) 11 ≠ [] ∧ (configuring.sec 11).state = .unused) ∧
    (let s := onS 0 (fun r => { r with state := .disturbed, cause := some .powerUp }) configuring
     membersIn (withEntries s.topology l) 0 = [] ∧ (s.sec 0).state ≠ .unused) ∧
    (membersIn (withEntries configuring.topology l) 10 = [] ↔ (configuring.sec 10).state = .unused) := by
  decide +kernel

theorem witness_SetPointModeFollowsItsTable :
    inService.service.replies.length < 4 ∧ configuring.device.state = .configuring ∧
    inService.device.state = .running ∧ (inState .starting inService).device.state = .starting ∧
    (inService.point 0).mode = .counting ∧ (inService.point 0).mode ≠ .outOfUse ∧
    (inService.point 5).mode = .outOfUse ∧
    (let s := onP 0 (fun pt => { pt with mode := .supervising }) inService
     (s.point 0).mode = .supervising ∧ (s.point 0).health ≠ .fault ∧ lit s 0 = true ∧
       (s.point 0).proofA.proven = true ∧ (s.point 0).proofB.proven = true ∧ (s.point 0).machine = .idle) ∧
    (let s := onP 0 (fun pt => { pt with mode := .supervising, health := .fault }) inService
     (s.point 0).mode = .supervising ∧ (s.point 0).health = .fault) ∧
    (let s := onP 0 (fun pt => { pt with mode := .supervising, proofB := .reset }) inService
     (s.point 0).mode = .supervising ∧ (s.point 0).health ≠ .fault ∧ (s.point 0).proofB.proven = false) ∧
    (let s := onP 0 (fun pt => { pt with mode := .supervising }) inUp1
     (s.point 0).mode = .supervising ∧ (s.point 0).health ≠ .fault ∧ lit s 0 = true ∧
       (s.point 0).proofA.proven = true ∧ (s.point 0).proofB.proven = true ∧ (s.point 0).machine ≠ .idle) := by
  decide +kernel

theorem witness_SetPointParametersAppliesOrStages :
    inService.service.replies.length < 4 ∧ inService.device.state.live = true ∧
    ((inService.point 0).machine = .idle ∧ underProof inService 0 .a = false ∧ underProof inService 0 .b = false) ∧
    (inUp1.point 0).machine ≠ .idle ∧ underProof (underTest .assert) 0 .a = true ∧ 16 ≤ (16 : Byte).toNat ∧
    State.reset.device.state.live = false ∧ State.reset.service.replies.length < 4 ∧
    inService.control.replies.length < 4 := by decide +kernel

/-- Point 0 in FAULT with its epochs ended. -/
def faulted (m : Mode) (g : GroupState) : State :=
  onG 0 (fun r => { r with state := g }) (onP 0 (fun pt => { pt with
    level := 129, health := .fault, faultCause := some .level, faultTime := some 59000000, mode := m
    proofA := { provenSystem with overdue := true, dueTimer := none, overdueTimer := none }
    proofB := { provenSystem with overdue := true, dueTimer := none, overdueTimer := none } }) inService)

/-- Section 7.7, the first command: a point in FAULT in mode COUNTING keeps it, and the reply shows it not counting because
of its health (code 2). -/
theorem test_mode_reply_of_a_faulted_point :
    (after [.setPointMode .service 3 [0, 2]] (faulted .counting .ready)).service.sending
      = some (frame 0x80 3 [0x0A, 0, 0, 2, 2]) := by decide +kernel

theorem witness_ClearPointFaultBringsThePointBack :
    ((faulted .counting .failed).service.replies.length < 4 ∧ (faulted .counting .failed).device.state.live = true ∧
      ((faulted .counting .failed).point 0).health = .fault ∧ lit (faulted .counting .failed) 0 = false) ∧
    (lit (faulted .outOfUse .ready) 0 = true ∧ ((faulted .outOfUse .ready).point 0).mode = .outOfUse ∧
      ((faulted .outOfUse .ready).point 0).health = .fault) ∧
    (lit (faulted .counting .ready) 0 = true ∧ ((faulted .counting .ready).point 0).mode ≠ .outOfUse ∧
      (∀ x ∈ [Sys.a, .b], (((faulted .counting .ready).point 0).proof x).overdue = true ∧
        (⟨0, x⟩ : SystemId) ∉ (faulted .counting .ready).queue ∧
        underProof (faulted .counting .ready) 0 x = false)) := by decide +kernel

/-! ## Witnesses: the device and its image -/

/-- The configuration after reset, and one with autostart. -/
def plain : Configuration := Configuration.ofState State.reset false
def auto : Configuration := { plain with autostart := true }

theorem witness_TheImageLoadEndsLoading :
    State.reset.device.state = .loading ∧ (∀ p, (State.reset.point p).staged = none) ∧
    State.reset.sequencer.activity = .none ∧ ¬((0xFF : Byte) = 0x5E ∧ (0xFF : Byte) = 0x91) ∧
    (word 0 1 < 2 ∧ 1019 < word 3 0xFC ∧ ([0] : List Byte).length < word 0 2) ∧
    (2 ≤ word 0 2 ∧ word 3 0xFB ≤ 1019 ∧ ([] : List Byte).length = word 0 2 - 2 ∧
      [0, 0] ≠ crcBytes (1 :: 0 :: 2 :: []) ∧ ([] : List Byte).length ≠ 165) ∧
    (plain.clamped = plain ∧ plain.autostart = false) ∧
    (auto.clamped = auto ∧ auto.autostart = true ∧ auto.supplies.delay01 ≠ 0) := by decide +kernel

/-- The start checks pass for an image with no point in use, and fail for one that starts a point bound to no section. -/
theorem witness_TheImageLoadEndsLoading_start :
    startFault State.reset = none ∧
    startFault (onP 3 (fun pt => { pt with startMode := .counting }) State.reset) = some (.unbound 3) := by
  decide +kernel

theorem witness_AStoredImageLoadsBack : plain.clamped = plain := by decide +kernel

/-- R174, the acknowledgement and the expiry of one write taken together: the expiry taken second changes nothing. -/
theorem test_write_acknowledged_before_its_expiry :
    let lapsed (write : StoreWrite) (timer : Timer) : State := { inService with
      writeLapsed := true
      device := { inService.device with store := some ⟨[0x5E, 0x91, 1, 0, 4, 10, 11, 12, 13], write, timer⟩ } }
    let t := after [.storeDone, .storeFailed] (lapsed .header ⟨59997000, 3000⟩)
    let u := after [.storeFailed] (lapsed (.body 8 1) ⟨60000000, 3000⟩)
    t.device.lastStore = some .done ∧ u.device.store.isSome = true ∧ u.device.lastStore = none ∧
      (after [.storeFailed] (lapsed .header ⟨59997000, 3000⟩)).device.lastStore = some .failed := by decide +kernel

/-- A store with no write outstanding, a body write that ends below the image's end and one at it, and the header write;
the acknowledgement timer at its end. -/
theorem witness_StoreImageRunsToItsResult :
    let image : List Byte := [0x5E, 0x91, 1, 0, 4, 10, 11, 12, 13]
    inService.service.replies.length < 4 ∧ inService.device.state = .running ∧
    configuring.device.state = .configuring ∧ inService.device.store = none ∧
    (∀ write ∈ [StoreWrite.body 5 3, .body 8 1, .header],
      ({ inService.device with store := some ⟨image, write, ⟨59997000, 3000⟩⟩ } : Device).store
        = some ⟨image, write, ⟨59997000, 3000⟩⟩) ∧
    5 + 3 < image.length ∧ image.length ≤ 8 + 1 ∧ (Timer.mk 59997000 3000).reached inService.now = true ∧
    (Timer.mk 59997001 3000).reached inService.now = false ∧ inService.writeLapsed = false ∧
    ({ inService with writeLapsed := true } : State).writeLapsed = true ∧
    (busy inService).control.sending ≠ none := by decide

/-- A value in range and at its ends for each parameter code; timers beside and at their new lengths. -/
theorem witness_SetDeviceParametersTakesEffectAtOnce :
    inService.service.replies.length < 4 ∧ inService.device.state.live = true ∧
    allParams[0]? = some .tol ∧ allParams[11]? = some .response ∧
    (allParams[7]? = some .leakInterval ∧ max 1 (min 60 (word 0 10)) = inService.params.leakInterval ∧
      max 1 (min 60 (word 0 6)) ≠ inService.params.leakInterval ∧
      (inService.now - inService.leakTimer.start).toNat < 100000 * max 1 (min 60 (word 0 6)) ∧
      100000 * max 1 (min 60 (word 0 5)) ≤ (inService.now - inService.leakTimer.start).toNat ∧
      ∀ p, (inService.point p).health = .fault ∨ (inService.point p).level - 1 < inService.params.fault) ∧
    (allParams[10]? = some .interval ∧ max 10 (min 600 (word 0 60)) = inService.params.interval ∧
      max 10 (min 600 (word 0 11)) ≠ inService.params.interval ∧
      (inService.now - 59000000).toNat < 100000 * max 10 (min 600 (word 0 11))) ∧
    (allParams[8]? = some .warnOn ∧ allParams[9]? = some .fault ∧
      ∀ p, (inService.point p).health = .fault ∨ (inService.point p).level < 128) := by decide +kernel

theorem witness_SetDeviceParameters_params : inService.params.Ok := witness_safe_parts_ports.2.1

/-- A new fault threshold of 60 that a point's level lies below, and one that it has reached. -/
theorem witness_SetDeviceParameters_threshold :
    ∀ level ∈ [59, 60],
      let s := onP 0 (fun pt => { pt with level := level, health := .warn }) inService
      allParams[9]? = some .fault ∧ max 2 (min 255 (word 0 60)) = 60 ∧ (s.point 0).health ≠ .fault ∧
        (60 ≤ (s.point 0).level ∨ ∀ p, (s.point p).health = .fault ∨ (s.point p).level < 60) := by decide +kernel

theorem witness_StartBeginsThePowerOnSequence :
    configuring.service.replies.length < 4 ∧ configuring.device.state = .configuring ∧
    configuring.sequencer.activity = .none ∧ startFault configuring = none ∧
    configuring.sequencer.params.delay01 ≠ 0 ∧ (configuring.group 0).state = .off ∧
    (configuring.group 0).good = false ∧
    startFault (onP 5 (fun pt => { pt with startMode := .counting }) configuring) = some (.unbound 5) := by
  decide +kernel

/-- Each start check failing at a first index and at a later one, the checks before it passed: one section on both sides;
five members; in use unbound; a filter of 201 whose last sample stands at the response window of 200 units. -/
theorem witness_StartBeginsThePowerOnSequence_checks :
    let bind (l : List (Fin 16 × TopologyEntry)) : State :=
      { configuring with topology := l.foldl (fun t e => t.set e.1 e.2) configuring.topology }
    let same := bind [(7, ⟨some 6, some 6⟩), (9, ⟨some 6, some 6⟩)]
    let crowd := bind [(5, ⟨some 1, none⟩)]
    let started := onP 5 (fun pt => { pt with startMode := .supervising })
      (onP 9 (fun pt => { pt with startMode := .counting }) configuring)
    let slow (filter : Nat) := onP 2 (fun pt => { pt with startMode := .counting, params := ⟨140, filter⟩ })
      (onP 4 (fun pt => { pt with startMode := .counting, params := ⟨140, filter⟩ }) configuring)
    ((same.entry 7).up ≠ none ∧ (same.entry 7).up = (same.entry 7).down ∧
      ∀ q : PointId, q < 7 → ¬((same.entry q).up ≠ none ∧ (same.entry q).up = (same.entry q).down)) ∧
    ((∀ q, ¬((crowd.entry q).up ≠ none ∧ (crowd.entry q).up = (crowd.entry q).down)) ∧
      4 < (members crowd 1).length ∧ ∀ m : SectionId, m < 1 → ¬4 < (members crowd m).length) ∧
    ((∀ n, ¬4 < (members started n).length) ∧ (started.point 5).startMode ≠ .outOfUse ∧ (started.entry 5).up = none ∧
      (started.entry 5).down = none) ∧
    ((slow 201).point 2).startMode ≠ .outOfUse ∧ 10 * (slow 201).params.response ≤ ((slow 201).point 2).params.filter - 1 ∧
    ¬10 * (slow 200).params.response ≤ ((slow 200).point 2).params.filter - 1 := by
  decide +kernel

theorem witness_HaltDisturbsEverySection :
    inService.service.replies.length < 4 ∧ inService.device.state = .running ∧ inService.sequencer.activity = .none ∧
    inService.sequencer.params.delay23 ≠ 0 ∧ (inService.sec 0).state.trusted = true ∧
    (inService.sec 11).state.trusted = false ∧ (inService.group 3).state = .ready := by decide

end Sys2Proof.Tests
end

section
/-! The timing arithmetic of a completed passage (chapter 2 section 2.2, R28 to R34): one equation per stage of
`timingOf`, the intervals that `Passage.timing` hands to it, and the obligation assembled from them. -/

namespace Sys2Proof.Machine

/-! ## The stages of the arithmetic on two intervals -/

/-- A slow passage ends the arithmetic (R31). -/
theorem timingOf_saturated {d : DeviceParams} {spacing lead trail : Nat} (h : lead = 65535 ∨ trail = 65535) :
    timingOf d spacing lead trail = ⟨some 0, none, false, false⟩ :=
  if_pos h

/-- Of two unsaturated intervals the plausibility test decides the result and the irregular anomaly; the speed and the
overspeed anomaly do not depend on it (R32 to R34). -/
theorem timingOf_unsaturated {d : DeviceParams} {spacing lead trail : Nat} (hl : lead < 65535) (ht : trail < 65535) :
    timingOf d spacing lead trail =
      { speed := some (speedOf spacing (meanInterval lead trail))
        plausibility := some (if plausible d.tol lead trail then .pass else .irregular)
        irregular := !plausible d.tol lead trail
        overspeed := decide (d.vLimit < speedOf spacing (meanInterval lead trail)) } :=
  if_neg (by omega)

theorem plausible_iff {tol lead trail : Nat} :
    plausible tol lead trail = true ↔ (max lead trail - min lead trail) * 16 ≤ tol * max lead trail :=
  decide_eq_true_iff

theorem timingOf_pass {d : DeviceParams} {spacing lead trail : Nat} (hl : lead < 65535) (ht : trail < 65535)
    (h : plausible d.tol lead trail = true) :
    timingOf d spacing lead trail =
      ⟨some (speedOf spacing (meanInterval lead trail)), some .pass, false,
        decide (d.vLimit < speedOf spacing (meanInterval lead trail))⟩ := by
  simp [timingOf_unsaturated hl ht, h]

theorem timingOf_irregular {d : DeviceParams} {spacing lead trail : Nat} (hl : lead < 65535) (ht : trail < 65535)
    (h : ¬plausible d.tol lead trail = true) :
    timingOf d spacing lead trail =
      ⟨some (speedOf spacing (meanInterval lead trail)), some .irregular, true,
        decide (d.vLimit < speedOf spacing (meanInterval lead trail))⟩ := by
  simp [timingOf_unsaturated hl ht, h]

/-! ## The intervals of a record -/

/-- A reversed or partial record gives no timing, whatever its times (R29). -/
theorem Passage.timing_of_flagged {r : Passage} (d : DeviceParams) (spacing : Nat) (dir : Direction)
    (h : r.reversal = true ∨ r.partly = true) : r.timing d spacing dir = ⟨none, none, false, false⟩ :=
  if_pos (by simpa using h)

section
variable {r : Passage} {aOn bOn aOff bOff : Time} (haOn : r.aOn = some aOn) (hbOn : r.bOn = some bOn)
  (haOff : r.aOff = some aOff) (hbOff : r.bOff = some bOff) (hrev : r.reversal = false) (hpart : r.partly = false)
include haOn hbOn haOff hbOff hrev hpart

/-- System A leads an up count (R30). -/
theorem Passage.timing_up (d : DeviceParams) (spacing : Nat) :
    r.timing d spacing .up = timingOf d spacing (interval bOn aOn) (interval bOff aOff) := by
  simp [Passage.timing, haOn, hbOn, haOff, hbOff, hrev, hpart]

/-- System B leads a down count (R30). -/
theorem Passage.timing_down (d : DeviceParams) (spacing : Nat) :
    r.timing d spacing .down = timingOf d spacing (interval aOn bOn) (interval aOff bOff) := by
  simp [Passage.timing, haOn, hbOn, haOff, hbOff, hrev, hpart]

end

/-! ## The obligation -/

/-- Settles O18: a flagged record ends the arithmetic; any other passes its two intervals, in the order of its
direction, to the stages of `timingOf`. -/
theorem timingArithmeticFollowsItsStages : Obligations.TimingArithmeticFollowsItsStages := by
  unfold Obligations.TimingArithmeticFollowsItsStages
  intro d spacing dir r aOn bOn aOff bOff haOn hbOn haOff hbOff lead trail mean v pass
  have staged (hrev : r.reversal = false) (hpart : r.partly = false) :
      r.timing d spacing dir = timingOf d spacing lead trail := by
    cases dir with
    | up => exact Passage.timing_up haOn hbOn haOff hbOff hrev hpart d spacing
    | down => exact Passage.timing_down haOn hbOn haOff hbOff hrev hpart d spacing
  refine ⟨Passage.timing_of_flagged d spacing dir, fun hrev hpart hsat => ?saturated,
    fun hrev hpart hl ht => ⟨fun hpass => ?pass, fun hfail => ?irregular⟩⟩
  case saturated => exact (staged hrev hpart).trans (timingOf_saturated hsat)
  case pass => exact (staged hrev hpart).trans (timingOf_pass hl ht (plausible_iff.mpr hpass))
  case irregular => exact (staged hrev hpart).trans (timingOf_irregular hl ht (mt plausible_iff.mp hfail))

end Sys2Proof.Machine
end

section
/-! Section occupancy (chapter 5, R89 to R102 and R122): what each operation on a section record does, one equation per
row of its table, and the obligation assembled from them. -/

namespace Sys2Proof.Machine

/-! ## Trust and disturbance (R102) -/

theorem SectionState.trusted_eq_false_iff {st : SectionState} :
    st.trusted = false ↔ st = .unused ∨ st = .disturbed := by
  cases st <;> simp [SectionState.trusted]

theorem SectionState.trusted_of_ne {st : SectionState} (hu : st ≠ .unused) (hd : st ≠ .disturbed) :
    st.trusted = true :=
  Bool.of_not_eq_false fun h => (trusted_eq_false_iff.mp h).elim hu hd

section
variable {r : SectionRecord}

theorem SectionRecord.disturb_of_untrusted (c : Cause) (h : r.state.trusted = false) : r.disturb c = r :=
  if_neg (by simp [h])

theorem SectionRecord.disturb_of_trusted (c : Cause) (h : r.state.trusted = true) :
    r.disturb c =
      { r with state := .disturbed, cause := some c, clearTimer := none, hold := false, sweep := false } :=
  if_pos h

/-! ## The exit side (R89) -/

theorem SectionRecord.exitSide_of_untrusted (h : r.state.trusted = false) : r.exitSide = r :=
  if_neg (by simp [h])

theorem SectionRecord.exitSide_underflow (h : r.state.trusted = true) (h0 : r.count = 0) :
    r.exitSide = r.disturb .underflow := by
  simp [SectionRecord.exitSide, h, h0]

theorem SectionRecord.exitSide_counts (h : r.state.trusted = true) (h1 : 1 ≤ r.count) :
    r.exitSide = { r with count := r.count - 1, exits := r.exits + 1 } := by
  simp [SectionRecord.exitSide, h, Nat.ne_of_gt h1]

/-! ## The entry side (R90) -/

theorem SectionRecord.entrySide_of_untrusted (h : r.state.trusted = false) : r.entrySide = r :=
  if_neg (by simp [h])

theorem SectionRecord.entrySide_overflow (h : r.state.trusted = true) (hc : 1023 ≤ r.count) :
    r.entrySide = r.disturb .overflow := by
  simp [SectionRecord.entrySide, h, hc]

theorem SectionRecord.entrySide_counts (h : r.state.trusted = true) (hc : r.count ≤ 1022) :
    r.entrySide = { r with count := r.count + 1, entries := r.entries + 1 } := by
  simp [SectionRecord.entrySide, h, show ¬1023 ≤ r.count by omega]

/-! ## Both sides keep the count within 0 to 1023 -/

@[simp] theorem SectionRecord.disturb_count (c : Cause) (r : SectionRecord) : (r.disturb c).count = r.count := by
  unfold SectionRecord.disturb; split <;> rfl

theorem SectionRecord.exitSide_count (r : SectionRecord) :
    r.exitSide.count = if r.state.trusted then r.count - 1 else r.count := by
  cases ht : r.state.trusted with
  | false => simp [exitSide_of_untrusted ht]
  | true =>
    rcases Nat.eq_zero_or_pos r.count with h0 | h1
    · simp [exitSide_underflow ht h0, h0]
    · simp [exitSide_counts ht h1]

theorem SectionRecord.entrySide_count (hc : r.count ≤ 1023) :
    r.entrySide.count = if r.state.trusted then min (r.count + 1) 1023 else r.count := by
  cases ht : r.state.trusted with
  | false => simp [entrySide_of_untrusted ht]
  | true =>
    rcases hc.eq_or_lt with hmax | hlt
    · simp [entrySide_overflow ht hmax.ge, hmax]
    · simp [entrySide_counts ht (Nat.le_of_lt_succ hlt)]; omega

theorem SectionRecord.sides_count_le (hc : r.count ≤ 1023) : r.exitSide.count ≤ 1023 ∧ r.entrySide.count ≤ 1023 := by
  rw [exitSide_count, entrySide_count hc]
  constructor <;> split <;> omega

/-! ## Entry to CLEARING (R93, R94) -/

theorem SectionRecord.enterClearing_eq (now : Time) (overdue : Bool) (r : SectionRecord) :
    r.enterClearing now overdue =
      if r.clearDelay = 0 then
        { r with state := if overdue then .clearing else .clear, clearTimer := none, hold := overdue }
      else { r with state := .clearing, clearTimer := some ⟨now, 10000 * r.clearDelay⟩, hold := false } := by
  unfold SectionRecord.enterClearing SectionRecord.expiryCheck
  cases overdue <;> rfl

/-! ## The evaluation of a section of the occupancy family (R92) -/

theorem SectionRecord.settle_of_untrusted (now : Time) (active overdue : Bool)
    (h : r.state = .unused ∨ r.state = .disturbed) : r.settle now active overdue = r := by
  rcases h with h | h <;> simp [SectionRecord.settle, h]

section
variable {active : Bool} (hocc : 0 < r.count ∨ active = true) (now : Time) (overdue : Bool)
include hocc

theorem SectionRecord.settle_occupied_stays (h : r.state = .occupied) : r.settle now active overdue = r := by
  simp [SectionRecord.settle, SectionRecord.evaluate, h, hocc]

theorem SectionRecord.settle_clearing_occupies (h : r.state = .clearing) :
    r.settle now active overdue = { r with state := .occupied, clearTimer := none, hold := false } := by
  simp [SectionRecord.settle, SectionRecord.evaluate, h, hocc]

theorem SectionRecord.settle_clear_occupies (h : r.state = .clear) :
    r.settle now active overdue = { r with state := .occupied } := by
  simp [SectionRecord.settle, SectionRecord.evaluate, h, hocc]

end

section
variable (h0 : r.count = 0) (now : Time) (overdue : Bool)
include h0

theorem SectionRecord.settle_occupied_clears (h : r.state = .occupied) :
    r.settle now false overdue = r.enterClearing now overdue := by
  simp [SectionRecord.settle, SectionRecord.evaluate, h, h0]

theorem SectionRecord.settle_free_stays (h : r.state = .clearing ∨ r.state = .clear) :
    r.settle now false overdue = r := by
  rcases h with h | h <;> simp [SectionRecord.settle, SectionRecord.evaluate, h, h0]

end

/-! ## The evaluation of a RESTORING section (R122) -/

section
variable (h : r.state = .restoring) (now : Time) (active overdue : Bool)
include h

theorem SectionRecord.settle_restoring_swept (hc : 0 < r.count) :
    r.settle now active overdue = { r with sweep := true } := by
  simp [SectionRecord.settle, SectionRecord.sweepEvaluate, h, hc]

theorem SectionRecord.settle_restoring_waits (h0 : r.count = 0) (hw : r.sweep = false ∨ active = true) :
    r.settle now active overdue = r := by
  rcases hw with hw | hw <;> simp [SectionRecord.settle, SectionRecord.sweepEvaluate, h, h0, hw]

theorem SectionRecord.settle_restoring_clears (h0 : r.count = 0) (hs : r.sweep = true) :
    r.settle now false overdue = r.enterClearing now overdue := by
  simp [SectionRecord.settle, SectionRecord.sweepEvaluate, h, h0, hs]

end

/-! ## The proof notices (R96 to R98) -/

theorem SectionRecord.takeOverdue_of_clear (h : r.state = .clear) :
    r.takeOverdue = { r with state := .clearing, hold := true, clearTimer := none } := by
  simp [SectionRecord.takeOverdue, h]

theorem SectionRecord.takeOverdue_of_ne_clear (h : r.state ≠ .clear) : r.takeOverdue = r := by
  unfold SectionRecord.takeOverdue
  split
  case h_1 hclear => exact absurd hclear h
  all_goals rfl

theorem SectionRecord.takeCurrent_of_held (h : r.state = .clearing) (hh : r.hold = true) :
    r.takeCurrent false = { r with state := .clear, hold := false } := by
  simp [SectionRecord.takeCurrent, h, hh]

theorem SectionRecord.takeCurrent_of_not_held {overdue : Bool}
    (h : r.state ≠ .clearing ∨ r.hold = false ∨ overdue = true) : r.takeCurrent overdue = r := by
  unfold SectionRecord.takeCurrent
  split
  case h_1 hclearing =>
    rcases h.resolve_left (not_not_intro hclearing) with hfree | hover
    · simp [hfree]
    · simp [hover]
  all_goals rfl

end

/-! ## The obligation -/

/-- Settles O29: every row of the tables is an equation above; a section that is neither UNUSED nor DISTURBED is one
whose count is trusted, and `clearing` is what entry to CLEARING makes of the record. -/
theorem sectionsFollowTheirTables : Obligations.SectionsFollowTheirTables := by
  unfold Obligations.SectionsFollowTheirTables
  refine ⟨fun r => ⟨?exitIgnored, ?underflow, ?exits⟩, fun r => ⟨?entryIgnored, ?overflow, ?entries, ?counts⟩,
    fun now active overdue r => ?settle, fun r => ⟨?overdue, ?notOverdue⟩, fun overdue r => ⟨?current, ?notCurrent⟩,
    fun c r => ⟨?disturbIgnored, ?disturbed⟩⟩
  case exitIgnored => exact fun h => SectionRecord.exitSide_of_untrusted (SectionState.trusted_eq_false_iff.mpr h)
  case underflow =>
    intro hu hd h0
    have ht := SectionState.trusted_of_ne hu hd
    exact (SectionRecord.exitSide_underflow ht h0).trans (SectionRecord.disturb_of_trusted .underflow ht)
  case exits => exact fun hu hd => SectionRecord.exitSide_counts (SectionState.trusted_of_ne hu hd)
  case entryIgnored => exact fun h => SectionRecord.entrySide_of_untrusted (SectionState.trusted_eq_false_iff.mpr h)
  case overflow =>
    intro hu hd hmax
    have ht := SectionState.trusted_of_ne hu hd
    exact (SectionRecord.entrySide_overflow ht hmax.ge).trans (SectionRecord.disturb_of_trusted .overflow ht)
  case entries => exact fun hu hd => SectionRecord.entrySide_counts (SectionState.trusted_of_ne hu hd)
  case counts => exact SectionRecord.sides_count_le
  case settle =>
    intro clearing
    have hclearing : r.enterClearing now overdue = clearing := SectionRecord.enterClearing_eq now overdue r
    refine ⟨fun hocc => ⟨SectionRecord.settle_occupied_stays hocc now overdue,
        SectionRecord.settle_clearing_occupies hocc now overdue, SectionRecord.settle_clear_occupies hocc now overdue⟩,
      fun h0 hquiet => ⟨fun h => ?leaves, fun h => ?stays⟩,
      fun h => ⟨SectionRecord.settle_restoring_swept h now active overdue,
        SectionRecord.settle_restoring_waits h now active overdue, fun h0 hs hquiet => ?swept⟩,
      SectionRecord.settle_of_untrusted now active overdue⟩
    case leaves => subst hquiet; exact (SectionRecord.settle_occupied_clears h0 now overdue h).trans hclearing
    case stays => subst hquiet; exact SectionRecord.settle_free_stays h0 now overdue h
    case swept => subst hquiet; exact (SectionRecord.settle_restoring_clears h now overdue h0 hs).trans hclearing
  case overdue => exact SectionRecord.takeOverdue_of_clear
  case notOverdue => exact SectionRecord.takeOverdue_of_ne_clear
  case current => rintro h hh rfl; exact SectionRecord.takeCurrent_of_held h hh
  case notCurrent => exact SectionRecord.takeCurrent_of_not_held
  case disturbIgnored => exact fun h => SectionRecord.disturb_of_untrusted c (SectionState.trusted_eq_false_iff.mpr h)
  case disturbed => exact fun hu hd => SectionRecord.disturb_of_trusted c (SectionState.trusted_of_ne hu hd)

end Sys2Proof.Machine
end

section
/-! The steps of the part: every step is one unit of time, a reset, or the moves of one command, so that what each of the
three keeps every step keeps. -/

namespace Sys2Proof.Machine

/-- Every step is one unit of time, a reset, or the moves of the command at the front of the queue. -/
theorem step_cases {s t : State} (h : step s = .next t) :
    (s.pending = [] ∧ t = s.tick) ∨
    (∃ rest, s.pending = .reset :: rest ∧ t = State.resetAgain { s with pending := rest }) ∨
    (∃ c rest, s.pending = c :: rest ∧ c ≠ .reset ∧ exec c { s with pending := rest } = .next t ∧
      Moves { s with pending := rest } t) := by
  unfold step at h
  split at h
  · rename_i hp
    exact .inl ⟨hp, (Host.Outcome.next.inj h).symm⟩
  · rename_i c rest hp
    by_cases hc : c = .reset
    · subst hc
      exact .inr (.inl ⟨rest, hp, (Host.Outcome.next.inj h).symm⟩)
    · obtain ⟨u, hu, hm⟩ := exec_moves c { s with pending := rest } hc
      rw [hu] at h
      cases h
      exact .inr (.inr ⟨c, rest, hp, hc, hu, hm⟩)

/-- A property of the state that the queue of commands does not enter, that holds after a reset, and that a unit of time
and every move keep, is kept by every step. -/
theorem step_keeps {P : State → Prop} (hpending : ∀ s l, P s → P { s with pending := l })
    (htick : ∀ s, P s → P s.tick) (hreset : ∀ s : State, P s → P s.resetAgain)
    (hmove : ∀ s t, Move s t → P s → P t) {s t : State} (hs : P s) (h : step s = .next t) : P t := by
  rcases step_cases h with ⟨-, rfl⟩ | ⟨rest, -, rfl⟩ | ⟨c, rest, -, -, -, hm⟩
  · exact htick s hs
  · exact hreset _ (hpending s rest hs)
  · exact hm.keeps hmove (hpending s rest hs)

/-- A property of the state that only work can break is kept by every move. -/
theorem move_keeps {P : State → Prop} (hport : ∀ s i f, P s → P (s.onPort i f)) (hlink : ∀ s l, P s → P { s with link := l })
    (htrace : ∀ s u, P s → P { s with trace := u }) (hwork : ∀ s t, Work s t → P s → P t) (s t : State) (h : Move s t)
    (hs : P s) : P t := by
  cases h with
  | work _ h => exact hwork s t h hs
  | port i q _ => exact hport s i _ hs
  | link l _ => exact hlink s l hs
  | trace u _ => exact htrace s u hs

/-! ## The records that a unit of time touches -/

theorem State.tick_point (s : State) (p : PointId) :
    ∃ a b, s.tick.point p = { s.point p with lineA := a, lineB := b } := by
  obtain ⟨now, found, k, lapsed, h⟩ := s.tick_eq
  exact ⟨_, _, by rw [h]; exact Table.get_map _ _ _⟩

theorem State.tick_group (s : State) (g : GroupId) : s.tick.group g = (s.group g).sampled := by
  obtain ⟨now, found, k, lapsed, h⟩ := s.tick_eq
  rw [h]; exact Table.get_map _ _ _

theorem State.tick_kept (s : State) :
    s.tick.topology = s.topology ∧ s.tick.view = s.view ∧ s.tick.sections = s.sections ∧
      s.tick.sequencer = s.sequencer ∧ s.tick.device = s.device ∧ s.tick.params = s.params ∧
      s.tick.leakTimer = s.leakTimer ∧ s.tick.channel = s.channel ∧ s.tick.queue = s.queue ∧
      s.tick.outputs = s.outputs ∧ s.tick.control = s.control ∧ s.tick.service = s.service ∧ s.tick.link = s.link ∧
      s.tick.trace = s.trace := by
  obtain ⟨now, found, k, lapsed, h⟩ := s.tick_eq
  rw [h]
  exact ⟨rfl, rfl, rfl, rfl, rfl, rfl, rfl, rfl, rfl, rfl, rfl, rfl, rfl, rfl⟩

theorem State.tick_sec (s : State) (n : SectionId) : s.tick.sec n = s.sec n :=
  congrArg (fun t => Table.get t n) s.tick_kept.2.2.1

/-! ## The records after a reset -/

theorem State.resetAgain_point (s : State) (p : PointId) :
    s.resetAgain.point p = Point.reset (s.point p).lineA.pinLow (s.point p).lineB.pinLow := Table.get_map _ _ _

theorem State.resetAgain_group (s : State) (g : GroupId) : s.resetAgain.group g = Group.reset (s.group g).pinHigh :=
  Table.get_map _ _ _

theorem State.resetAgain_sec (s : State) (n : SectionId) : s.resetAgain.sec n = SectionRecord.reset :=
  Table.get_replicate _ _

theorem State.resetAgain_entry (s : State) (p : PointId) : s.resetAgain.entry p = ⟨none, none⟩ := Table.get_replicate _ _

theorem State.resetAgain_view (s : State) (p : PointId) : s.resetAgain.view.get p = ⟨false, true⟩ :=
  Table.get_replicate _ _

/-! ## The queue of commands and the time -/

/-- Settles O1: the definition of a step on a queue that is not empty. -/
theorem stepTakesTheFrontCommand : Obligations.StepTakesTheFrontCommand := by
  unfold Obligations.StepTakesTheFrontCommand
  intro c rest s
  rfl

end Sys2Proof.Machine
end

section
/-! Every step keeps the section records (chapter 5): what each operation on a record keeps, and the steps from it. -/

namespace Sys2Proof.Machine

/-! ## One record -/

/-- A record that may enter CLEARING: trusted, with no axle in it (R92). -/
def SectionRecord.Emptied (r : SectionRecord) : Prop :=
  r.count = 0 ∧ r.cause = none ∧ 0#16 = r.entries - r.exits

theorem SectionRecord.Ok.cause_of_trusted {r : SectionRecord} (h : r.Ok) (ht : r.state.trusted = true) :
    r.cause = none := by
  obtain ⟨-, -, hc, -⟩ := h
  cases hcause : r.cause with
  | none => rfl
  | some c => rw [hc.mp (by simp [hcause])] at ht; cases ht

theorem SectionRecord.Ok.emptied {r : SectionRecord} (h : r.Ok) (ht : r.state.trusted = true) (h0 : r.count = 0) :
    r.Emptied := by
  have hcause := h.cause_of_trusted ht
  obtain ⟨-, -, -, -, -, -, hb⟩ := h
  exact ⟨h0, hcause, by simpa [h0] using hb ht⟩

section
variable {r : SectionRecord}

theorem SectionRecord.Emptied.expiryCheck (h : r.Emptied) (o : Bool) : (r.expiryCheck o).Ok := by
  obtain ⟨h0, hc, hb⟩ := h
  unfold SectionRecord.expiryCheck
  split <;> simp [SectionRecord.Ok, SectionState.trusted, h0, hc, ← hb]

theorem SectionRecord.Emptied.enterClearing (h : r.Emptied) (now : Time) (o : Bool) : (r.enterClearing now o).Ok := by
  unfold SectionRecord.enterClearing
  split
  · exact h.expiryCheck o
  · obtain ⟨h0, hc, hb⟩ := h
    simp [SectionRecord.Ok, SectionState.trusted, h0, hc, ← hb]

theorem SectionRecord.Ok.disturb (h : r.Ok) (c : Cause) : (r.disturb c).Ok := by
  unfold SectionRecord.disturb
  split <;> simp_all [SectionRecord.Ok, SectionState.trusted]

/-- A trusted record whose axles are counted may become OCCUPIED. -/
theorem SectionRecord.ok_occupied (h1 : r.count ≤ 1023) (hc : r.cause = none)
    (hb : BitVec.ofNat 16 r.count = r.entries - r.exits) (hs : r.state = .occupied) (ht : r.clearTimer = none)
    (hh : r.hold = false) : r.Ok := by
  simp [SectionRecord.Ok, hs, hc, ht, hh, SectionState.trusted, h1, hb]

/-- What a trusted record keeps whatever its state is: the count in range and balanced, and no cause. -/
def SectionRecord.Balanced (r : SectionRecord) : Prop :=
  r.count ≤ 1023 ∧ r.cause = none ∧ BitVec.ofNat 16 r.count = r.entries - r.exits ∧
  (r.state ≠ .clearing → r.clearTimer = none ∧ r.hold = false) ∧ ¬(r.clearTimer.isSome ∧ r.hold = true) ∧
  (r.state = .clearing → r.clearTimer.isSome ∨ r.hold = true)

theorem SectionRecord.Ok.balanced (h : r.Ok) (ht : r.state.trusted = true) : r.Balanced := by
  have hcause := h.cause_of_trusted ht
  obtain ⟨h1, -, -, htimed, hnot, -, hb⟩ := h
  refine ⟨h1, hcause, hb ht, fun hs => ?_, hnot, htimed.mp⟩
  have hidle : ¬(r.clearTimer.isSome = true ∨ r.hold = true) := fun hor => hs (htimed.mpr hor)
  simpa [not_or] using hidle

theorem SectionRecord.Balanced.emptied (h : r.Balanced) (h0 : r.count = 0) : r.Emptied := by
  obtain ⟨-, hc, hb, -⟩ := h
  exact ⟨h0, hc, by simpa [h0] using hb⟩

/-- The settling of a trusted record whose count is balanced leaves a record as chapter 5 gives it. -/
theorem SectionRecord.Balanced.settle (h : r.Balanced) (ht : r.state.trusted = true) (now : Time) (a o : Bool) :
    (r.settle now a o).Ok := by
  have hemptied := h.emptied
  obtain ⟨h1, hc, hb, hidle, hnot, htimed⟩ := h
  by_cases hocc : 0 < r.count ∨ a = true
  · cases hs : r.state with
    | unused => simp [hs, SectionState.trusted] at ht
    | disturbed => simp [hs, SectionState.trusted] at ht
    | restoring =>
      obtain ⟨htimer, hhold⟩ := hidle (by simp [hs])
      rcases Nat.eq_zero_or_pos r.count with h0 | hpos
      · rw [settle_restoring_waits hs now a o h0 (.inr (hocc.resolve_left (by omega)))]
        simp [SectionRecord.Ok, hs, hc, htimer, hhold, SectionState.trusted, h1, hb]
      · rw [settle_restoring_swept hs now a o hpos]
        simp [SectionRecord.Ok, hs, hc, htimer, hhold, SectionState.trusted, h1, hb]
    | occupied =>
      rw [settle_occupied_stays hocc now o hs]
      exact ok_occupied h1 hc hb hs (hidle (by simp [hs])).1 (hidle (by simp [hs])).2
    | clearing =>
      rw [settle_clearing_occupies hocc now o hs]
      exact ok_occupied h1 hc hb rfl rfl rfl
    | clear =>
      rw [settle_clear_occupies hocc now o hs]
      exact ok_occupied h1 hc hb rfl (hidle (by simp [hs])).1 (hidle (by simp [hs])).2
  · have h0 : r.count = 0 := by omega
    have ha : a = false := by simpa using fun ha => hocc (.inr ha)
    subst ha
    have hstay (hs : r.state = .restoring ∨ r.state = .clearing ∨ r.state = .clear) : r.Ok := by
      rcases hs with hs | hs | hs <;> simp_all [SectionRecord.Ok, SectionState.trusted]
    cases hs : r.state with
    | unused => simp [hs, SectionState.trusted] at ht
    | disturbed => simp [hs, SectionState.trusted] at ht
    | restoring =>
      cases hw : r.sweep with
      | false => rw [settle_restoring_waits hs now false o h0 (.inl hw)]; exact hstay (.inl hs)
      | true => rw [settle_restoring_clears hs now o h0 hw]; exact (hemptied h0).enterClearing now o
    | occupied => rw [settle_occupied_clears h0 now o hs]; exact (hemptied h0).enterClearing now o
    | clearing => rw [settle_free_stays h0 now o (.inl hs)]; exact hstay (.inr (.inl hs))
    | clear => rw [settle_free_stays h0 now o (.inr hs)]; exact hstay (.inr (.inr hs))

theorem SectionRecord.Ok.settle_untrusted (h : r.Ok) (ht : r.state.trusted = false) (now : Time) (a o : Bool) :
    (r.settle now a o).Ok := by
  rw [settle_of_untrusted now a o (SectionState.trusted_eq_false_iff.mp ht)]
  exact h

theorem SectionRecord.Ok.settle (h : r.Ok) (now : Time) (a o : Bool) : (r.settle now a o).Ok := by
  cases ht : r.state.trusted with
  | false => exact h.settle_untrusted ht now a o
  | true => exact (h.balanced ht).settle ht now a o

theorem SectionRecord.Ok.exitSide_settle (h : r.Ok) (now : Time) (a o : Bool) : (r.exitSide.settle now a o).Ok := by
  cases ht : r.state.trusted with
  | false => rw [exitSide_of_untrusted ht]; exact h.settle_untrusted ht now a o
  | true =>
    rcases Nat.eq_zero_or_pos r.count with h0 | hpos
    · rw [exitSide_underflow ht h0]; exact (h.disturb _).settle now a o
    · rw [exitSide_counts ht hpos]
      obtain ⟨h1, hc, hb, hrest⟩ := h.balanced ht
      refine SectionRecord.Balanced.settle (r := { r with count := r.count - 1, exits := r.exits + 1 })
        ⟨?_, hc, ?_, hrest⟩ ht now a o
      · show r.count - 1 ≤ 1023; omega
      show BitVec.ofNat 16 (r.count - 1) = r.entries - (r.exits + 1)
      bv_omega

theorem SectionRecord.Ok.entrySide_settle (h : r.Ok) (now : Time) (a o : Bool) : (r.entrySide.settle now a o).Ok := by
  cases ht : r.state.trusted with
  | false => rw [entrySide_of_untrusted ht]; exact h.settle_untrusted ht now a o
  | true =>
    obtain ⟨h1, hc, hb, hrest⟩ := h.balanced ht
    rcases h1.eq_or_lt with hmax | hlt
    · rw [entrySide_overflow ht hmax.ge]; exact (h.disturb _).settle now a o
    · rw [entrySide_counts ht (Nat.le_of_lt_succ hlt)]
      refine SectionRecord.Balanced.settle (r := { r with count := r.count + 1, entries := r.entries + 1 })
        ⟨?_, hc, ?_, hrest⟩ ht now a o
      · exact Nat.succ_le_of_lt hlt
      show BitVec.ofNat 16 (r.count + 1) = r.entries + 1 - r.exits
      bv_omega

theorem SectionRecord.Ok.takeOverdue (h : r.Ok) : r.takeOverdue.Ok := by
  by_cases hs : r.state = .clear
  · obtain ⟨h0, hc, hb⟩ := h.emptied (by simp [hs, SectionState.trusted]) (h.2.1 (.inr (.inr hs)))
    rw [takeOverdue_of_clear hs]
    simp [SectionRecord.Ok, SectionState.trusted, h0, hc, ← hb]
  · rw [takeOverdue_of_ne_clear hs]; exact h

theorem SectionRecord.Ok.takeCurrent (h : r.Ok) (o : Bool) : (r.takeCurrent o).Ok := by
  by_cases hheld : r.state = .clearing ∧ r.hold = true ∧ o = false
  · obtain ⟨hs, hh, rfl⟩ := hheld
    obtain ⟨h0, hc, hb⟩ := h.emptied (by simp [hs, SectionState.trusted]) (h.2.1 (.inr (.inl hs)))
    have htimer : r.clearTimer = none := by simpa [hh] using h.2.2.2.2.1
    rw [takeCurrent_of_held hs hh]
    simp [SectionRecord.Ok, SectionState.trusted, h0, hc, htimer, ← hb]
  · rw [takeCurrent_of_not_held (by grind)]; exact h

/-- The clear-delay timer runs in CLEARING alone, at count 0. -/
theorem SectionRecord.Ok.emptied_of_timer (h : r.Ok) (ht : r.clearTimer.isSome = true) :
    r.state = .clearing ∧ r.Emptied := by
  obtain ⟨-, hzero, -, htimed, -⟩ := id h
  have hs : r.state = .clearing := htimed.mpr (.inl ht)
  exact ⟨hs, h.emptied (by simp [hs, SectionState.trusted]) (hzero (.inr (.inl hs)))⟩

/-- The record with new parameters, its holdoff timer taking the new length, and its clear-delay timer as it was (R86,
R112). -/
def SectionRecord.withParams (now : Time) (d k : Nat) (p : Bool) (r : SectionRecord) : SectionRecord :=
  { r with
    clearDelay := d, holdoff := k, directPermitted := p
    holdoffTimer := r.holdoffTimer.bind (fun t =>
      if (Timer.mk t.start (seconds k)).reached now then none else some ⟨t.start, seconds k⟩) }

/-- New parameters on a record, by its clear-delay timer (R86, R87). -/
theorem SectionRecord.setParams_eq (now : Time) (o : Bool) (d k : Nat) (p : Bool) (r : SectionRecord) :
    r.setParams now o d k p =
      match r.clearTimer with
      | none => r.withParams now d k p
      | some t =>
        if (Timer.mk t.start (tenths d)).reached now then (r.withParams now d k p).expiryCheck o
        else { r.withParams now d k p with clearTimer := some ⟨t.start, tenths d⟩ } := by
  unfold SectionRecord.setParams SectionRecord.withParams
  cases hh : r.holdoffTimer with
  | none => rfl
  | some t =>
    dsimp only [Option.bind_some]
    cases hr : (Timer.mk t.start (seconds k)).reached now <;> rfl

theorem SectionRecord.setParams_of_stopped (ht : r.clearTimer = none) (now : Time) (o : Bool) (d k : Nat) (p : Bool) :
    r.setParams now o d k p = r.withParams now d k p := by
  rw [setParams_eq, ht]

theorem SectionRecord.Ok.setParams (h : r.Ok) (now : Time) (o : Bool) (d k : Nat) (p : Bool) :
    (r.setParams now o d k p).Ok := by
  cases ht : r.clearTimer with
  | none => rw [SectionRecord.setParams_of_stopped ht]; exact h
  | some t =>
    obtain ⟨hs, h0, hc, hb⟩ := h.emptied_of_timer (by simp [ht])
    have hhold : r.hold = false := by simpa [ht] using h.2.2.2.2.1
    rw [SectionRecord.setParams_eq, ht]
    dsimp only
    split
    · exact SectionRecord.Emptied.expiryCheck (r := r.withParams now d k p) ⟨h0, hc, hb⟩ o
    · simp [SectionRecord.Ok, SectionRecord.withParams, SectionState.trusted, hs, h0, hc, hhold, ← hb]

theorem SectionRecord.restore_ok (r : SectionRecord) (now : Time) (o : Bool) (k : RestoreKind) :
    (r.restore now o k).Ok := by
  cases k with
  | sweep => simp [SectionRecord.restore, SectionRecord.Ok, SectionState.trusted]
  | direct =>
    have hbalance : 0#16 = (0 : Word16) - 0 := by decide
    exact SectionRecord.Emptied.enterClearing ⟨rfl, rfl, hbalance⟩ now o

theorem SectionRecord.Ok.takeMembership (h : r.Ok) (used : Bool) : (r.takeMembership used).Ok := by
  unfold SectionRecord.takeMembership
  split <;> split <;> simp_all [SectionRecord.Ok, SectionState.trusted]

end

theorem SectionStep.keeps_ok {s : State} {r r' : SectionRecord} (h : SectionStep s r r') (hr : r.Ok) : r'.Ok := by
  cases h with
  | disturb c => exact hr.disturb c
  | settle a o => exact hr.settle _ a o
  | exit a o _ => exact hr.exitSide_settle _ a o
  | entry a o _ => exact hr.entrySide_settle _ a o
  | overdue => exact hr.takeOverdue
  | current o => exact hr.takeCurrent o
  | params o d k p => exact hr.setParams _ o d k p
  | restore o k _ _ => exact r.restore_ok _ o k
  | membership used => exact hr.takeMembership used
  | expiry o hs ht => exact (hr.emptied_of_timer ht).2.expiryCheck o
  | holdoff => exact hr

theorem SectionRecord.Ok.stamped {r : SectionRecord} (h : r.Ok) (now : Time) (before : SectionRecord) :
    (before.stamped now r).Ok := by
  simpa [SectionRecord.Ok] using h

/-! ## All sections -/

theorem State.SectionsOk.set {s : State} (h : s.SectionsOk) {n : SectionId} {r : SectionRecord} (hr : r.Ok) :
    State.SectionsOk { s with sections := s.sections.set n r } := by
  intro m
  rw [State.sec_set]
  split
  · exact hr
  · exact h m

theorem Change.keeps_sections {s t : State} (h : Change s t) (hs : s.SectionsOk) : t.SectionsOk := by
  cases h
  case sec n r h => exact hs.set ((h.keeps_ok (hs n)).stamped _ _)
  all_goals exact hs

theorem Work.keeps_sections (s t : State) (h : Work s t) (hs : s.SectionsOk) : t.SectionsOk := by
  cases h with
  | change _ h => exact h.keeps_sections hs
  | device _ _ => exact hs
  | ended _ _ => exact hs

theorem SectionRecord.reset_ok : SectionRecord.reset.Ok := by
  simp [SectionRecord.Ok, SectionRecord.reset, SectionState.trusted]

/-- Settles O6: no unit of time touches a section, a reset leaves every section unused, and every change of a record keeps
it well formed. -/
theorem everyStepKeepsSectionRecords : Obligations.EveryStepKeepsSectionRecords := by
  unfold Obligations.EveryStepKeepsSectionRecords
  intro s t
  refine step_keeps (P := State.SectionsOk) (fun s l h => h) (fun s h n => ?tick) (fun s h n => ?reset)
    (move_keeps ?port (fun s l h => h) (fun s u h => h) Work.keeps_sections)
  case tick => rw [s.tick_sec]; exact h n
  case reset => rw [s.resetAgain_sec]; exact SectionRecord.reset_ok
  case port => intro s i f h n; cases i <;> exact h n

end Sys2Proof.Machine
end

section
/-! Every step keeps the ports, the link and the trace (chapter 11): what each change of one of them keeps, and the steps
from it. -/

namespace Sys2Proof.Machine

theorem raise_le (n : Nat) : raise n ≤ 65535 := Nat.min_le_left _ _

/-! ## The report queue (R189) -/

/-- A report queue as R189 gives it: each subject once, of a class in the mask, with a changes count of 1 to 255. -/
def QueueOk (m : ClassMask) (q : List ReportEntry) : Prop :=
  (q.map ReportEntry.subject).Nodup ∧ ∀ e ∈ q, e.subject.inMask m = true ∧ 1 ≤ e.changes ∧ e.changes ≤ 255

theorem postToQueue_of_waiting {x : Subject} {n : Nat} {q : List ReportEntry}
    (h : q.any (fun e => e.subject == x) = true) :
    postToQueue x n q = q.map (fun e => if e.subject == x then { e with changes := min 255 (e.changes + n) } else e) :=
  if_pos h

theorem postToQueue_of_absent {x : Subject} {n : Nat} {q : List ReportEntry}
    (h : ¬q.any (fun e => e.subject == x) = true) : postToQueue x n q = q ++ [⟨x, min 255 n⟩] :=
  if_neg h

theorem QueueOk.post {m : ClassMask} {q : List ReportEntry} (h : QueueOk m q) {x : Subject} {n : Nat}
    (hx : x.inMask m = true) (hn : 1 ≤ n) : QueueOk m (postToQueue x n q) := by
  obtain ⟨hnodup, hentries⟩ := h
  by_cases hq : q.any (fun e => e.subject == x) = true
  · rw [postToQueue_of_waiting hq]
    refine ⟨?_, fun e he => ?_⟩
    · rw [List.map_map]
      convert hnodup using 2
      funext e
      dsimp only [Function.comp]
      split <;> rfl
    · obtain ⟨e', he', rfl⟩ := List.mem_map.mp he
      obtain ⟨h1, h2, h3⟩ := hentries e' he'
      split
      · exact ⟨h1, by show 1 ≤ min 255 _; omega, by show min 255 _ ≤ 255; omega⟩
      · exact ⟨h1, h2, h3⟩
  · rw [postToQueue_of_absent hq]
    have hfresh : x ∉ q.map ReportEntry.subject := by simpa [List.any_eq_true] using hq
    refine ⟨?_, fun e he => ?_⟩
    · simpa [List.nodup_append] using ⟨hnodup, fun e he hex => hfresh (List.mem_map.mpr ⟨e, he, hex⟩)⟩
    · rcases List.mem_append.mp he with he | he
      · exact hentries e he
      · obtain rfl := List.mem_singleton.mp he
        exact ⟨hx, by show 1 ≤ min 255 n; omega, by show min 255 n ≤ 255; omega⟩

theorem QueueOk.tail {m : ClassMask} {e : ReportEntry} {q : List ReportEntry} (h : QueueOk m (e :: q)) : QueueOk m q :=
  ⟨(List.nodup_cons.mp h.1).2, fun e' he => h.2 e' (List.mem_cons_of_mem e he)⟩

theorem QueueOk.filter {m : ClassMask} {q : List ReportEntry} (h : QueueOk m q) (m' : ClassMask) :
    QueueOk m' (q.filter (fun e => e.subject.inMask m')) := by
  refine ⟨h.1.sublist (List.Sublist.map _ List.filter_sublist), fun e he => ?_⟩
  obtain ⟨hq, hm⟩ := List.mem_filter.mp he
  exact ⟨hm, (h.2 e hq).2⟩

/-! ## One port -/

section
variable {q : Port}

theorem Port.ok_iff : q.Ok ↔
    q.replies.length ≤ 4 ∧ (q.tokens ≤ q.burst ∧ burstRange.holds q.burst = true ∧ refillRange.holds q.refillPeriod = true) ∧
      QueueOk q.mask q.queue ∧ (q.frameErrors ≤ 65535 ∧ q.overruns ≤ 65535) ∧
      (q.gapTimer.isSome ↔ q.assembly ≠ .hunting) := by
  unfold Port.Ok QueueOk
  tauto

theorem Port.Ok.addToken (h : q.Ok) : q.addToken.Ok := by
  obtain ⟨h1, ⟨h2, h3⟩, hrest⟩ := h
  refine ⟨h1, ⟨?_, h3⟩, hrest⟩
  show (if q.tokens < q.burst then q.tokens + 1 else q.tokens) ≤ q.burst
  split <;> omega

theorem Port.Ok.setPacing (h : q.Ok) (now : Time) {b r : Nat} (hb : burstRange.holds b = true)
    (hr : refillRange.holds r = true) : (q.setPacing now b r).Ok := by
  obtain ⟨h1, ⟨-, -, hold⟩, hrest⟩ := h
  have hcut (p : Nat) (t : Timer) (hp : refillRange.holds p = true) :
      ({ q with burst := b, tokens := min q.tokens b, refillPeriod := p, refillTimer := t } : Port).Ok :=
    ⟨h1, ⟨Nat.min_le_right _ _, hb, hp⟩, hrest⟩
  unfold Port.setPacing
  dsimp only
  split
  · exact hcut _ _ hold
  · split
    · exact (hcut _ _ hr).addToken
    · exact hcut _ _ hr

theorem PortStep.keeps_ok {q' : Port} (h : PortStep q q') (hq : q.Ok) : q'.Ok := by
  obtain ⟨hreplies, htokens, hqueue, ⟨herrors, hoverruns⟩, hgap⟩ := Port.ok_iff.mp hq
  obtain ⟨hbucket, hranges⟩ := htokens
  cases h with
  | post x n hn =>
    unfold Port.post
    split
    · rename_i hx
      exact Port.ok_iff.mpr ⟨hreplies, ⟨hbucket, hranges⟩, hqueue.post hx hn, ⟨herrors, hoverruns⟩, hgap⟩
    · exact hq
  | taken => exact Port.ok_iff.mpr ⟨hreplies, ⟨hbucket, hranges⟩, hqueue, ⟨herrors, hoverruns⟩, by simp⟩
  | await now a =>
    refine Port.ok_iff.mpr ⟨hreplies, ⟨hbucket, hranges⟩, hqueue, ⟨herrors, hoverruns⟩, ?_⟩
    by_cases ha : a = .hunting <;> simp [Port.await, ha]
  | discard =>
    exact Port.ok_iff.mpr ⟨hreplies, ⟨hbucket, hranges⟩, hqueue, ⟨raise_le _, hoverruns⟩, by simp [Port.discardFrame]⟩
  | overrun => exact Port.ok_iff.mpr ⟨hreplies, ⟨hbucket, hranges⟩, hqueue, ⟨herrors, raise_le _⟩, hgap⟩
  | reply r hr =>
    refine Port.ok_iff.mpr ⟨?_, ⟨hbucket, hranges⟩, hqueue, ⟨herrors, hoverruns⟩, hgap⟩
    simpa using hr
  | sendReply r rest f hr =>
    refine Port.ok_iff.mpr ⟨?_, ⟨hbucket, hranges⟩, hqueue, ⟨herrors, hoverruns⟩, hgap⟩
    rw [hr, List.length_cons] at hreplies
    exact Nat.le_of_succ_le hreplies
  | sendUnasked kind body => exact hq
  | sendReport e rest body he =>
    rw [he] at hqueue
    exact Port.ok_iff.mpr ⟨hreplies, ⟨(Nat.sub_le _ _).trans hbucket, hranges⟩, hqueue.tail, ⟨herrors, hoverruns⟩, hgap⟩
  | freed => exact hq
  | refill => exact Port.Ok.addToken hq
  | mask m => exact Port.ok_iff.mpr ⟨hreplies, ⟨hbucket, hranges⟩, hqueue.filter m, ⟨herrors, hoverruns⟩, hgap⟩
  | pacing now b r hb hr => exact hq.setPacing now hb hr

end

/-! ## The link and the trace -/

theorem Link.Ok.setTimeout {l : Link} (h : l.Ok) (now : Time) {t : Nat} (ht : t = 0 ∨ 100 ≤ t ∧ t ≤ 10000) :
    (l.setTimeout now t).Ok := by
  obtain ⟨hoff, hon, hrange, himage⟩ := id h
  unfold Link.setTimeout
  split
  · exact h
  · split
    · exact ⟨fun _ => ⟨rfl, rfl⟩, fun hne => absurd rfl hne, .inl rfl, himage⟩
    · rename_i hne
      split
      · rename_i hzero
        exact ⟨fun h0 => absurd h0 hne, fun _ => by simp [(hoff hzero).1], ht, himage⟩
      · rename_i hpos
        split
        · rename_i hnone
          exact ⟨fun h0 => absurd h0 hne, fun _ => hon hpos, ht, himage⟩
        · rename_i u hsome
          have hup : l.up = true := (hon hpos).mp (by simp [hsome])
          split
          · exact ⟨fun h0 => absurd h0 hne, fun _ => by simp, ht, himage⟩
          · exact ⟨fun h0 => absurd h0 hne, fun _ => by simp [hup], ht, himage⟩

theorem Link.Ok.setImagePeriod {l : Link} (h : l.Ok) (now : Time) {p : Nat} (hp : imagePeriodRange.holds p = true) :
    (l.setImagePeriod now p).Ok := by
  obtain ⟨hoff, hon, hrange, -⟩ := id h
  unfold Link.setImagePeriod
  split
  · exact h
  · exact ⟨hoff, hon, hrange, hp⟩

theorem Link.Ok.frameTaken {l : Link} (h : l.Ok) (now : Time) : (l.frameTaken now).Ok := by
  obtain ⟨-, -, hrange, himage⟩ := h
  exact ⟨fun h0 => by simp [show l.timeout = 0 from h0, Link.frameTaken],
    fun hne => by simp [show l.timeout ≠ 0 from hne, Link.frameTaken], hrange, himage⟩

theorem LinkStep.keeps_ok {l l' : Link} (h : LinkStep l l') (hl : l.Ok) : l'.Ok := by
  obtain ⟨hoff, hon, hrange, himage⟩ := id hl
  cases h with
  | frame now => exact hl.frameTaken now
  | imageSent => exact hl
  | imageExpiry => exact hl
  | down ht =>
    have htimeout : l.timeout ≠ 0 := fun h0 => by simp [(hoff h0).2] at ht
    exact ⟨fun h0 => absurd h0 htimeout, fun _ => by simp [Link.goDown], hrange, himage⟩
  | imagePeriod now p hp => exact hl.setImagePeriod now hp
  | timeout now t ht => exact hl.setTimeout now ht

theorem TraceStep.keeps_ok {t t' : Trace} (h : TraceStep t t') (ht : t.Ok) : t'.Ok := by
  obtain ⟨hbuffer, hdrops⟩ := id ht
  cases h with
  | take r =>
    unfold Trace.take Trace.place
    split
    · split
      · split
        · exact ⟨by simp; omega, hdrops⟩
        · exact ⟨hbuffer, by simp⟩
      · split
        · exact ⟨by simp; omega, by simp⟩
        · exact ⟨hbuffer, raise_le _⟩
    · exact ht
  | sent r rest hr =>
    rw [hr, List.length_cons] at hbuffer
    exact ⟨Nat.le_of_succ_le hbuffer, hdrops⟩
  | masks p k n => exact ht

/-! ## Every step -/

theorem Move.keeps_lines (s t : State) (h : Move s t) (hs : s.LinesOk) : t.LinesOk := by
  obtain ⟨hcontrol, hservice, hlink, htrace⟩ := id hs
  cases h with
  | work _ h =>
    obtain ⟨-, -, -, -, hc, hv, hl, ht⟩ := Works.fixed (Relation.ReflTransGen.single h)
    unfold State.LinesOk
    rw [hc, hv, hl, ht]
    exact hs
  | port i q h =>
    cases i with
    | control => exact ⟨h.keeps_ok hcontrol, hservice, hlink, htrace⟩
    | service => exact ⟨hcontrol, h.keeps_ok hservice, hlink, htrace⟩
  | link l h => exact ⟨hcontrol, hservice, h.keeps_ok hlink, htrace⟩
  | trace u h => exact ⟨hcontrol, hservice, hlink, h.keeps_ok htrace⟩

theorem Port.reset_ok (baud : Baud) (mask : ClassMask) : (Port.reset baud mask).Ok :=
  ⟨by simp [Port.reset], ⟨Nat.le_refl 4, rfl, rfl⟩, by simp [Port.reset], by simp [Port.reset], by simp [Port.reset],
    by simp [Port.reset]⟩

theorem State.afterReset_linesOk (points : Table 16 Point) (groups : Table 4 Group) (straps : Straps)
    (pending : List Instr) (choices : Nat) : (State.afterReset points groups straps pending choices).LinesOk :=
  ⟨Port.reset_ok _ _, Port.reset_ok _ _,
    ⟨by simp [State.afterReset], by simp [State.afterReset], .inr (by simp [State.afterReset]), rfl⟩,
    by simp [State.afterReset, Trace.Ok]⟩

/-- Settles O9: no unit of time touches a port, the link or the trace, and every change of one keeps it. -/
theorem everyStepKeepsPortsLinkAndTrace : Obligations.EveryStepKeepsPortsLinkAndTrace := by
  unfold Obligations.EveryStepKeepsPortsLinkAndTrace
  intro s t
  refine step_keeps (P := State.LinesOk) (fun s l h => h) (fun s h => ?tick) (fun s _ => ?reset) Move.keeps_lines
  case tick =>
    obtain ⟨-, -, -, -, -, -, -, -, -, -, hc, hv, hl, ht⟩ := s.tick_kept
    unfold State.LinesOk
    rw [hc, hv, hl, ht]
    exact h
  case reset =>
    exact State.afterReset_linesOk (s.points.map (fun pt => Point.reset pt.lineA.pinLow pt.lineB.pinLow))
      (s.groups.map (fun g => Group.reset g.pinHigh)) s.straps s.pending s.choices

end Sys2Proof.Machine
end

section
/-! Every step keeps the records that one change keeps by itself: the points, the groups, the drives of the outputs, the
proof queue and the device-wide parameters; and it keeps it that no count is trusted outside RUNNING. -/

namespace Sys2Proof.Machine

/-- A property of the state that only changes of the records and of the device can break, and that a unit of time and a
reset keep, is kept by every step. -/
theorem step_keeps_of_work {P : State → Prop} (hpending : ∀ s l, P s → P { s with pending := l })
    (htick : ∀ s, P s → P s.tick) (hreset : ∀ s : State, P s → P s.resetAgain)
    (hport : ∀ s i f, P s → P (s.onPort i f)) (hlink : ∀ s l, P s → P { s with link := l })
    (htrace : ∀ s u, P s → P { s with trace := u }) (hwork : ∀ s t, Work s t → P s → P t)
    {s t : State} (hs : P s) (h : step s = .next t) : P t :=
  step_keeps hpending htick hreset (move_keeps hport hlink htrace hwork) hs h

/-! ## The points (chapters 1 to 3) -/

theorem ProofStep.keeps_failures {st st' : ProofStatus} (h : ProofStep st st') (hst : st.failures ≤ 2) :
    st'.failures ≤ 2 := by
  cases h with
  | passed now interval => exact Nat.zero_le 2
  | failed r => exact Nat.min_le_left _ _
  | epochStart => exact hst
  | epochEnd => exact hst
  | result r => exact hst
  | timed due overdue t u => exact hst

/-- A tally that stays or is raised stays within its width. -/
theorem tally_le {n m : Nat} (hn : n ≤ 65535) (h : m = n ∨ m = raise n) : m ≤ 65535 := by
  rcases h with rfl | rfl
  · exact hn
  · exact raise_le n

theorem PointStep.keeps_ok {pt pt' : Point} (h : PointStep pt pt') (hpt : pt.Ok) : pt'.Ok := by
  obtain ⟨hpassage, hconfusion, hquiet, hlevel, hcause, htime, htallies, hfailA, hfailB⟩ := id hpt
  obtain ⟨hretreat, hglitch, hirregular, hoverspeed, hconfused, hproofFail⟩ := id htallies
  have crossing_ne {m : DirectionMachine} (hm : m.crossing = true) : m ≠ .confused := by rintro rfl; cases hm
  have unconfused (hm : pt.machine.crossing = true) : pt.confusion.isSome = false ∧ pt.quietTimer.isSome = false :=
    ⟨by simpa using mt hconfusion.mp (crossing_ne hm), by simpa using mt hquiet (crossing_ne hm)⟩
  have record_isSome (f : Passage → Passage) : (pt.passage.map f).isSome ↔ pt.machine.crossing = true := by
    simpa using hpassage
  cases h with
  | lines a b => exact hpt
  | confuse c q =>
    exact ⟨by simp [DirectionMachine.crossing], by simp, by simp, hlevel, hcause, htime, htallies, hfailA, hfailB⟩
  | opened m r hm =>
    exact ⟨by simp [hm], by simp [crossing_ne hm], by simp, hlevel, hcause, htime, htallies, hfailA, hfailB⟩
  | moved m f hm hm' =>
    exact ⟨(record_isSome f).trans (by simp [hm, hm']), by simp [unconfused hm, crossing_ne hm'],
      by simp [unconfused hm], hlevel, hcause, htime, htallies, hfailA, hfailB⟩
  | placed m hm hm' =>
    exact ⟨hpassage.trans (by simp [hm, hm']), by simp [unconfused hm, crossing_ne hm'], by simp [unconfused hm],
      hlevel, hcause, htime, htallies, hfailA, hfailB⟩
  | record f => exact ⟨record_isSome f, hconfusion, hquiet, hlevel, hcause, htime, htallies, hfailA, hfailB⟩
  | quiet q hm => exact ⟨hpassage, hconfusion, fun _ => hm, hlevel, hcause, htime, htallies, hfailA, hfailB⟩
  | retreat hm =>
    exact ⟨by simp [DirectionMachine.crossing], by simp [unconfused hm], by simp [unconfused hm], hlevel, hcause, htime,
      ⟨raise_le _, htallies.2⟩, hfailA, hfailB⟩
  | stopped =>
    exact ⟨by simp [DirectionMachine.crossing], by simp, by simp, hlevel, hcause, htime, htallies, hfailA, hfailB⟩
  | leftConfused hm =>
    have hnone : pt.passage.isSome = false := by simpa [hm, DirectionMachine.crossing] using hpassage
    exact ⟨by simp [hnone, DirectionMachine.crossing], by simp, by simp, hlevel, hcause, htime, htallies, hfailA, hfailB⟩
  | counted dir speed hm =>
    exact ⟨by simp [Point.afterCount, DirectionMachine.crossing], by simp [Point.afterCount, unconfused hm],
      by simp [Point.afterCount, unconfused hm], hlevel, hcause, htime, htallies, hfailA, hfailB⟩
  | weighed weight g i o c f hg hi ho hc hf =>
    exact ⟨hpassage, hconfusion, hquiet, Nat.min_le_left _ _, hcause, htime,
      ⟨hretreat, tally_le hglitch hg, tally_le hirregular hi, tally_le hoverspeed ho, tally_le hconfused hc,
        tally_le hproofFail hf⟩, hfailA, hfailB⟩
  | leaked =>
    exact ⟨hpassage, hconfusion, hquiet, (Nat.sub_le _ _).trans hlevel, hcause, htime, htallies, hfailA, hfailB⟩
  | health h h1 h2 =>
    exact ⟨hpassage, hconfusion, hquiet, hlevel, hcause.trans (by simp [h1, h2]), htime.trans (by simp [h1, h2]),
      htallies, hfailA, hfailB⟩
  | faulted c t => exact ⟨hpassage, hconfusion, hquiet, hlevel, by simp, by simp, htallies, hfailA, hfailB⟩
  | cleared =>
    exact ⟨hpassage, hconfusion, hquiet, Nat.zero_le _, by simp [Point.clearFault], by simp [Point.clearFault],
      htallies, Nat.zero_le 2, Nat.zero_le 2⟩
  | proof x f hx =>
    cases x with
    | a => exact ⟨hpassage, hconfusion, hquiet, hlevel, hcause, htime, htallies, hx.keeps_failures hfailA, hfailB⟩
    | b => exact ⟨hpassage, hconfusion, hquiet, hlevel, hcause, htime, htallies, hfailA, hx.keeps_failures hfailB⟩
  | epochsEnd => exact hpt
  | mode m => exact hpt
  | startMode m => exact hpt
  | pair q st => exact hpt
  | loaded m q => exact hpt

theorem State.PointsOk.set {s : State} (h : s.PointsOk) {p : PointId} {pt : Point} (hpt : pt.Ok) :
    State.PointsOk { s with points := s.points.set p pt } := by
  intro q
  rw [State.point_set]
  split
  · exact hpt
  · exact h q

theorem Work.keeps_points (s t : State) (h : Work s t) (hs : s.PointsOk) : t.PointsOk := by
  cases h with
  | change _ h =>
    cases h
    case point p pt h => exact hs.set (h.keeps_ok (hs p))
    all_goals exact hs
  | device _ _ => exact hs
  | ended _ _ => exact hs

theorem Point.reset_ok (a b : Bool) : (Point.reset a b).Ok := by
  simp [Point.Ok, Point.reset, ProofStatus.reset, DirectionMachine.crossing]

theorem everyStepKeepsPointsOk {s t : State} (hs : s.PointsOk) (h : step s = .next t) : t.PointsOk := by
  refine step_keeps_of_work (P := State.PointsOk) (fun s l h => h) (fun s h p => ?tick) (fun s _ p => ?reset) ?port
    (fun s l h => h) (fun s u h => h) Work.keeps_points hs h
  case tick => obtain ⟨a, b, e⟩ := s.tick_point p; rw [e]; exact h p
  case reset => rw [s.resetAgain_point]; exact Point.reset_ok _ _
  case port => intro s i f h p; cases i <;> exact h p

/-! ## The groups (R145) -/

theorem GroupStep.keeps_ok {g g' : Group} (h : GroupStep g g') (hg : g.Ok) : g'.Ok := by
  obtain ⟨htimer, hreason, hforced⟩ := id hg
  cases h with
  | input good pin run => exact hg
  | untimed st hst => rcases hst with rfl | rfl <;> simp [Group.Ok, Group.toState]
  | failed r => simp [Group.Ok, Group.toFailed]
  | timed st t hst => rcases hst with rfl | rfl | rfl <;> simp [Group.Ok, Group.toTimed]
  | manual on => simp [Group.Ok, Group.toManual]
  | retimed t ht => exact ⟨by simpa [ht] using htimer, hreason, hforced⟩

theorem Group.Ok.stamped {g : Group} (h : g.Ok) (now : Time) (before : Group) : (before.stamped now g).Ok := by
  simpa [Group.Ok] using h

theorem Work.keeps_groups (s t : State) (h : Work s t) (hs : s.GroupsOk) : t.GroupsOk := by
  cases h with
  | change _ h =>
    cases h
    case group g r h =>
      intro k
      rw [State.group_set]
      split
      · exact (h.keeps_ok (hs g)).stamped _ _
      · exact hs k
    all_goals exact hs
  | device _ _ => exact hs
  | ended _ _ => exact hs

theorem Group.reset_ok (pin : Bool) : (Group.reset pin).Ok := by simp [Group.Ok, Group.reset]

theorem everyStepKeepsGroupsOk {s t : State} (hs : s.GroupsOk) (h : step s = .next t) : t.GroupsOk := by
  refine step_keeps_of_work (P := State.GroupsOk) (fun s l h => h) (fun s h g => ?tick) (fun s _ g => ?reset) ?port
    (fun s l h => h) (fun s u h => h) Work.keeps_groups hs h
  case tick => rw [s.tick_group]; exact h g
  case reset => rw [s.resetAgain_group]; exact Group.reset_ok _
  case port => intro s i f h g; cases i <;> exact h g

/-! ## The drives of the outputs (R177, R179) -/

/-- A clear output that is out of LOW exactly while its section is CLEAR follows a change of the section's state. -/
theorem Drive.follow_ne_low {before after : SectionState} {d : Drive} (h : d ≠ .low ↔ before = .clear) :
    d.follow before after ≠ .low ↔ after = .clear := by
  unfold Drive.follow
  by_cases hb : before = .clear <;> by_cases ha : after = .clear <;> simp_all

theorem Drive.rise_ne_low (d : Drive) : d.rise ≠ .low ↔ d ≠ .low := by cases d <;> simp [Drive.rise]

/-- RUN as R179 gives it in a device state. -/
def Outputs.RunOk (o : Outputs) (st : DeviceState) : Prop :=
  (o.run ≠ .low ↔ st = .running) ∧ (o.run ≠ .toggling → o.runHigh = false)

theorem Outputs.RunOk.followDevice {o : Outputs} {before : DeviceState} (h : o.RunOk before) (after : DeviceState) :
    (o.followDevice before after).RunOk after := by
  obtain ⟨hrun, hhigh⟩ := h
  unfold Outputs.followDevice
  by_cases hb : before = .running <;> by_cases ha : after = .running <;> simp_all [Outputs.RunOk]

theorem Outputs.RunOk.phaseEdge {o : Outputs} {st : DeviceState} (h : o.RunOk st) : o.phaseEdge.RunOk st := by
  obtain ⟨hrun, hhigh⟩ := h
  unfold Outputs.phaseEdge
  dsimp only
  split
  · cases hr : o.run <;> simp_all [Outputs.RunOk, Drive.rise, runAfterRise]
  · exact ⟨hrun, hhigh⟩

theorem Outputs.phaseEdge_clr_ne_low (o : Outputs) (n : SectionId) :
    o.phaseEdge.clr.get n ≠ .low ↔ o.clr.get n ≠ .low := by
  unfold Outputs.phaseEdge
  dsimp only
  split
  · rw [Table.get_map]; exact Drive.rise_ne_low _
  · exact Iff.rfl

theorem Outputs.followDevice_clr (o : Outputs) (before after : DeviceState) :
    (o.followDevice before after).clr = o.clr := by
  unfold Outputs.followDevice
  split
  · rfl
  · split <;> rfl

theorem Work.keeps_outputs (s t : State) (h : Work s t) (hs : s.OutputsOk) : t.OutputsOk := by
  obtain ⟨hclr, hrun⟩ := id hs
  have hrun : s.outputs.RunOk s.device.state := hrun
  cases h with
  | change _ h =>
    cases h
    case sec n r h =>
      refine ⟨fun m => ?_, hrun⟩
      show (s.outputs.clr.set n _).get m ≠ .low ↔
        (State.sec { s with sections := s.sections.set n _ } m).state = .clear
      rw [Table.get_set, State.sec_set]
      split
      · rw [SectionRecord.stamped_state]; exact Drive.follow_ne_low (hclr n)
      · exact hclr m
    case phase => exact ⟨fun n => (s.outputs.phaseEdge_clr_ne_low n).trans (hclr n), hrun.phaseEdge⟩
    all_goals exact hs
  | device d _ => exact ⟨fun n => by rw [Outputs.followDevice_clr]; exact hclr n, hrun.followDevice _⟩
  | ended st _ => exact ⟨fun n => by rw [Outputs.followDevice_clr]; exact hclr n, hrun.followDevice _⟩

theorem State.resetAgain_outputsOk (s : State) : s.resetAgain.OutputsOk := by
  refine ⟨fun n => ?_, by simp [State.resetAgain, State.afterReset], by simp [State.resetAgain, State.afterReset]⟩
  rw [s.resetAgain_sec]
  simp [State.resetAgain, State.afterReset, SectionRecord.reset]

theorem everyStepKeepsOutputsOk {s t : State} (hs : s.OutputsOk) (h : step s = .next t) : t.OutputsOk := by
  refine step_keeps_of_work (P := State.OutputsOk) (fun s l h => h) (fun s h => ?tick)
    (fun s _ => s.resetAgain_outputsOk) ?port (fun s l h => h) (fun s u h => h) Work.keeps_outputs hs h
  case tick =>
    obtain ⟨-, -, hsec, -, hdev, -, -, -, -, hout, -⟩ := s.tick_kept
    unfold State.OutputsOk State.sec
    rw [hsec, hdev, hout]
    exact h
  case port => intro s i f h; cases i <;> exact h

/-! ## The proof queue (R54, R57) -/

theorem underProof_iff {s : State} {p : PointId} {x : Sys} :
    underProof s p x = true ↔ ∃ pr, s.channel = some pr ∧ pr.system = ⟨p, x⟩ := by
  unfold underProof
  cases s.channel <;> simp

theorem joinTail_of_absent {s : State} {x : SystemId} (hq : x ∉ s.queue) (hp : underProof s x.point x.sys = false) :
    joinTail x s = s.queue ++ [x] := by
  simp [joinTail, hq, hp]

theorem joinTail_of_present {s : State} {x : SystemId} (h : x ∈ s.queue ∨ underProof s x.point x.sys = true) :
    joinTail x s = s.queue := by
  rcases h with h | h <;> simp [joinTail, h]

theorem joinTail_cases (x : SystemId) (s : State) :
    joinTail x s = s.queue ∨
      (x ∉ s.queue ∧ underProof s x.point x.sys = false ∧ joinTail x s = s.queue ++ [x]) := by
  by_cases h : x ∈ s.queue ∨ underProof s x.point x.sys = true
  · exact .inl (joinTail_of_present h)
  · rw [not_or, Bool.not_eq_true] at h
    exact .inr ⟨h.1, h.2, joinTail_of_absent h.1 h.2⟩

theorem mem_withoutPoint {p : PointId} {q : List SystemId} {x : SystemId} :
    x ∈ withoutPoint p q ↔ x ∈ q ∧ x.point ≠ p := by simp [withoutPoint]

theorem mem_joinHead {x y : SystemId} {s : State} : y ∈ joinHead x s ↔ y = x ∨ y ∈ s.queue := by
  by_cases h : y = x <;> simp [joinHead, h]

theorem Change.keeps_proofs {s t : State} (h : Change s t) (hs : s.ProofsOk) : t.ProofsOk := by
  obtain ⟨hnodup, hheld⟩ := id hs
  cases h
  case joined x =>
    rcases joinTail_cases x s with e | ⟨hq, hp, e⟩
    · exact ⟨by show (joinTail x s).Nodup; rw [e]; exact hnodup,
        fun pr hpr => by show pr.system ∉ joinTail x s; rw [e]; exact hheld pr hpr⟩
    · refine ⟨?_, fun pr hpr => ?_⟩
      · show (joinTail x s).Nodup
        rw [e]
        exact List.nodup_append.mpr ⟨hnodup, List.nodup_singleton x, by
          rintro y hy z hz rfl; exact hq (List.mem_singleton.mp hz ▸ hy)⟩
      · show pr.system ∉ joinTail x s
        rw [e]
        intro hmem
        rcases List.mem_append.mp hmem with hmem | hmem
        · exact hheld pr hpr hmem
        · have hx : underProof s x.point x.sys = true :=
            underProof_iff.mpr ⟨pr, hpr, List.mem_singleton.mp hmem⟩
          rw [hp] at hx
          cases hx
  case leftQueue p => exact ⟨hnodup.filter _, fun pr hpr hmem => hheld pr hpr (mem_withoutPoint.mp hmem).1⟩
  case freed => exact ⟨hnodup, fun pr hpr => by cases hpr⟩
  case held pr pr' hch hsys =>
    refine ⟨hnodup, fun pr'' hpr => ?_⟩
    obtain rfl : pr' = pr'' := Option.some.inj hpr
    rw [hsys]
    exact hheld pr hch
  case returned x =>
    exact ⟨List.nodup_cons.mpr ⟨by simp, hnodup.filter _⟩, fun pr hpr => by cases hpr⟩
  case taken pr hch hmem =>
    refine ⟨hnodup.erase _, fun pr'' hpr => ?_⟩
    obtain rfl : pr = pr'' := Option.some.inj hpr
    exact fun h => (hnodup.mem_erase_iff.mp h).1 rfl
  all_goals exact hs

theorem Work.keeps_proofs (s t : State) (h : Work s t) (hs : s.ProofsOk) : t.ProofsOk := by
  cases h with
  | change _ h => exact h.keeps_proofs hs
  | device _ _ => exact hs
  | ended _ _ => exact hs

theorem everyStepKeepsProofsOk {s t : State} (hs : s.ProofsOk) (h : step s = .next t) : t.ProofsOk := by
  refine step_keeps_of_work (P := State.ProofsOk) (fun s l h => h) (fun s h => ?tick)
    (fun s _ => ⟨List.nodup_nil, fun pr hpr => by cases hpr⟩) ?port (fun s l h => h) (fun s u h => h)
    Work.keeps_proofs hs h
  case tick =>
    obtain ⟨-, -, -, -, -, -, -, hch, hq, -⟩ := s.tick_kept
    unfold State.ProofsOk
    rw [hch, hq]
    exact h
  case port => intro s i f h; cases i <;> exact h

/-! ## The device-wide parameters (R172) -/

theorem Work.keeps_params (s t : State) (h : Work s t) (hs : s.params.Ok) : t.params.Ok := by
  cases h with
  | change _ h =>
    cases h
    case params d h => exact h hs
    all_goals exact hs
  | device _ _ => exact hs
  | ended _ _ => exact hs

/-- The values of the device-wide parameters after a reset. -/
def DeviceParams.atReset : DeviceParams := ⟨6, 200, 1, 4, 4, 32, 64, 10, 32, 128, 60, 20⟩

theorem DeviceParams.atReset_ok : DeviceParams.atReset.Ok := ⟨fun c => by cases c <;> rfl, by decide⟩

theorem everyStepKeepsParamsOk {s t : State} (hs : s.params.Ok) (h : step s = .next t) : t.params.Ok := by
  refine step_keeps_of_work (P := fun s => s.params.Ok) (fun s l h => h) (fun s h => ?tick)
    (fun s _ => DeviceParams.atReset_ok) ?port (fun s l h => h) (fun s u h => h) Work.keeps_params hs h
  case tick => obtain ⟨-, -, -, -, -, hp, -⟩ := s.tick_kept; rw [hp]; exact h
  case port => intro s i f h; cases i <;> exact h

/-! ## Trust (R162, R159) -/

/-- Outside RUNNING no change of a section's record makes its count trusted. -/
theorem SectionStep.keeps_untrusted {s : State} {r r' : SectionRecord} (h : SectionStep s r r') (hr : r.Ok)
    (hd : s.device.state ≠ .running) (ht : r.state.trusted = false) : r'.state.trusted = false := by
  have hcases := SectionState.trusted_eq_false_iff.mp ht
  have hnotClearing : r.state ≠ .clearing := by rcases hcases with e | e <;> simp [e]
  cases h with
  | disturb c => exact SectionRecord.disturb_untrusted c r
  | settle a o => rw [SectionRecord.settle_of_untrusted _ a o hcases]; exact ht
  | exit a o h => exact absurd h hd
  | entry a o h => exact absurd h hd
  | overdue => rw [SectionRecord.takeOverdue_of_ne_clear (by rcases hcases with e | e <;> simp [e])]; exact ht
  | current o => rw [SectionRecord.takeCurrent_of_not_held (.inl hnotClearing)]; exact ht
  | params o d k p =>
    have htimer : r.clearTimer = none := by
      cases hc : r.clearTimer with
      | none => rfl
      | some t => exact absurd (hr.emptied_of_timer (by simp [hc])).1 hnotClearing
    rw [SectionRecord.setParams_of_stopped htimer]
    exact ht
  | restore o k h _ => exact absurd h hd
  | membership used =>
    unfold SectionRecord.takeMembership
    split <;> split
    · rfl
    · exact ht
    · exact ht
    · rfl
  | expiry o h _ => exact absurd h hnotClearing
  | holdoff => exact ht

theorem Work.keeps_trust (s t : State) (h : Work s t) (hs : s.SectionsOk ∧ s.TrustOk) : t.SectionsOk ∧ t.TrustOk := by
  refine ⟨Work.keeps_sections s t h hs.1, ?_⟩
  obtain ⟨hok, huntrusted, hoff⟩ := hs
  cases h with
  | change _ h =>
    cases h
    case sec n r h =>
      refine ⟨fun hd m => ?_, hoff⟩
      show (State.sec { s with sections := s.sections.set n _ } m).state.trusted = false
      rw [State.sec_set]
      split
      · rw [SectionRecord.stamped_state]; exact h.keeps_untrusted (hok n) hd (huntrusted hd n)
      · exact huntrusted hd m
    case sequencer q h => exact ⟨huntrusted, fun ha => (h ha).elim hoff id⟩
    all_goals exact ⟨huntrusted, hoff⟩
  | device d h =>
    rcases h with e | ⟨hd, hor⟩
    · exact ⟨fun hne => huntrusted (e ▸ hne), fun ha => by show d.state ≠ _; rw [e]; exact hoff ha⟩
    · exact ⟨fun _ => hor.elim huntrusted id, fun _ => hd⟩
  | ended st h =>
    refine ⟨fun hne => ?_, fun ha => by cases ha⟩
    rcases h with rfl | ⟨-, ha⟩
    · exact absurd rfl hne
    · exact huntrusted (hoff ha)

theorem State.resetAgain_trustOk (s : State) : s.resetAgain.TrustOk :=
  ⟨fun _ n => by rw [s.resetAgain_sec]; rfl, fun ha => by cases ha⟩

theorem State.resetAgain_sectionsOk (s : State) : s.resetAgain.SectionsOk := fun n => by
  rw [s.resetAgain_sec]; exact SectionRecord.reset_ok

theorem everyStepKeepsTrustOk {s t : State} (hok : s.SectionsOk) (hs : s.TrustOk) (h : step s = .next t) : t.TrustOk := by
  refine (step_keeps_of_work (P := fun s => s.SectionsOk ∧ s.TrustOk) (fun s l h => h) (fun s h => ?tick)
    (fun s _ => ⟨s.resetAgain_sectionsOk, s.resetAgain_trustOk⟩) ?port (fun s l h => h) (fun s u h => h)
    Work.keeps_trust ⟨hok, hs⟩ h).2
  case tick =>
    obtain ⟨-, -, hsec, hseq, hdev, -⟩ := s.tick_kept
    unfold State.SectionsOk State.TrustOk State.sec
    rw [hsec, hseq, hdev]
    exact h
  case port => intro s i f h; cases i <;> exact h

end Sys2Proof.Machine
end

section
/-! The notices of a point (sections 1.4 and 4.5): what a notice leaves at every section, and what a counted passage leaves
at its two sections. -/

namespace Sys2Proof.Machine

/-! ## What a notice touches -/

/-- The two states differ in the point view, the section records and the clear outputs alone. -/
def Noticed (s t : State) : Prop :=
  t = { s with view := t.view, sections := t.sections, outputs := { s.outputs with clr := t.outputs.clr } }

theorem Noticed.refl (s : State) : Noticed s s := rfl

theorem Noticed.trans {s t u : State} (h : Noticed s t) (h' : Noticed t u) : Noticed s u := by
  unfold Noticed at *
  rw [h', h]

section
variable {s t : State} (h : Noticed s t)
include h
theorem Noticed.now : t.now = s.now := by rw [h]
theorem Noticed.points : t.points = s.points := by rw [h]
theorem Noticed.topology : t.topology = s.topology := by rw [h]
theorem Noticed.groups : t.groups = s.groups := by rw [h]
theorem Noticed.sequencer : t.sequencer = s.sequencer := by rw [h]
theorem Noticed.device : t.device = s.device := by rw [h]
theorem Noticed.params : t.params = s.params := by rw [h]
theorem Noticed.channel : t.channel = s.channel := by rw [h]
theorem Noticed.queue : t.queue = s.queue := by rw [h]
theorem Noticed.point (p : PointId) : t.point p = s.point p := congrArg (fun u => Table.get u p) h.points
theorem Noticed.group (g : GroupId) : t.group g = s.group g := congrArg (fun u => Table.get u g) h.groups
theorem Noticed.members (n : SectionId) : members t n = members s n := by unfold Machine.members; rw [h.topology]
theorem Noticed.lit (p : PointId) : lit t p = lit s p := by unfold Machine.lit; rw [h.group]
theorem Noticed.inUse (p : PointId) : inUse t p = inUse s p := by unfold Machine.inUse; rw [h.point]
theorem Noticed.eligible (p : PointId) : eligible t p = eligible s p := by
  unfold Machine.eligible; rw [h.inUse, h.point, h.lit]
theorem Noticed.wasCounting (p : PointId) : wasCounting t p = wasCounting s p := by
  unfold Machine.wasCounting; rw [h.point, h.device]
theorem Noticed.underProof (p : PointId) (x : Sys) : underProof t p x = underProof s p x := by
  unfold Machine.underProof; rw [h.channel]
theorem Noticed.proofAt (p : PointId) : proofAt t p = proofAt s p := by unfold Machine.proofAt; rw [h.channel]
end

theorem Ev.onView_noticed (p : PointId) (f : PointView → PointView) (w : Ev) : Noticed w.s (w.onView p f).s := rfl

theorem Ev.onSection_noticed (n : SectionId) (f : SectionRecord → SectionRecord) (w : Ev) :
    Noticed w.s (w.onSection n f).s := by rw [Ev.onSection_s]; rfl

theorem Noticed.foldl {α : Type} (f : Ev → α → Ev) (hf : ∀ w x, Noticed w.s (f w x).s) (l : List α) (w : Ev) :
    Noticed w.s (l.foldl f w).s := by
  induction l generalizing w with
  | nil => exact .refl _
  | cons x l ih => exact (hf w x).trans (ih _)

theorem Ev.atSections_noticed (p : PointId) (f : State → SectionId → SectionRecord → SectionRecord) (w : Ev) :
    Noticed w.s (w.atSections p f).s := Noticed.foldl _ (fun w n => Ev.onSection_noticed n _ w) _ w

theorem Ev.takeSide_noticed (side : SectionRecord → SectionRecord) (n : Option SectionId) (w : Ev) :
    Noticed w.s (w.takeSide side n).s := by
  cases n with
  | none => exact .refl _
  | some n => exact Ev.onSection_noticed n _ w

theorem Ev.handOver_noticed (e : CountEvent) (w : Ev) : Noticed w.s (w.handOver e).s :=
  ((Ev.onView_noticed e.point _ w).trans (Ev.takeSide_noticed _ _ _)).trans (Ev.takeSide_noticed _ _ _)

/-! ## One section -/

theorem Ev.onSection_sec (n m : SectionId) (f : SectionRecord → SectionRecord) (w : Ev) :
    (w.onSection n f).s.sec m = if m = n then (w.s.sec n).stamped w.s.now (f (w.s.sec n)) else w.s.sec m := by
  rw [Ev.onSection_s]; exact State.sec_set ..

theorem Ev.onSection_clr (n m : SectionId) (f : SectionRecord → SectionRecord) (w : Ev) :
    (w.onSection n f).s.outputs.clr.get m =
      if m = n then (w.s.outputs.clr.get n).follow (w.s.sec n).state (f (w.s.sec n)).state
      else w.s.outputs.clr.get m := by
  rw [Ev.onSection_s]; exact Table.get_set ..

theorem Ev.onSection_view (n : SectionId) (f : SectionRecord → SectionRecord) (w : Ev) :
    (w.onSection n f).s.view = w.s.view := by rw [Ev.onSection_s]

/-- The members of a section are the points whose entries name it. -/
theorem mem_members {s : State} {n : SectionId} {p : PointId} : p ∈ members s n ↔ (s.entry p).names n = true := by
  simp [members, membersIn, allPoints, State.entry]

theorem TopologyEntry.mem_bounds {e : TopologyEntry} {n : SectionId} : n ∈ e.bounds ↔ e.names n = true := by
  obtain ⟨up, down⟩ := e
  cases up <;> cases down <;> simp [TopologyEntry.bounds, TopologyEntry.names, @eq_comm _ n]
  split <;> simp_all [@eq_comm _ n]

/-- A point bounds the sections it is a member of. -/
theorem mem_bounds {s : State} {n : SectionId} {p : PointId} : n ∈ (s.entry p).bounds ↔ p ∈ members s n :=
  TopologyEntry.mem_bounds.trans mem_members.symm

theorem TopologyEntry.bounds_nodup (e : TopologyEntry) : e.bounds.Nodup := by
  obtain ⟨up, down⟩ := e
  cases up <;> cases down <;> simp [TopologyEntry.bounds]
  split <;> simp_all

/-! ## All the sections a point bounds -/

/-- One change made at each section of a list reads the view, the topology and the time alone. -/
def ReadsView (f : State → SectionId → SectionRecord → SectionRecord) : Prop :=
  ∀ s t : State, t.now = s.now → t.view = s.view → t.topology = s.topology → f t = f s

theorem readsView_settleAt : ReadsView settleAt := by
  intro s t hn hv ht
  funext n r
  unfold settleAt anyActive anyOverdue members
  rw [hn, hv, ht]

theorem readsView_takeCurrent : ReadsView (fun s n => SectionRecord.takeCurrent (anyOverdue s n)) := by
  intro s t _ hv ht
  funext n r
  unfold anyOverdue members
  dsimp only
  rw [hv, ht]

theorem readsView_const (g : SectionRecord → SectionRecord) : ReadsView (fun _ _ => g) := fun _ _ _ _ _ => rfl

/-- What a notice leaves of one section: the record it makes, stamped, and the clear output that follows it. -/
def Reached (s t : State) (n : SectionId) (r : SectionRecord) : Prop :=
  t.sec n = (s.sec n).stamped s.now r ∧
  t.outputs.clr.get n = (s.outputs.clr.get n).follow (s.sec n).state r.state

theorem foldl_onSection_view (f : State → SectionId → SectionRecord → SectionRecord) (l : List SectionId) (w : Ev) :
    (l.foldl (fun w n => w.onSection n (f w.s n)) w).s.view = w.s.view := by
  induction l generalizing w with
  | nil => rfl
  | cons m l ih => exact (ih _).trans (Ev.onSection_view m _ w)

/-- One change at each section of a list without repeats: each takes it once, and no other section changes. -/
theorem foldl_onSection_reached {f : State → SectionId → SectionRecord → SectionRecord} (hf : ReadsView f)
    {l : List SectionId} (hl : l.Nodup) (w : Ev) (n : SectionId) :
    let t := (l.foldl (fun w n => w.onSection n (f w.s n)) w).s
    (n ∈ l → Reached w.s t n (f w.s n (w.s.sec n))) ∧
    (n ∉ l → t.sec n = w.s.sec n ∧ t.outputs.clr.get n = w.s.outputs.clr.get n) := by
  induction l generalizing w with
  | nil => exact ⟨fun h => (List.not_mem_nil h).elim, fun _ => ⟨rfl, rfl⟩⟩
  | cons m l ih =>
    obtain ⟨hm, hl⟩ := List.nodup_cons.mp hl
    obtain ⟨hin, hout⟩ := ih hl (w.onSection m (f w.s m))
    have hnoticed := Ev.onSection_noticed m (f w.s m) w
    have hsame : f (w.onSection m (f w.s m)).s = f w.s :=
      hf _ _ hnoticed.now (Ev.onSection_view m _ w) hnoticed.topology
    refine ⟨fun hmem => ?_, fun hmem => ?_⟩
    · rcases List.mem_cons.mp hmem with rfl | hmem
      · obtain ⟨hsec, hclr⟩ := hout hm
        exact ⟨by rw [List.foldl_cons, hsec, Ev.onSection_sec, if_pos rfl],
          by rw [List.foldl_cons, hclr, Ev.onSection_clr, if_pos rfl]⟩
      · have hne : n ≠ m := fun e => hm (e ▸ hmem)
        obtain ⟨hsec, hclr⟩ := hin hmem
        rw [hnoticed.now, Ev.onSection_sec, if_neg hne, hsame] at hsec
        rw [Ev.onSection_clr, if_neg hne, Ev.onSection_sec, if_neg hne, hsame] at hclr
        exact ⟨hsec, hclr⟩
    · obtain ⟨hne, hmem⟩ := not_or.mp (mt List.mem_cons.mpr hmem)
      obtain ⟨hsec, hclr⟩ := hout hmem
      rw [Ev.onSection_sec, if_neg hne] at hsec
      rw [Ev.onSection_clr, if_neg hne] at hclr
      exact ⟨hsec, hclr⟩

section
variable {f : State → SectionId → SectionRecord → SectionRecord} (hf : ReadsView f) (p : PointId) (w : Ev) (n : SectionId)
include hf

theorem Ev.atSections_reached (hn : n ∈ (w.s.entry p).bounds) :
    Reached w.s (w.atSections p f).s n (f w.s n (w.s.sec n)) :=
  (foldl_onSection_reached hf (w.s.entry p).bounds_nodup w n).1 hn

theorem Ev.atSections_untouched (hn : n ∉ (w.s.entry p).bounds) :
    (w.atSections p f).s.sec n = w.s.sec n ∧ (w.atSections p f).s.outputs.clr.get n = w.s.outputs.clr.get n :=
  (foldl_onSection_reached hf (w.s.entry p).bounds_nodup w n).2 hn

end

theorem Ev.atSections_view (p : PointId) (f : State → SectionId → SectionRecord → SectionRecord) (w : Ev) :
    (w.atSections p f).s.view = w.s.view := foldl_onSection_view f _ w

/-! ## The five notices -/

/-- The state with the point's entry of the view replaced. -/
def State.setView (p : PointId) (v : PointView) (s : State) : State := { s with view := s.view.set p v }

theorem anyActive_congr {s t : State} (hv : t.view = s.view) (ht : t.topology = s.topology) (n : SectionId) :
    anyActive t n = anyActive s n := by unfold anyActive members; rw [hv, ht]

theorem anyOverdue_congr {s t : State} (hv : t.view = s.view) (ht : t.topology = s.topology) (n : SectionId) :
    anyOverdue t n = anyOverdue s n := by unfold anyOverdue members; rw [hv, ht]

/-- A change of one point's active indication does not touch an overdue one. -/
theorem anyOverdue_setView_active (s : State) (p : PointId) (b : Bool) (n : SectionId) :
    anyOverdue (s.setView p { s.view.get p with active := b }) n = anyOverdue s n := by
  unfold anyOverdue
  refine congrArg (fun g => (members s n).any g) (funext fun q => ?_)
  show ((s.view.set p _).get q).overdue = _
  rw [Table.get_set]
  split
  · rename_i e; rw [e]
  · rfl

theorem anyActive_setView_overdue (s : State) (p : PointId) (b : Bool) (n : SectionId) :
    anyActive (s.setView p { s.view.get p with overdue := b }) n = anyActive s n := by
  unfold anyActive
  refine congrArg (fun g => (members s n).any g) (funext fun q => ?_)
  show ((s.view.set p _).get q).active = _
  rw [Table.get_set]
  split
  · rename_i e; rw [e]
  · rfl

/-- A notice reaches the sections of its point: the view entry `v`, and at each section the change `f`. -/
def Reaches (p : PointId) (v : PointView) (f : SectionId → SectionRecord → SectionRecord) (s t : State) : Prop :=
  Noticed s t ∧ t.view = s.view.set p v ∧
  ∀ n, (n ∈ (s.entry p).bounds → Reached s t n (f n (s.sec n))) ∧
    (n ∉ (s.entry p).bounds → t.sec n = s.sec n ∧ t.outputs.clr.get n = s.outputs.clr.get n)

/-- A change of the view followed by a change at each section the point bounds is a notice. -/
theorem reaches_of_atSections {f : State → SectionId → SectionRecord → SectionRecord} (hf : ReadsView f) (p : PointId)
    (g : PointView → PointView) (s : State) :
    Reaches p (g (s.view.get p)) (f (s.setView p (g (s.view.get p)))) s
      (((⟨s, [], []⟩ : Ev).onView p g).atSections p f).s :=
  ⟨(Ev.onView_noticed p g ⟨s, [], []⟩).trans (Ev.atSections_noticed p f _), Ev.atSections_view p f _,
    fun n => ⟨Ev.atSections_reached hf p ((⟨s, [], []⟩ : Ev).onView p g) n,
      Ev.atSections_untouched hf p ((⟨s, [], []⟩ : Ev).onView p g) n⟩⟩

theorem State.sendActive_reaches (p : PointId) (s : State) :
    Reaches p { s.view.get p with active := true }
      (fun n => SectionRecord.settle s.now (anyActive (s.sendActive p) n) (anyOverdue s n)) s (s.sendActive p) := by
  have h : Reaches p _ _ s (s.sendActive p) := reaches_of_atSections readsView_settleAt p (fun v => { v with active := true }) s
  have hf : settleAt (s.setView p { s.view.get p with active := true }) =
      fun n => SectionRecord.settle s.now (anyActive (s.sendActive p) n) (anyOverdue s n) := by
    funext n r
    rw [anyActive_congr (s := s.setView p _) h.2.1 h.1.topology n, ← anyOverdue_setView_active s p true n]
    rfl
  rwa [hf] at h

theorem State.sendQuiet_reaches (p : PointId) (s : State) :
    Reaches p { s.view.get p with active := false }
      (fun n => SectionRecord.settle s.now (anyActive (s.sendQuiet p) n) (anyOverdue s n)) s (s.sendQuiet p) := by
  have h : Reaches p _ _ s (s.sendQuiet p) := reaches_of_atSections readsView_settleAt p (fun v => { v with active := false }) s
  have hf : settleAt (s.setView p { s.view.get p with active := false }) =
      fun n => SectionRecord.settle s.now (anyActive (s.sendQuiet p) n) (anyOverdue s n) := by
    funext n r
    rw [anyActive_congr (s := s.setView p _) h.2.1 h.1.topology n, ← anyOverdue_setView_active s p false n]
    rfl
  rwa [hf] at h

theorem State.sendOverdue_reaches (p : PointId) (s : State) :
    Reaches p { s.view.get p with overdue := true } (fun _ => SectionRecord.takeOverdue) s (s.sendOverdue p) :=
  reaches_of_atSections (readsView_const _) p (fun v => { v with overdue := true }) s

theorem State.sendCurrent_reaches (p : PointId) (s : State) :
    Reaches p { s.view.get p with overdue := false }
      (fun n => SectionRecord.takeCurrent (anyOverdue (s.sendCurrent p) n)) s (s.sendCurrent p) := by
  have h : Reaches p _ _ s (s.sendCurrent p) :=
    reaches_of_atSections readsView_takeCurrent p (fun v => { v with overdue := false }) s
  have hf : (fun n => SectionRecord.takeCurrent (anyOverdue (s.setView p { s.view.get p with overdue := false }) n)) =
      fun n => SectionRecord.takeCurrent (anyOverdue (s.sendCurrent p) n) := by
    funext n
    rw [anyOverdue_congr (s := s.setView p _) h.2.1 h.1.topology n]
  exact hf ▸ h

theorem State.sendDisturbance_reaches (p : PointId) (c : Cause) (s : State) :
    Reaches p (s.view.get p) (fun _ => SectionRecord.disturb c) s (s.sendDisturbance p c) := by
  have hview : (s.sendDisturbance p c).view = s.view := Ev.atSections_view p _ ⟨s, [], []⟩
  exact ⟨Ev.atSections_noticed p _ ⟨s, [], []⟩, by rw [hview, Table.set_get_self],
    fun n => ⟨Ev.atSections_reached (readsView_const _) p ⟨s, [], []⟩ n,
      Ev.atSections_untouched (readsView_const _) p ⟨s, [], []⟩ n⟩⟩

/-- Settles O27: each notice is a change of the view and one change at each section the point bounds. -/
theorem noticesReachTheSectionsOfThePoint : Obligations.NoticesReachTheSectionsOfThePoint := by
  unfold Obligations.NoticesReachTheSectionsOfThePoint
  intro s p c v reaches
  have of_reaches {v' : PointView} {t : State} {f : SectionId → SectionRecord → SectionRecord}
      (h : Reaches p v' f s t) : reaches v' t f := by
    obtain ⟨hnoticed, hview, hsections⟩ := h
    exact ⟨by rw [← hview]; exact hnoticed, hsections⟩
  exact ⟨of_reaches (s.sendActive_reaches p), of_reaches (s.sendQuiet_reaches p), of_reaches (s.sendOverdue_reaches p),
    of_reaches (s.sendCurrent_reaches p), of_reaches (s.sendDisturbance_reaches p c)⟩

/-! ## A counted passage handed over -/

theorem Ev.takeSide_view (side : SectionRecord → SectionRecord) (n : Option SectionId) (w : Ev) :
    (w.takeSide side n).s.view = w.s.view := by
  cases n with
  | none => rfl
  | some n => exact Ev.onSection_view n _ w

theorem Ev.handOver_view (e : CountEvent) (w : Ev) :
    (w.handOver e).s.view = w.s.view.set e.point { w.s.view.get e.point with active := false } :=
  (Ev.takeSide_view _ _ _).trans (Ev.takeSide_view _ _ _)

/-- Settles O28: the two sections are different, so that each side acts on its own record, and both read the view that the
passage leaves. -/
theorem handOverAppliesBothSides : Obligations.HandOverAppliesBothSides := by
  unfold Obligations.HandOverAppliesBothSides
  intro s e l r hl hr hne t
  have ht : t = (Ev.handOver e ⟨s, [], []⟩).s := by simp [t, State.handOver, hl]
  have hview : t.view = s.view.set e.point { s.view.get e.point with active := false } := by
    rw [ht]; exact Ev.handOver_view e ⟨s, [], []⟩
  have hnoticed : Noticed s t := by rw [ht]; exact Ev.handOver_noticed e ⟨s, [], []⟩
  let quiet : Ev := (⟨s, [], []⟩ : Ev).onView e.point (fun v => { v with active := false })
  have hsettle {u : State} (hv : u.view = quiet.s.view) (hu : Noticed s u) (n : SectionId) (q : SectionRecord) :
      settleAt u n q = q.settle s.now (anyActive t n) (anyOverdue s n) := by
    have h1 : u.view = t.view := hv.trans hview.symm
    have h2 : anyOverdue quiet.s n = anyOverdue s n := anyOverdue_setView_active s e.point false n
    unfold settleAt
    rw [hu.now, anyActive_congr h1 (hu.topology.trans hnoticed.topology.symm), ← h2,
      anyOverdue_congr hv (hu.topology.trans rfl)]
  let left : Ev := quiet.onSection l (fun q => settleAt quiet.s l q.exitSide)
  have ht' : t = (left.onSection r (fun q => settleAt left.s r q.entrySide)).s := by
    rw [ht]; unfold Ev.handOver; rw [hl, hr]; rfl
  have hleft : Noticed s left.s := (Ev.onView_noticed e.point _ ⟨s, [], []⟩).trans (Ev.onSection_noticed l _ quiet)
  have hquietSettle := hsettle (u := quiet.s) rfl (Ev.onView_noticed e.point _ ⟨s, [], []⟩) l (s.sec l).exitSide
  have hleftSettle := hsettle (u := left.s) (Ev.onSection_view l _ quiet) hleft r (s.sec r).entrySide
  refine ⟨by rw [← hview]; exact hnoticed, ?_, ?_, fun n hnl hnr => ?_⟩
  · rw [← hquietSettle, ht', Ev.onSection_sec, if_neg hne, Ev.onSection_sec, if_pos rfl]
    rfl
  · have hsec : left.s.sec r = s.sec r := by rw [Ev.onSection_sec, if_neg hne.symm]; rfl
    rw [← hleftSettle, ht', Ev.onSection_sec, if_pos rfl, hleft.now, hsec]
  · rw [ht', Ev.onSection_sec, if_neg hnr, Ev.onSection_sec, if_neg hnl, Ev.onSection_clr, if_neg hnr, Ev.onSection_clr,
      if_neg hnl]
    exact ⟨rfl, rfl⟩

end Sys2Proof.Machine
end

section
/-! What holds between the parts of one event. In the middle of an event an invariant may be open at a point: its machine has
moved and the notice is still to be sent, or it has become dark and its epochs are still to be ended. `Flaw` names what may
be open, and `Holds X s Y t` says that the work from `s` to `t` leads from the flaws `X` to the flaws `Y`. Each operation is
then said once, for every set of flaws (chapters 1, 3, 5 and 8). -/

namespace Sys2Proof.Machine

/-! ## Flaws -/

/-- What may be open at a point in the middle of an event: its active indication in the view, an active indication that is
on at an IDLE machine, its overdue indication, its eligibility, the disturbance of its sections, the darkness of its group,
and the evaluation of its level. `table` marks an event that replaces the Topology Table. -/
inductive Flaw
  | active
  | stale
  | overdue
  | elig
  | counted
  | dark
  | level
  | table

/-- The flaws that are open. -/
abbrev Flaws := Flaw → PointId → Prop

/-- Nothing is open. -/
def Flaws.none : Flaws := fun _ _ => False

/-- One flaw more. -/
def Flaws.with (X : Flaws) (k : Flaw) (p : PointId) : Flaws := fun j q => X j q ∨ (j = k ∧ q = p)

/-- A system whose point is not eligible (R51, R52). -/
def ProofStatus.Resting (st : ProofStatus) : Prop :=
  st.dueTimer = Option.none ∧ st.overdueTimer = Option.none ∧ st.due = false ∧ st.overdue = true

/-- A section may be in a state (R92, R93, R96, R97): CLEARING and CLEAR without an active member, CLEAR without an overdue
one. -/
def Calm (s : State) (n : SectionId) (st : SectionState) : Prop :=
  (st = .clearing ∨ st = .clear → anyActive s n = false) ∧ (st = .clear → anyOverdue s n = false)

/-- The section records and the trust in them. -/
def State.SectOk (s : State) : Prop := s.SectionsOk ∧ s.TrustOk

def LevelsBut (X : Flaws) (s : State) : Prop :=
  ∀ p, s.params.fault ≤ (s.point p).level → (s.point p).health = .fault ∨ X .level p

def EligibleBut (X : Flaws) (s : State) : Prop :=
  (∀ x ∈ s.queue, eligible s x.point = true ∨ X .elig x.point) ∧
  (∀ pr, s.channel = some pr → eligible s pr.system.point = true ∨ X .elig pr.system.point) ∧
  ∀ p, eligible s p = true ∨ X .elig p ∨ ∀ x, ((s.point p).proof x).Resting

def ViewBut (X : Flaws) (s : State) : Prop :=
  ∀ p, (X .active p ∨ ((s.point p).machine ≠ .idle → (s.view.get p).active = true) ∧
      ((s.view.get p).active = true → (s.point p).machine ≠ .idle ∨ X .stale p)) ∧
    (X .overdue p ∨ (s.view.get p).overdue = (s.point p).overdueIndication)

def MembersBut (X : Flaws) (s : State) : Prop :=
  ∀ n p, (s.sec n).state.trusted = true → p ∈ members s n →
    X .counted p ∨ (wasCounting s p = true ∧ (lit s p = true ∨ X .dark p))

/-- The work from `s` to `t` leads from the flaws `X` to the flaws `Y`, each invariant from what it needs. -/
structure Holds (X : Flaws) (s : State) (Y : Flaws) (t : State) : Prop where
  params : s.params.Ok → t.params.Ok
  levels : s.params.Ok → LevelsBut X s → LevelsBut Y t
  eligible : EligibleBut X s → EligibleBut Y t
  view : ViewBut X s → ViewBut Y t
  sections : s.SectOk → t.SectOk
  members : s.SectOk → MembersBut X s → MembersBut Y t
  quiet : s.SectOk → ViewBut X s → s.QuietOk → t.QuietOk
  topology : (∃ p, Y .table p) ∨ (t.topology = s.topology ∧ ∀ p, ¬X .table p)

/-- The work keeps whatever flaws are open. -/
def Steady (s t : State) : Prop := ∀ X, Holds X s X t

/-- The work keeps the flaws that are open, when no point's group is leaving READY. -/
def Keeps (s t : State) : Prop := ∀ X : Flaws, (∀ p, ¬X .dark p) → Holds X s X t

theorem Holds.trans {X Y Z : Flaws} {s t u : State} (h : Holds X s Y t) (h' : Holds Y t Z u) : Holds X s Z u where
  params := h'.params ∘ h.params
  levels hp hl := h'.levels (h.params hp) (h.levels hp hl)
  eligible := h'.eligible ∘ h.eligible
  view := h'.view ∘ h.view
  sections := h'.sections ∘ h.sections
  members hs hm := h'.members (h.sections hs) (h.members hs hm)
  quiet hs hv hq := h'.quiet (h.sections hs) (h.view hv) (h.quiet hs hv hq)
  topology := by
    rcases h'.topology with hz | ⟨hu, hy⟩
    · exact .inl hz
    · rcases h.topology with ⟨p, hp⟩ | ⟨ht, hx⟩
      · exact absurd hp (hy p)
      · exact .inr ⟨hu.trans ht, hx⟩

/-- More flaws may be open. -/
theorem Holds.weaken {X Y : Flaws} (h : ∀ k p, X k p → Y k p) (s : State) : Holds X s Y s where
  params := id
  levels _ hl p hp := (hl p hp).imp id (h _ p)
  eligible := fun ⟨hq, hc, hr⟩ => ⟨fun x hx => (hq x hx).imp id (h _ _), fun pr hpr => (hc pr hpr).imp id (h _ _),
    fun p => (hr p).imp id (Or.imp (h _ p) id)⟩
  view hv p := ⟨(hv p).1.imp (h _ p) (And.imp id fun k ha => (k ha).imp id (h _ p)), (hv p).2.imp (h _ p) id⟩
  sections := id
  members _ hm n p ht hp := (hm n p ht hp).imp (h _ p) (And.imp id (Or.imp id (h _ p)))
  quiet _ _ := id
  topology := by
    by_cases ht : ∃ p, Y .table p
    · exact .inl ht
    · exact .inr ⟨rfl, fun p hp => ht ⟨p, h _ p hp⟩⟩

theorem Flaws.le_with (X : Flaws) (k : Flaw) (p : PointId) (j : Flaw) (q : PointId) (h : X j q) : X.with k p j q := .inl h

theorem Holds.add (X : Flaws) (k : Flaw) (p : PointId) (s : State) : Holds X s (X.with k p) s := .weaken (X.le_with k p) s

theorem Steady.refl (s : State) : Steady s s := fun _ => .weaken (fun _ _ h => h) s
theorem Steady.trans {s t u : State} (h : Steady s t) (h' : Steady t u) : Steady s u := fun X => (h X).trans (h' X)
theorem Steady.keeps {s t : State} (h : Steady s t) : Keeps s t := fun X _ => h X
theorem Keeps.refl (s : State) : Keeps s s := (Steady.refl s).keeps
theorem Keeps.trans {s t u : State} (h : Keeps s t) (h' : Keeps t u) : Keeps s u := fun X hX => (h X hX).trans (h' X hX)

theorem Steady.foldl {α : Type} (f : Ev → α → Ev) (hf : ∀ w x, Steady w.s (f w x).s) (l : List α) (w : Ev) :
    Steady w.s (l.foldl f w).s := by
  induction l generalizing w with
  | nil => exact .refl _
  | cons x l ih => exact (hf w x).trans (ih _)

theorem Keeps.foldl {α : Type} (f : Ev → α → Ev) (hf : ∀ w x, Keeps w.s (f w x).s) (l : List α) (w : Ev) :
    Keeps w.s (l.foldl f w).s := by
  induction l generalizing w with
  | nil => exact .refl _
  | cons x l ih => exact (hf w x).trans (ih _)

/-! ## Work that touches nothing the invariants read -/

/-- Two records that the invariants cannot tell apart. -/
structure Alike (a b : Point) : Prop where
  machine : b.machine = .idle ↔ a.machine = .idle
  level : b.level = a.level
  fault : b.health = .fault ↔ a.health = .fault
  mode : b.mode = a.mode
  resting : ∀ x, (a.proof x).Resting → (b.proof x).Resting
  overdue : b.overdueIndication = a.overdueIndication

theorem Alike.refl (a : Point) : Alike a a := ⟨.rfl, rfl, .rfl, rfl, fun _ => id, rfl⟩

/-- Two states that the invariants cannot tell apart. -/
structure Resembles (s t : State) : Prop where
  point : ∀ p, Alike (s.point p) (t.point p)
  topology : t.topology = s.topology
  view : t.view = s.view
  sections : t.sections = s.sections
  ready : ∀ g, (t.group g).state = .ready ↔ (s.group g).state = .ready
  device : t.device.state = s.device.state
  params : t.params = s.params
  channel : t.channel.map Proof.system = s.channel.map Proof.system
  queue : t.queue = s.queue
  activity : t.sequencer.activity = .powerOff → s.sequencer.activity = .powerOff ∨ s.device.state ≠ .running

section
variable {s t : State} (h : Resembles s t)
include h

theorem Resembles.lit (p : PointId) : lit t p = lit s p := by
  have h1 := h.ready (groupOf p)
  unfold Machine.lit
  rw [Bool.eq_iff_iff]
  simpa using h1

theorem Resembles.eligible (p : PointId) : eligible t p = eligible s p := by
  have h1 := (h.point p).fault
  unfold Machine.eligible inUse
  rw [h.lit, (h.point p).mode]
  congr 2
  rw [Bool.eq_iff_iff]
  simpa using not_congr h1

theorem Resembles.wasCounting (p : PointId) : wasCounting t p = wasCounting s p := by
  have h1 := (h.point p).fault
  unfold Machine.wasCounting
  rw [h.device, (h.point p).mode]
  congr 2
  rw [Bool.eq_iff_iff]
  simpa using not_congr h1

theorem Resembles.sec (n : SectionId) : t.sec n = s.sec n := congrArg (fun u => Table.get u n) h.sections

theorem Resembles.members (n : SectionId) : members t n = members s n := by unfold Machine.members; rw [h.topology]

theorem Resembles.steady : Steady s t := fun X => {
  params := fun hp => h.params ▸ hp
  levels := fun _ hl p hp => by
    rw [h.params, (h.point p).level] at hp
    exact (hl p hp).imp (h.point p).fault.mpr id
  eligible := fun ⟨hq, hc, hr⟩ => by
    refine ⟨fun x hx => ?_, fun pr hpr => ?_, fun p => ?_⟩
    · rw [h.eligible]; exact hq x (h.queue ▸ hx)
    · have hmap := h.channel
      rw [hpr] at hmap
      obtain ⟨pr', hpr', hsys⟩ := Option.map_eq_some_iff.mp hmap.symm
      rw [h.eligible, ← hsys]
      exact hc pr' hpr'
    · rw [h.eligible]
      exact (hr p).imp id (Or.imp id fun hrest x => (h.point p).resting x (hrest x))
  view := fun hv p => by
    rw [h.view, (h.point p).overdue, ne_eq, (h.point p).machine]
    exact hv p
  sections := fun ⟨hs, h1, h2⟩ => ⟨fun n => by rw [h.sec]; exact hs n,
    fun hd n => by rw [h.sec]; exact h1 (h.device ▸ hd) n,
    fun ha => by rw [h.device]; exact (h.activity ha).elim h2 id⟩
  members := fun _ hm n p ht hp => by
    rw [h.sec] at ht
    rw [h.members] at hp
    rw [h.wasCounting, h.lit]
    exact hm n p ht hp
  quiet := fun _ _ hq n => by
    rw [h.sec, anyActive_congr h.view h.topology, anyOverdue_congr h.view h.topology]
    exact hq n
  topology := by
    by_cases hx : ∃ p, X .table p
    · exact .inl hx
    · exact .inr ⟨h.topology, fun p hp => hx ⟨p, hp⟩⟩ }

end

/-- Posting and sending touch nothing the invariants read. -/
theorem AllButPorts.resembles {s t : State} (h : AllButPorts s t) : Resembles s t := by
  rw [h]; exact ⟨fun _ => .refl _, rfl, rfl, rfl, fun _ => .rfl, rfl, rfl, rfl, rfl, .inl⟩

/-! ## One point's record replaced -/

theorem State.setPoint_self (p : PointId) (pt : Point) (s : State) : (s.setPoint p pt).point p = pt := by simp

theorem eligible_setPoint_ne {s : State} {p q : PointId} (pt : Point) (h : q ≠ p) :
    eligible (s.setPoint p pt) q = eligible s q := by
  unfold eligible inUse; rw [State.setPoint_point, if_neg h]; rfl

theorem wasCounting_setPoint_ne {s : State} {p q : PointId} (pt : Point) (h : q ≠ p) :
    wasCounting (s.setPoint p pt) q = wasCounting s q := by
  unfold wasCounting; rw [State.setPoint_point, if_neg h]; rfl

theorem eligible_setPoint_self (s : State) (p : PointId) (pt : Point) :
    eligible (s.setPoint p pt) p = (pt.mode != .outOfUse && pt.health != .fault && lit s p) := by
  unfold eligible inUse; rw [State.setPoint_self]; rfl

theorem wasCounting_setPoint_self (s : State) (p : PointId) (pt : Point) :
    wasCounting (s.setPoint p pt) p = (pt.mode == .counting && pt.health != .fault && s.device.state == .running) := by
  unfold wasCounting; rw [State.setPoint_self]; rfl

/-- What the invariants ask of a change of the record of point `p` to `pt`: each is kept there, or open after it. -/
structure Bears (X Y : Flaws) (s : State) (p : PointId) (pt : Point) : Prop where
  step : PointStep (s.point p) pt
  mono : ∀ k q, X k q → Y k q ∨ (k = .level ∧ q = p)
  level : Y .level p ∨ (s.params.Ok → (s.params.fault ≤ (s.point p).level → (s.point p).health = .fault ∨ X .level p) →
    s.params.fault ≤ pt.level → pt.health = .fault)
  elig : Y .elig p ∨ (eligible s p = true → eligible (s.setPoint p pt) p = true)
  rest : Y .elig p ∨ eligible (s.setPoint p pt) p = true ∨
    ((eligible s p = true ∨ ∀ x, ((s.point p).proof x).Resting) → ∀ x, (pt.proof x).Resting)
  machine : Y .active p ∨ (pt.machine = .idle ↔ (s.point p).machine = .idle) ∨ (Y .stale p ∧ pt.machine = .idle)
  overdue : Y .overdue p ∨ pt.overdueIndication = (s.point p).overdueIndication
  counting : Y .counted p ∨ (wasCounting s p = true → lit s p = true ∨ X .dark p → wasCounting (s.setPoint p pt) p = true)

theorem Bears.holds {X Y : Flaws} {s : State} {p : PointId} {pt : Point} (h : Bears X Y s p pt) :
    Holds X s Y (s.setPoint p pt) := by
  have hwork : Work s (s.setPoint p pt) := .change _ (.point p pt h.step)
  have mono : ∀ k q, k ≠ .level → X k q → Y k q := fun k q hk hx => (h.mono k q hx).resolve_right fun e => hk e.1
  exact {
    params := Work.keeps_params _ _ hwork
    sections := Work.keeps_trust _ _ hwork
    levels := fun hok hl q hq => by
      by_cases e : q = p
      · subst e
        rw [State.setPoint_self] at hq ⊢
        exact h.level.elim .inr fun hk => .inl (hk hok (hl q) hq)
      · rw [State.setPoint_point, if_neg e] at hq ⊢
        exact (hl q hq).imp id fun hx => (h.mono _ q hx).resolve_right fun k => e k.2
    eligible := fun ⟨hq, hc, hr⟩ => by
      have hkept : ∀ q, eligible s q = true ∨ X .elig q → eligible (s.setPoint p pt) q = true ∨ Y .elig q := by
        intro q hor
        rcases hor with hor | hor
        · by_cases e : q = p
          · subst e; exact h.elig.elim .inr fun hk => .inl (hk hor)
          · rw [eligible_setPoint_ne pt e]; exact .inl hor
        · exact .inr (mono _ q (by simp) hor)
      refine ⟨fun x hx => hkept _ (hq x hx), fun pr hpr => hkept _ (hc pr hpr), fun q => ?_⟩
      by_cases e : q = p
      · subst e
        rw [State.setPoint_self]
        rcases h.rest with hk | hk | hk
        · exact .inr (.inl hk)
        · exact .inl hk
        · rcases hr q with hor | hor | hor
          · exact .inr (.inr (hk (.inl hor)))
          · exact .inr (.inl (mono _ q (by simp) hor))
          · exact .inr (.inr (hk (.inr hor)))
      · rw [eligible_setPoint_ne pt e, State.setPoint_point, if_neg e]
        exact (hr q).imp id (Or.imp (mono _ q (by simp)) id)
    view := fun hv q => by
      obtain ⟨ha, ho⟩ := hv q
      show (_ ∨ (_ → (s.view.get q).active = true) ∧ ((s.view.get q).active = true → _)) ∧
        (_ ∨ (s.view.get q).overdue = _)
      by_cases e : q = p
      · subst e
        rw [State.setPoint_self]
        constructor
        · rcases h.machine with hk | hk | ⟨hk, hi⟩
          · exact .inl hk
          · rw [ne_eq, hk]
            exact ha.imp (mono _ q (by simp)) (And.imp id fun j hj => (j hj).imp id (mono _ q (by simp)))
          · exact .inr ⟨fun hne => absurd hi hne, fun _ => .inr hk⟩
        · exact h.overdue.elim .inl fun hk => by rw [hk]; exact ho.imp (mono _ q (by simp)) id
      · rw [State.setPoint_point, if_neg e]
        exact ⟨ha.imp (mono _ q (by simp)) (And.imp id fun j hj => (j hj).imp id (mono _ q (by simp))),
          ho.imp (mono _ q (by simp)) id⟩
    members := fun _ hm n q ht hq => by
      have hold := hm n q ht hq
      by_cases e : q = p
      · subst e
        rcases hold with hx | ⟨hw, hor⟩
        · exact .inl (mono _ q (by simp) hx)
        · exact h.counting.imp id fun hk => ⟨hk hw hor, hor.imp id (mono _ q (by simp))⟩
      · rw [wasCounting_setPoint_ne pt e]
        exact hold.imp (mono _ q (by simp)) (And.imp id (Or.imp id (mono _ q (by simp))))
    quiet := fun _ _ hq => hq
    topology := by
      by_cases hy : ∃ q, Y .table q
      · exact .inl hy
      · exact .inr ⟨rfl, fun q hx => hy ⟨q, mono _ q (by simp) hx⟩⟩ }

/-- A change of a record that moves nothing but what the invariants do not read. -/
theorem Alike.steady {s : State} {p : PointId} {pt : Point} (h : Alike (s.point p) pt) : Steady s (s.setPoint p pt) := by
  refine Resembles.steady ⟨fun q => ?_, rfl, rfl, rfl, fun _ => .rfl, rfl, rfl, rfl, rfl, .inl⟩
  rw [State.setPoint_point]
  split
  · rename_i e; subst e; exact h
  · exact .refl _

/-- A change of a point's record that leaves its mode, its health and its proof statuses. -/
structure Point.SameStanding (a b : Point) : Prop where
  mode : b.mode = a.mode
  health : b.health = a.health
  proofA : b.proofA = a.proofA
  proofB : b.proofB = a.proofB

theorem Point.SameStanding.proof {a b : Point} (h : a.SameStanding b) (x : Sys) : b.proof x = a.proof x := by
  cases x
  · exact h.proofA
  · exact h.proofB

theorem Point.SameStanding.overdueIndication {a b : Point} (h : a.SameStanding b) :
    b.overdueIndication = a.overdueIndication := by
  unfold Point.overdueIndication; rw [h.proofA, h.proofB]

/-- A change that leaves the standing and the level of a point, and the machine in or out of IDLE, is none to the
invariants. -/
theorem Point.SameStanding.alike {a b : Point} (h : a.SameStanding b) (hlevel : b.level = a.level)
    (hm : b.machine = .idle ↔ a.machine = .idle) : Alike a b :=
  ⟨hm, hlevel, by rw [h.health], h.mode, fun x hx => by rw [h.proof]; exact hx, h.overdueIndication⟩

section
variable {X Y : Flaws} {s : State} {p : PointId} {pt : Point}

theorem eligible_setPoint_of_eq (hmode : pt.mode = (s.point p).mode) (hfault : pt.health = (s.point p).health) :
    eligible (s.setPoint p pt) p = eligible s p := by
  rw [eligible_setPoint_self, hmode, hfault]; rfl

theorem wasCounting_setPoint_of_eq (hmode : pt.mode = (s.point p).mode) (hfault : pt.health = (s.point p).health) :
    wasCounting (s.setPoint p pt) p = wasCounting s p := by
  rw [wasCounting_setPoint_self, hmode, hfault]; rfl

/-- The machine and the level change: what each opens is open. -/
theorem Holds.moved (step : PointStep (s.point p) pt) (h : (s.point p).SameStanding pt) (mono : ∀ k q, X k q → Y k q)
    (hlevel : Y .level p ∨ pt.level ≤ (s.point p).level)
    (hm : Y .active p ∨ (pt.machine = .idle ↔ (s.point p).machine = .idle) ∨ (Y .stale p ∧ pt.machine = .idle)) :
    Holds X s Y (s.setPoint p pt) :=
  Bears.holds {
    step := step
    mono := fun k q hx => .inl (mono k q hx)
    level := by
      by_cases hx : Y .level p
      · exact .inl hx
      · exact .inr fun _ hk hp => by
          rw [h.health]
          exact (hk (hp.trans (hlevel.resolve_left hx))).resolve_right fun c => hx (mono _ _ c)
    elig := .inr (by rw [eligible_setPoint_of_eq h.mode h.health]; exact id)
    rest := by
      rw [eligible_setPoint_of_eq h.mode h.health]
      by_cases he : Machine.eligible s p = true
      · exact .inr (.inl he)
      · exact .inr (.inr fun hor x => h.proof x ▸ hor.resolve_left he x)
    machine := hm
    overdue := .inr h.overdueIndication
    counting := .inr fun hw _ => by rw [wasCounting_setPoint_of_eq h.mode h.health]; exact hw }

/-- The proof statuses change, of an eligible point, or so that systems at rest stay at rest. -/
theorem Holds.restatused (step : PointStep (s.point p) pt) (hmode : pt.mode = (s.point p).mode)
    (hfault : pt.health = (s.point p).health) (hlevel : pt.level = (s.point p).level)
    (hmachine : pt.machine = (s.point p).machine)
    (hproof : Machine.eligible s p = true ∨ X .elig p ∨
      ((∀ x, ((s.point p).proof x).Resting) → ∀ x, (pt.proof x).Resting))
    (hoverdue : X .overdue p ∨ pt.overdueIndication = (s.point p).overdueIndication) :
    Holds X s X (s.setPoint p pt) :=
  Bears.holds {
    step := step
    mono := fun _ _ hx => .inl hx
    level := by
      by_cases hx : X .level p
      · exact .inl hx
      · exact .inr fun _ hk hp => by rw [hfault]; exact (hk (hlevel ▸ hp)).resolve_right hx
    elig := .inr (by rw [eligible_setPoint_of_eq hmode hfault]; exact id)
    rest := by
      rw [eligible_setPoint_of_eq hmode hfault]
      by_cases he : Machine.eligible s p = true
      · exact .inr (.inl he)
      · rcases hproof with h | h | h
        · exact absurd h he
        · exact .inl h
        · exact .inr (.inr fun hor => h (hor.resolve_left he))
    machine := .inr (.inl (by rw [hmachine]))
    overdue := hoverdue
    counting := .inr fun hw _ => by rw [wasCounting_setPoint_of_eq hmode hfault]; exact hw }

end

/-! ## Closing a flaw -/

section
variable {X : Flaws} {k : Flaw} {p : PointId} {s t : State}

theorem Flaws.with_ne {j : Flaw} {q : PointId} (hk : k ≠ j) (h : X.with k p j q) : X j q :=
  h.resolve_right fun e => hk e.1.symm

theorem LevelsBut.of_with (hk : k ≠ .level) (h : LevelsBut (X.with k p) s) : LevelsBut X s :=
  fun q hq => (h q hq).imp id (Flaws.with_ne hk)

theorem EligibleBut.of_with (hk : k ≠ .elig) (h : EligibleBut (X.with k p) s) : EligibleBut X s :=
  ⟨fun x hx => (h.1 x hx).imp id (Flaws.with_ne hk), fun pr hpr => (h.2.1 pr hpr).imp id (Flaws.with_ne hk),
    fun q => (h.2.2 q).imp id (Or.imp (Flaws.with_ne hk) id)⟩

theorem ViewBut.of_with (ha : k ≠ .active) (hs : k ≠ .stale) (ho : k ≠ .overdue) (h : ViewBut (X.with k p) s) :
    ViewBut X s :=
  fun q => ⟨(h q).1.imp (Flaws.with_ne ha) (And.imp id fun j hj => (j hj).imp id (Flaws.with_ne hs)),
    (h q).2.imp (Flaws.with_ne ho) id⟩

theorem MembersBut.of_with (hc : k ≠ .counted) (hd : k ≠ .dark) (h : MembersBut (X.with k p) s) : MembersBut X s :=
  fun n q ht hq => (h n q ht hq).imp (Flaws.with_ne hc) (And.imp id (Or.imp id (Flaws.with_ne hd)))

/-- The work after which nothing is open about the flaw closes it. -/
theorem Holds.close {W : Flaws} (h : Holds W s (X.with k p) t) (hk : k ≠ .table)
    (hlevel : k = .level → LevelsBut (X.with k p) t → LevelsBut X t)
    (helig : k = .elig → EligibleBut (X.with k p) t → EligibleBut X t)
    (hview : k = .active ∨ k = .stale ∨ k = .overdue → ViewBut (X.with k p) t → ViewBut X t)
    (hmembers : k = .counted ∨ k = .dark → MembersBut (X.with k p) t → MembersBut X t) : Holds W s X t where
  params := h.params
  levels hp hl := by
    by_cases e : k = .level
    · exact hlevel e (h.levels hp hl)
    · exact (h.levels hp hl).of_with e
  eligible he := by
    by_cases e : k = .elig
    · exact helig e (h.eligible he)
    · exact (h.eligible he).of_with e
  view hv := by
    by_cases e : k = .active ∨ k = .stale ∨ k = .overdue
    · exact hview e (h.view hv)
    · rw [not_or, not_or] at e
      exact (h.view hv).of_with e.1 e.2.1 e.2.2
  sections := h.sections
  members hs hm := by
    by_cases e : k = .counted ∨ k = .dark
    · exact hmembers e (h.members hs hm)
    · rw [not_or] at e
      exact (h.members hs hm).of_with e.1 e.2
  quiet := h.quiet
  topology := h.topology.imp (fun ⟨q, hq⟩ => ⟨q, Flaws.with_ne hk hq⟩) id

variable {W : Flaws}

/-- The level of the point is below the fault threshold, or the point is in FAULT. -/
theorem Holds.close_level (h : Holds W s (X.with .level p) t)
    (hp : t.params.fault ≤ (t.point p).level → (t.point p).health = .fault) : Holds W s X t :=
  h.close (by simp) (fun _ hl q hq => by
    by_cases e : q = p
    · subst e; exact .inl (hp hq)
    · exact (hl q hq).imp id fun hx => hx.resolve_right fun c => e c.2)
    (by simp) (by simp) (by simp)

/-- The view has the machine of the point as it is. -/
theorem Holds.close_active (h : Holds W s (X.with .active p) t)
    (hp : (t.view.get p).active = true ↔ (t.point p).machine ≠ .idle) : Holds W s X t :=
  h.close (by simp) (by simp) (by simp) (fun _ hv q => by
    refine ⟨?_, (hv q).2.imp (Flaws.with_ne (by simp)) id⟩
    by_cases e : q = p
    · subst e; exact .inr ⟨hp.mpr, fun ha => .inl (hp.mp ha)⟩
    · exact (hv q).1.imp (fun hx => hx.resolve_right fun c => e c.2)
        (And.imp id fun j hj => (j hj).imp id (Flaws.with_ne (by simp)))) (by simp)

theorem Holds.close_stale (h : Holds W s (X.with .stale p) t)
    (hp : (t.view.get p).active = true → (t.point p).machine ≠ .idle) : Holds W s X t :=
  h.close (by simp) (by simp) (by simp) (fun _ hv q => by
    refine ⟨(hv q).1.imp (Flaws.with_ne (by simp)) (And.imp id fun j hj => ?_), (hv q).2.imp (Flaws.with_ne (by simp)) id⟩
    by_cases e : q = p
    · subst e; exact .inl (hp hj)
    · exact (j hj).imp id fun hx => hx.resolve_right fun c => e c.2) (by simp)

theorem Holds.close_overdue (h : Holds W s (X.with .overdue p) t)
    (hp : (t.view.get p).overdue = (t.point p).overdueIndication) : Holds W s X t :=
  h.close (by simp) (by simp) (by simp) (fun _ hv q => by
    refine ⟨(hv q).1.imp (Flaws.with_ne (by simp)) (And.imp id fun j hj => (j hj).imp id (Flaws.with_ne (by simp))), ?_⟩
    by_cases e : q = p
    · subst e; exact .inr hp
    · exact (hv q).2.imp (fun hx => hx.resolve_right fun c => e c.2) id) (by simp)

/-- No system of the point waits or is under proof, and both rest. -/
theorem Holds.close_elig (h : Holds W s (X.with .elig p) t) (hq : ∀ x ∈ t.queue, x.point ≠ p)
    (hc : ∀ pr, t.channel = some pr → pr.system.point ≠ p) (hr : ∀ x, ((t.point p).proof x).Resting) : Holds W s X t :=
  h.close (by simp) (by simp) (fun _ he => by
    refine ⟨fun x hx => (he.1 x hx).imp id fun j => j.resolve_right fun c => hq x hx c.2,
      fun pr hpr => (he.2.1 pr hpr).imp id fun j => j.resolve_right fun c => hc pr hpr c.2, fun q => ?_⟩
    by_cases e : q = p
    · subst e; exact .inr (.inr hr)
    · exact (he.2.2 q).imp id (Or.imp (fun hx => hx.resolve_right fun c => e c.2) id)) (by simp) (by simp)

/-- No section of the point has a trusted count. -/
theorem Holds.close_members (h : Holds W s (X.with k p) t) (hk : k = .counted ∨ k = .dark)
    (hn : ∀ n, p ∈ Machine.members t n → (t.sec n).state.trusted = false) : Holds W s X t :=
  h.close (by rcases hk with rfl | rfl <;> simp) (by rcases hk with rfl | rfl <;> simp)
    (by rcases hk with rfl | rfl <;> simp) (by rcases hk with rfl | rfl <;> simp) (fun _ hm n q ht hq => by
      have e : q ≠ p := fun e => by subst e; rw [hn n hq] at ht; cases ht
      exact (hm n q ht hq).imp (fun hx => hx.resolve_right fun c => e c.2)
        (And.imp id (Or.imp id fun hx => hx.resolve_right fun c => e c.2)))

end

/-- What follows from the eligibility of a point's systems may be supposed where that alone can be at stake. -/
theorem Holds.supposing {X : Flaws} {s t : State} {p : PointId}
    (hc : EligibleBut X s → Machine.eligible s p = true ∨ X .elig p)
    (h : ∀ Y : Flaws, (∀ q, Y .dark q → X .dark q) → Machine.eligible s p = true ∨ Y .elig p → Holds Y s Y t) :
    Holds X s X t := by
  by_cases he : Machine.eligible s p = true ∨ X .elig p
  · exact h X (fun _ => id) he
  · have hw := h (X.with .elig p) (fun _ => Flaws.with_ne (by simp)) (.inr (.inr ⟨rfl, rfl⟩))
    exact {
      params := hw.params
      levels := fun hp hl => (hw.levels hp fun q hq => (hl q hq).imp id .inl).of_with (by simp)
      eligible := fun hb => absurd (hc hb) he
      view := fun hv => (hw.view fun q => ⟨(hv q).1.imp .inl (And.imp id fun j hj => (j hj).imp id .inl),
        (hv q).2.imp .inl id⟩).of_with (by simp) (by simp) (by simp)
      sections := hw.sections
      members := fun hs hm => (hw.members hs fun n q ht hq =>
        (hm n q ht hq).imp .inl (And.imp id (Or.imp id .inl))).of_with (by simp) (by simp)
      quiet := fun hs hv => hw.quiet hs fun q => ⟨(hv q).1.imp .inl (And.imp id fun j hj => (j hj).imp id .inl),
        (hv q).2.imp .inl id⟩
      topology := hw.topology.imp (fun ⟨q, hq⟩ => ⟨q, Flaws.with_ne (by simp) hq⟩)
        (And.imp id fun j q hx => j q (.inl hx)) }

/-! ## Sections -/

/-- The invariants about one section's record after a change of it. -/
theorem Holds.onSection {X : Flaws} {n : SectionId} {f : SectionRecord → SectionRecord} {w : Ev}
    (step : SectionStep w.s (w.s.sec n) (f (w.s.sec n)))
    (htrust : (w.s.sec n).Ok → (f (w.s.sec n)).state.trusted = true → (w.s.sec n).state.trusted = true ∨
      ∀ p ∈ Machine.members w.s n, wasCounting w.s p = true ∧ lit w.s p = true)
    (hcalm : (w.s.sec n).Ok → ViewBut X w.s → Calm w.s n (w.s.sec n).state → Calm w.s n (f (w.s.sec n)).state) :
    Holds X w.s X (w.onSection n f).s := by
  have hnoticed := Ev.onSection_noticed n f w
  have hview := Ev.onSection_view n f w
  have hsec := fun m => Ev.onSection_sec n m f w
  have hwork : Work w.s (w.onSection n f).s := by
    rw [Ev.onSection_s]; exact .change _ (.sec n _ step)
  exact {
    params := Work.keeps_params _ _ hwork
    levels := fun _ hl p => by rw [hnoticed.params, hnoticed.point]; exact hl p
    eligible := fun ⟨hq, hc, hr⟩ => by
      refine ⟨fun x hx => ?_, fun pr hpr => ?_, fun p => ?_⟩
      · rw [hnoticed.eligible]; exact hq x (hnoticed.queue ▸ hx)
      · rw [hnoticed.eligible]; exact hc pr (hnoticed.channel ▸ hpr)
      · rw [hnoticed.eligible, hnoticed.point]; exact hr p
    view := fun hv p => by rw [hview, hnoticed.point]; exact hv p
    sections := Work.keeps_trust _ _ hwork
    members := fun hs hm m p ht hp => by
      rw [hnoticed.members] at hp
      rw [hnoticed.wasCounting, hnoticed.lit]
      rw [hsec] at ht
      split at ht
      · rename_i e
        subst e
        rw [SectionRecord.stamped_state] at ht
        rcases htrust (hs.1 m) ht with h | h
        · exact hm m p h hp
        · exact .inr ⟨(h p hp).1, .inl (h p hp).2⟩
      · exact hm m p ht hp
    quiet := fun hs hv hq m => by
      rw [hsec, anyActive_congr hview hnoticed.topology, anyOverdue_congr hview hnoticed.topology]
      split
      · rename_i e
        subst e
        rw [SectionRecord.stamped_state]
        exact hcalm (hs.1 m) hv (hq m)
      · exact hq m
    topology := by
      by_cases hx : ∃ p, X .table p
      · exact .inl hx
      · exact .inr ⟨hnoticed.topology, fun p hp => hx ⟨p, hp⟩⟩ }

/-- A change of a section's record that trusts no count anew. -/
theorem Steady.onSection {n : SectionId} {f : SectionRecord → SectionRecord} {w : Ev}
    (step : SectionStep w.s (w.s.sec n) (f (w.s.sec n)))
    (htrust : (w.s.sec n).Ok → (f (w.s.sec n)).state.trusted = true → (w.s.sec n).state.trusted = true)
    (hcalm : (w.s.sec n).Ok → Calm w.s n (w.s.sec n).state → Calm w.s n (f (w.s.sec n)).state) :
    Steady w.s (w.onSection n f).s :=
  fun _ => .onSection step (fun hok ht => .inl (htrust hok ht)) fun hok _ hc => hcalm hok hc

/-! ## The view -/

/-- An indication of the view goes off: no section is disturbed in its rest by that. -/
theorem Holds.viewOff {X : Flaws} {s : State} {p : PointId} {v : PointView}
    (ha : (v.active = false ∧ X .active p) ∨ v.active = (s.view.get p).active)
    (ho : (v.overdue = false ∧ X .overdue p) ∨ v.overdue = (s.view.get p).overdue) : Holds X s X (s.setView p v) := by
  have hget : ∀ q, (s.setView p v).view.get q = if q = p then v else s.view.get q := fun q => Table.get_set ..
  have hactive : ∀ q, ((s.setView p v).view.get q).active = true → (s.view.get q).active = true := by
    intro q
    rw [hget]
    split
    · rename_i e; subst e
      rcases ha with ⟨ha, -⟩ | ha <;> rw [ha]
      · simp
      · exact id
    · exact id
  have hoverdue : ∀ q, ((s.setView p v).view.get q).overdue = true → (s.view.get q).overdue = true := by
    intro q
    rw [hget]
    split
    · rename_i e; subst e
      rcases ho with ⟨ho, -⟩ | ho <;> rw [ho]
      · simp
      · exact id
    · exact id
  exact {
    params := id
    levels := fun _ => id
    eligible := id
    view := fun hv q => by
      rw [hget]
      split
      · rename_i e; subst e
        refine ⟨?_, ?_⟩
        · rcases ha with ⟨-, ha⟩ | ha
          · exact .inl ha
          · rw [ha]; exact (hv q).1
        · rcases ho with ⟨-, ho⟩ | ho
          · exact .inl ho
          · rw [ho]; exact (hv q).2
      · exact hv q
    sections := id
    members := fun _ => id
    quiet := fun _ _ hq n => by
      refine ⟨fun hn => ?_, fun hn => ?_⟩
      · have h := (hq n).1 hn
        simp only [anyActive, List.any_eq_false] at h ⊢
        exact fun q hq' hq => h q hq' (hactive q hq)
      · have h := (hq n).2 hn
        simp only [anyOverdue, List.any_eq_false] at h ⊢
        exact fun q hq' hq => h q hq' (hoverdue q hq)
    topology := by
      by_cases hx : ∃ p, X .table p
      · exact .inl hx
      · exact .inr ⟨rfl, fun p hp => hx ⟨p, hp⟩⟩ }

/-- A notice by which an indication of the view comes on, and each section of the point acts. -/
theorem Reaches.holds {X : Flaws} {p : PointId} {v : PointView} {f : SectionId → SectionRecord → SectionRecord}
    {s t : State} (h : Reaches p v f s t) (hw : Changes s t)
    (ha : X .active p ∨ v.active = (s.view.get p).active) (ho : X .overdue p ∨ v.overdue = (s.view.get p).overdue)
    (htrust : ∀ n, (f n (s.sec n)).state.trusted = true → (s.sec n).state.trusted = true)
    (hcalm : ∀ n, Calm s n (s.sec n).state → Calm t n (f n (s.sec n)).state) : Holds X s X t := by
  obtain ⟨hnoticed, hview, hsec⟩ := h
  have hget : ∀ q, t.view.get q = if q = p then v else s.view.get q := fun q => by rw [hview]; exact Table.get_set ..
  have hmem : ∀ n, n ∉ (s.entry p).bounds → ∀ q ∈ members s n, q ≠ p := fun n hn q hq e =>
    hn (mem_bounds.mpr (e ▸ hq))
  exact {
    params := hw.keeps fun _ _ hc => Work.keeps_params _ _ (.change _ hc)
    levels := fun _ hl q => by rw [hnoticed.params, hnoticed.point]; exact hl q
    eligible := fun ⟨hq, hc, hr⟩ => by
      refine ⟨fun x hx => ?_, fun pr hpr => ?_, fun q => ?_⟩
      · rw [hnoticed.eligible]; exact hq x (hnoticed.queue ▸ hx)
      · rw [hnoticed.eligible]; exact hc pr (hnoticed.channel ▸ hpr)
      · rw [hnoticed.eligible, hnoticed.point]; exact hr q
    view := fun hv q => by
      rw [hget, hnoticed.point]
      split
      · rename_i e; subst e
        exact ⟨ha.elim .inl fun e => by rw [e]; exact (hv q).1, ho.elim .inl fun e => by rw [e]; exact (hv q).2⟩
      · exact hv q
    sections := hw.keeps (P := State.SectOk) fun _ _ hc => Work.keeps_trust _ _ (.change _ hc)
    members := fun _ hm n q ht hq => by
      rw [hnoticed.members] at hq
      rw [hnoticed.wasCounting, hnoticed.lit]
      refine hm n q ?_ hq
      by_cases hn : n ∈ (s.entry p).bounds
      · rw [((hsec n).1 hn).1, SectionRecord.stamped_state] at ht; exact htrust n ht
      · rw [((hsec n).2 hn).1] at ht; exact ht
    quiet := fun _ _ hq n => by
      by_cases hn : n ∈ (s.entry p).bounds
      · rw [((hsec n).1 hn).1, SectionRecord.stamped_state]; exact hcalm n (hq n)
      · have hmembers : members t n = members s n := hnoticed.members n
        have hsame : ∀ q ∈ members s n, t.view.get q = s.view.get q := fun q hq' => by
          rw [hget, if_neg (hmem n hn q hq')]
        have hact : anyActive t n = anyActive s n := by
          unfold anyActive
          rw [hmembers, Bool.eq_iff_iff, List.any_eq_true, List.any_eq_true]
          exact exists_congr fun q => and_congr_right fun hq' => by rw [hsame q hq']
        have hover : anyOverdue t n = anyOverdue s n := by
          unfold anyOverdue
          rw [hmembers, Bool.eq_iff_iff, List.any_eq_true, List.any_eq_true]
          exact exists_congr fun q => and_congr_right fun hq' => by rw [hsame q hq']
        rw [((hsec n).2 hn).1, hact, hover]
        exact hq n
    topology := by
      by_cases hx : ∃ q, X .table q
      · exact .inl hx
      · exact .inr ⟨hnoticed.topology, fun q hq => hx ⟨q, hq⟩⟩ }

/-! ## The proof channel and the queue -/

/-- Only systems that waited or were under proof, or whose points are eligible, wait or are under proof. -/
theorem Holds.onProofs {X : Flaws} {s : State} (c : Option Proof) (q : List SystemId)
    (hq : ∀ x ∈ q, x ∈ s.queue ∨ Machine.eligible s x.point = true ∨ X .elig x.point)
    (hc : ∀ pr, c = some pr → pr.system ∈ s.queue ∨ ∃ pr', s.channel = some pr' ∧ pr'.system = pr.system) :
    Holds X s X { s with channel := c, queue := q } where
  params := id
  levels _ := id
  eligible := fun ⟨h1, h2, h3⟩ => by
    refine ⟨fun x hx => (hq x hx).elim (h1 x) id, fun pr hpr => ?_, h3⟩
    rcases hc pr hpr with h | ⟨pr', h, e⟩
    · exact h1 _ h
    · have := h2 pr' h; rw [e] at this; exact this
  view := id
  sections := id
  members _ := id
  quiet _ _ := id
  topology := by
    by_cases hx : ∃ q, X .table q
    · exact .inl hx
    · exact .inr ⟨rfl, fun q hq => hx ⟨q, hq⟩⟩

/-! ## Groups, device, parameters and topology -/

theorem Ev.onGroup_group (g h : GroupId) (f : Group → Group) (w : Ev) :
    (w.onGroup g f).s.group h = if h = g then (w.s.group g).stamped w.s.now (f (w.s.group g)) else w.s.group h := by
  rw [Ev.onGroup_s]; exact State.group_set ..

/-- The work changes group records alone. -/
def Grouped (s t : State) : Prop := t = { s with groups := t.groups }

theorem Ev.onGroup_grouped (g : GroupId) (f : Group → Group) (w : Ev) : Grouped w.s (w.onGroup g f).s := by
  rw [Ev.onGroup_s]; rfl

/-- Points that are dark are open; every other invariant stands. -/
theorem Grouped.holds {X Y : Flaws} {s t : State} (h : Grouped s t) (mono : ∀ k q, X k q → Y k q)
    (hlit : ∀ q, lit s q = true → lit t q = true ∨ Y .elig q ∧ Y .dark q) : Holds X s Y t := by
  have heligible : ∀ q, eligible s q = true → eligible t q = true ∨ Y .elig q := by
    intro q hq
    have hl : lit s q = true := by simp only [eligible, Bool.and_eq_true] at hq; exact hq.2
    refine (hlit q hl).imp (fun ht => ?_) And.left
    have hu : eligible t q = (inUse s q && (s.point q).health != .fault && lit t q) := by rw [h]; rfl
    rw [hu, ht]
    simp only [eligible, Bool.and_eq_true] at hq ⊢
    exact ⟨hq.1, trivial⟩
  have hpoint : ∀ q, t.point q = s.point q := fun q => by rw [h]; rfl
  exact {
    params := fun hp => by rw [h]; exact hp
    levels := fun _ hl q hq => by
      rw [hpoint] at hq ⊢
      rw [h] at hq
      exact (hl q hq).imp id (mono _ q)
    eligible := fun ⟨h1, h2, h3⟩ => by
      refine ⟨fun x hx => ?_, fun pr hpr => ?_, fun q => ?_⟩
      · rw [h] at hx; exact (h1 x hx).elim (heligible _) fun k => .inr (mono _ _ k)
      · rw [h] at hpr; exact (h2 pr hpr).elim (heligible _) fun k => .inr (mono _ _ k)
      · rcases h3 q with k | k | k
        · exact (heligible q k).imp id .inl
        · exact .inr (.inl (mono _ q k))
        · exact .inr (.inr fun x => by rw [hpoint]; exact k x)
    view := fun hv q => by
      rw [hpoint, show t.view = s.view by rw [h]]
      exact ⟨(hv q).1.imp (mono _ q) (And.imp id fun k hk => (k hk).imp id (mono _ q)), (hv q).2.imp (mono _ q) id⟩
    sections := fun hs => by rw [h]; exact hs
    members := fun _ hm n q ht hq => by
      have hw : wasCounting t q = wasCounting s q := by rw [h]; rfl
      have hold := hm n q (by rw [h] at ht; exact ht) (by rw [h] at hq; exact hq)
      rw [hw]
      refine hold.imp (mono _ q) (And.imp id fun k => ?_)
      rcases k with k | k
      · exact (hlit q k).imp id And.right
      · exact .inr (mono _ q k)
    quiet := fun _ _ hq n => by rw [h]; exact hq n
    topology := by
      by_cases hy : ∃ q, Y .table q
      · exact .inl hy
      · exact .inr ⟨by rw [h], fun q hq => hy ⟨q, mono _ q hq⟩⟩ }

/-- A group whose points are not darkened by the change. -/
theorem Steady.onGroup {g : GroupId} {f : Group → Group} {w : Ev}
    (h : (w.s.group g).state = .ready → (f (w.s.group g)).state = .ready) : Steady w.s (w.onGroup g f).s := fun X => by
  refine (Ev.onGroup_grouped g f w).holds (fun _ _ => id) fun q hq => .inl ?_
  simp only [lit, beq_iff_eq] at hq ⊢
  rw [Ev.onGroup_group]
  split
  · rename_i e; rw [Group.stamped_state]; exact h (e ▸ hq)
  · exact hq

/-- The device state, the activity and the outputs change. -/
theorem Steady.device {s : State} {d : Device} {q : Sequencer} {o : Outputs}
    (h : s.SectOk → State.SectOk { s with sequencer := q, device := d, outputs := o }) :
    Steady s { s with sequencer := q, device := d, outputs := o } := fun X => {
  params := id
  levels := fun _ => id
  eligible := id
  view := id
  sections := h
  members := fun hs hm n p ht hp => by
    have huntrusted : ∀ st : State, st.TrustOk → st.sections = s.sections → st.device.state = .running := by
      intro st hst he
      by_contra hd
      have hn : st.sec n = s.sec n := congrArg (fun u => Table.get u n) he
      have hfalse := hst.1 hd n
      rw [hn] at hfalse
      exact Bool.noConfusion (hfalse.symm.trans ht)
    have hbefore := huntrusted s hs.2 rfl
    have hafter : d.state = .running := huntrusted _ (h hs).2 rfl
    have hw : wasCounting { s with sequencer := q, device := d, outputs := o } p = wasCounting s p := by
      show (_ && _ && d.state == .running) = (_ && _ && s.device.state == .running)
      rw [hbefore, hafter]; rfl
    rw [hw]
    exact hm n p ht hp
  quiet := fun _ _ hq => hq
  topology := by
    by_cases hx : ∃ p, X .table p
    · exact .inl hx
    · exact .inr ⟨rfl, fun p hp => hx ⟨p, hp⟩⟩ }

/-- New device-wide parameters: with another fault threshold every point is still to be evaluated. -/
theorem Holds.onParams {X Y : Flaws} {s : State} {d : DeviceParams} (hd : s.params.Ok → d.Ok)
    (mono : ∀ k q, X k q → Y k q) (hf : d.fault = s.params.fault ∨ ∀ q, Y .level q) :
    Holds X s Y { s with params := d } := {
    params := hd
    levels := fun _ hl q hq => by
      rcases hf with hf | hf
      · exact (hl q (hf ▸ hq)).imp id (mono _ q)
      · exact .inr (hf q)
    eligible := fun ⟨h1, h2, h3⟩ => ⟨fun x hx => (h1 x hx).imp id (mono _ _), fun pr hpr => (h2 pr hpr).imp id (mono _ _),
      fun q => (h3 q).imp id (Or.imp (mono _ q) id)⟩
    view := fun hv q => ⟨(hv q).1.imp (mono _ q) (And.imp id fun k hk => (k hk).imp id (mono _ q)),
      (hv q).2.imp (mono _ q) id⟩
    sections := id
    members := fun _ hm n q ht hq => (hm n q ht hq).imp (mono _ q) (And.imp id (Or.imp id (mono _ q)))
    quiet := fun _ _ hq => hq
    topology := by
      by_cases hy : ∃ q, Y .table q
      · exact .inl hy
      · exact .inr ⟨rfl, fun q hq => hy ⟨q, mono _ q hq⟩⟩ }

/-- A new Topology Table, while the device trusts no count. -/
theorem Holds.onTopology {X : Flaws} {s : State} (table : Table 16 TopologyEntry) (q : PointId)
    (hd : s.device.state ≠ .running) : Holds X s (X.with .table q) { s with topology := table } where
  params := id
  levels _ hl p hp := (hl p hp).imp id .inl
  eligible := fun ⟨h1, h2, h3⟩ => ⟨fun x hx => (h1 x hx).imp id .inl, fun pr hpr => (h2 pr hpr).imp id .inl,
    fun p => (h3 p).imp id (Or.imp .inl id)⟩
  view hv p := ⟨(hv p).1.imp .inl (And.imp id fun k hk => (k hk).imp id .inl), (hv p).2.imp .inl id⟩
  sections := id
  members hs _ n p ht _ := by
    have := hs.2.1 hd n
    rw [show State.sec { s with topology := table } n = s.sec n from rfl, this] at ht
    cases ht
  quiet hs _ _ n := by
    have hn : (State.sec { s with topology := table } n).state.trusted = false := hs.2.1 hd n
    refine ⟨fun h => ?_, fun h => ?_⟩
    · rcases h with h | h <;> rw [h] at hn <;> cases hn
    · rw [h] at hn; cases hn
  topology := .inl ⟨q, .inr ⟨rfl, rfl⟩⟩

end Sys2Proof.Machine
end

section
/-! What each operation of the part keeps open and closes (chapters 1 to 8): the notices close what a move of the machine
and a change of a proof status open, the ends of the epochs close the loss of eligibility, and the evaluation of a point
closes a change of its level. -/

namespace Sys2Proof.Machine

/-! ## Work on one point -/

/-- The work changes the record of point `p`, the view, the section records and the clear outputs alone. -/
def Around (p : PointId) (s t : State) : Prop :=
  t = { s with points := s.points.set p (t.point p), view := t.view, sections := t.sections
               outputs := { s.outputs with clr := t.outputs.clr } }

theorem Around.refl (p : PointId) (s : State) : Around p s s := by
  unfold Around
  rw [show s.points.set p (s.point p) = s.points from Table.set_get_self _ _]

section
variable {p : PointId} {s t u : State}

theorem Around.trans (h : Around p s t) (h' : Around p t u) : Around p s u := by
  unfold Around at *
  rw [h', h]
  simp [State.point]

theorem Noticed.around (h : Noticed s t) : Around p s t := by
  unfold Around
  rw [h.point, show s.points.set p (s.point p) = s.points from Table.set_get_self _ _]
  exact h

variable (h : Around p s t)
include h
theorem Around.now : t.now = s.now := by rw [h]
theorem Around.topology : t.topology = s.topology := by rw [h]
theorem Around.groups : t.groups = s.groups := by rw [h]
theorem Around.sequencer : t.sequencer = s.sequencer := by rw [h]
theorem Around.device : t.device = s.device := by rw [h]
theorem Around.params : t.params = s.params := by rw [h]
theorem Around.channel : t.channel = s.channel := by rw [h]
theorem Around.queue : t.queue = s.queue := by rw [h]
theorem Around.point_ne {q : PointId} (hq : q ≠ p) : t.point q = s.point q := by
  rw [h]; exact Table.get_set_ne _ _ hq
theorem Around.lit (q : PointId) : lit t q = lit s q := by
  unfold Machine.lit State.group; rw [h.groups]
end

theorem Ev.onPoint_around (p : PointId) (f : Point → Point) (w : Ev) : Around p w.s (w.onPoint p f).s := by
  rw [Ev.onPoint_s]
  unfold Around
  rw [State.point_set, if_pos rfl]

theorem Ev.onPoint_point (p : PointId) (f : Point → Point) (w : Ev) : (w.onPoint p f).s.point p = f (w.s.point p) := by
  rw [Ev.onPoint_s, State.point_set, if_pos rfl]

/-- Holds of a change of one point's record made as a part of an event. -/
theorem Ev.onPoint_setPoint (p : PointId) (f : Point → Point) (w : Ev) :
    (w.onPoint p f).s = w.s.setPoint p (f (w.s.point p)) := Ev.onPoint_s p f w

/-! ## Notices -/

/-- A section evaluated with the indications of the view as they stand may be in the state it is left in. -/
theorem calm_settle {s : State} {n : SectionId} {r : SectionRecord} (now : Time)
    (hclear : r.state = .clear → anyOverdue s n = false) :
    Calm s n (r.settle now (anyActive s n) (anyOverdue s n)).state := by
  have hevaluated : ∀ b : Bool, (decide (0 < r.count) || b) = false → b = false := fun b h => (Bool.or_eq_false_iff.mp h).2
  have hentered : anyActive s n = false → Calm s n (r.enterClearing now (anyOverdue s n)).state := by
    intro ha
    unfold SectionRecord.enterClearing SectionRecord.expiryCheck Calm
    split
    · split <;> simp_all
    · simp [ha]
  have hother : ∀ st : SectionState, st ≠ .clearing → st ≠ .clear → Calm s n st := fun st h1 h2 =>
    ⟨fun h => (h.elim h1 h2).elim, fun h => (h2 h).elim⟩
  unfold SectionRecord.settle
  split
  · rename_i hst
    unfold SectionRecord.sweepEvaluate
    split
    · exact hother _ (by simp [hst]) (by simp [hst])
    · split
      · rename_i hs; simp only [Bool.and_eq_true, Bool.not_eq_true'] at hs; exact hentered hs.2
      · exact hother _ (by simp [hst]) (by simp [hst])
  · rename_i hst
    simp only [SectionRecord.evaluate, hst]
    split
    · exact hother _ (by simp [hst]) (by simp [hst])
    · rename_i ho; exact hentered (hevaluated _ (by simpa using ho))
  · rename_i hst
    simp only [SectionRecord.evaluate, hst]
    split
    · exact hother _ (by simp) (by simp)
    · rename_i ho
      rw [hst]
      exact ⟨fun _ => hevaluated _ (by simpa using ho), by simp⟩
  · rename_i hst
    simp only [SectionRecord.evaluate, hst]
    split
    · exact hother _ (by simp) (by simp)
    · rename_i ho
      rw [hst]
      exact ⟨fun _ => hevaluated _ (by simpa using ho), fun _ => hclear hst⟩
  · rename_i hst; exact hother _ (by simp [hst]) (by simp [hst])
  · rename_i hst; exact hother _ (by simp [hst]) (by simp [hst])

theorem settle_trusted (now : Time) (a o : Bool) {r : SectionRecord} (h : (r.settle now a o).state.trusted = true) :
    r.state.trusted = true := by
  by_contra ht
  rw [Bool.not_eq_true] at ht
  rw [SectionRecord.settle_of_untrusted _ a o (SectionState.trusted_eq_false_iff.mp ht)] at h
  exact Bool.noConfusion (ht.symm.trans h)

theorem disturb_calm {s : State} {n : SectionId} {r : SectionRecord} (c : Cause) (h : Calm s n r.state) :
    Calm s n (r.disturb c).state := by
  unfold SectionRecord.disturb
  split
  · exact ⟨by simp, by simp⟩
  · exact h

theorem disturb_trusted {c : Cause} {r : SectionRecord} (h : (r.disturb c).state.trusted = true) :
    r.state.trusted = true := by
  rw [SectionRecord.disturb_untrusted] at h; cases h

theorem exitSide_state (r : SectionRecord) : r.exitSide.state = r.state ∨ r.exitSide.state = .disturbed := by
  unfold SectionRecord.exitSide SectionRecord.disturb
  split
  · split
    · right; rfl
    · left; rfl
  · left; rfl

theorem entrySide_state (r : SectionRecord) : r.entrySide.state = r.state ∨ r.entrySide.state = .disturbed := by
  unfold SectionRecord.entrySide SectionRecord.disturb
  split
  · split
    · right; rfl
    · left; rfl
  · left; rfl

theorem Ev.settleAt_steady (n : SectionId) (w : Ev) : Steady w.s (w.onSection n (settleAt w.s n)).s :=
  .onSection (.settle _ _) (fun _ => settle_trusted _ _ _) fun _ hc => calm_settle _ hc.2

theorem Ev.disturb_steady (n : SectionId) (c : Cause) (w : Ev) : Steady w.s (w.onSection n (SectionRecord.disturb c)).s :=
  .onSection (.disturb c) (fun _ => disturb_trusted) fun _ => disturb_calm c

theorem Ev.disturbAll_steady (p : PointId) (c : Cause) (w : Ev) : Steady w.s (w.disturbAll p c).s :=
  Steady.foldl _ (fun v n => Ev.disturb_steady n c v) _ w

/-- After the disturbance of its sections no section of the point has a trusted count. -/
theorem Ev.disturbAll_untrusted (p : PointId) (c : Cause) (w : Ev) (n : SectionId)
    (h : p ∈ members (w.disturbAll p c).s n) : ((w.disturbAll p c).s.sec n).state.trusted = false := by
  rw [Ev.disturbAll_s] at h ⊢
  obtain ⟨hnoticed, -, hsec⟩ := w.s.sendDisturbance_reaches p c
  rw [((hsec n).1 (mem_bounds.mpr (by rwa [hnoticed.members] at h))).1, SectionRecord.stamped_state]
  exact SectionRecord.disturb_untrusted _ _

theorem Ev.disturbAll_closes {X : Flaws} {k : Flaw} {p : PointId} (hk : k = .counted ∨ k = .dark) (c : Cause) (w : Ev) :
    Holds (X.with k p) w.s X (w.disturbAll p c).s :=
  (Ev.disturbAll_steady p c w _).close_members hk (Ev.disturbAll_untrusted p c w)

section
variable {X : Flaws} {p : PointId}

theorem Ev.pointActive_holds (hX : X .active p) (w : Ev) : Holds X w.s X (w.pointActive p).s := by
  rw [Ev.pointActive_s]
  have h := w.s.sendActive_reaches p
  refine h.holds (w.pointActive_s p ▸ Ev.pointActive_changes p w) (.inl hX) (.inr rfl) (fun n => settle_trusted _ _ _)
    fun n hc => ?_
  have ho : anyOverdue (w.s.sendActive p) n = anyOverdue w.s n := by
    rw [anyOverdue_congr (s := w.s.setView p _) h.2.1 h.1.topology n, anyOverdue_setView_active]
  rw [← ho]
  exact calm_settle _ fun hs => by rw [ho]; exact hc.2 hs

theorem Ev.pointActive_closes (w : Ev) (hm : (w.s.point p).machine ≠ .idle) :
    Holds (X.with .active p) w.s X (w.pointActive p).s := by
  refine (Ev.pointActive_holds (.inr ⟨rfl, rfl⟩) w).close_active ?_
  rw [Ev.pointActive_s]
  obtain ⟨hnoticed, hview, -⟩ := w.s.sendActive_reaches p
  rw [hview, hnoticed.point, Table.get_set_self]
  exact ⟨fun _ => hm, fun _ => rfl⟩

/-- The active indication of the point goes off. -/
theorem Ev.quietView_holds (hX : X .active p) (w : Ev) :
    Holds X w.s X (w.onView p (fun v => { v with active := false })).s :=
  .viewOff (s := w.s) (.inl ⟨rfl, hX⟩) (.inr rfl)

theorem Ev.pointQuiet_holds (hX : X .active p) (w : Ev) : Holds X w.s X (w.pointQuiet p).s :=
  (Ev.quietView_holds hX w).trans (Steady.foldl _ (fun v n => Ev.settleAt_steady n v) _ _ X)

theorem Ev.pointQuiet_view (w : Ev) : (w.pointQuiet p).s.view.get p = { w.s.view.get p with active := false } := by
  rw [Ev.pointQuiet_s, (w.s.sendQuiet_reaches p).2.1, Table.get_set_self]

theorem Ev.pointQuiet_closes (w : Ev) (hm : (w.s.point p).machine = .idle) :
    Holds (X.with .active p) w.s X (w.pointQuiet p).s := by
  refine (Ev.pointQuiet_holds (.inr ⟨rfl, rfl⟩) w).close_active ?_
  rw [Ev.pointQuiet_view, Ev.pointQuiet_s, (w.s.sendQuiet_reaches p).1.point, hm]
  simp

theorem Ev.takeSide_steady (side : SectionRecord → SectionRecord) (n : Option SectionId) (w : Ev)
    (hstep : ∀ n a o, SectionStep w.s (w.s.sec n) ((side (w.s.sec n)).settle w.s.now a o))
    (hside : ∀ r, (side r).state = r.state ∨ (side r).state = .disturbed) : Steady w.s (w.takeSide side n).s := by
  cases n with
  | none => exact .refl _
  | some n =>
    refine Steady.onSection (hstep n _ _) (fun _ ht => ?_) fun _ hc => calm_settle _ fun hs => ?_
    · have := settle_trusted _ _ _ ht
      rcases hside (w.s.sec n) with e | e
      · rwa [e] at this
      · rw [e] at this; cases this
    · rcases hside (w.s.sec n) with e | e
      · exact hc.2 (e ▸ hs)
      · rw [e] at hs; cases hs

/-- A counted passage handed over stands as the quiet notice of its point. -/
theorem Ev.handOver_closes (e : CountEvent) (w : Ev) (hm : (w.s.point e.point).machine = .idle)
    (hd : w.s.device.state = .running) : Holds (X.with .active e.point) w.s X (w.handOver e).s := by
  have hexit : ∀ v : Ev, v.s.device.state = .running → Steady v.s (v.takeSide SectionRecord.exitSide e.left).s :=
    fun v h => Ev.takeSide_steady _ _ v (fun n a o => .exit a o h) exitSide_state
  have hentry : ∀ v : Ev, v.s.device.state = .running → Steady v.s (v.takeSide SectionRecord.entrySide e.entered).s :=
    fun v h => Ev.takeSide_steady _ _ v (fun n a o => .entry a o h) entrySide_state
  have hquiet := Ev.quietView_holds (X := X.with .active e.point) (.inr ⟨rfl, rfl⟩) w
  refine ((hquiet.trans (hexit (w.onView e.point _) hd _)).trans (hentry _ (by simpa using hd) _)).close_active ?_
  have hnoticed := Ev.handOver_noticed e w
  have hview : (w.handOver e).s.view = (w.onView e.point (fun v => { v with active := false })).s.view :=
    Ev.handOver_view e w
  show ((w.handOver e).s.view.get e.point).active = true ↔ ((w.handOver e).s.point e.point).machine ≠ .idle
  rw [hview, hnoticed.point, hm]
  simp

theorem Ev.overdue_holds (hX : X .overdue p) (w : Ev) : Holds X w.s X (w.proofOverdue p).s := by
  rw [Ev.proofOverdue_s]
  have h := w.s.sendOverdue_reaches p
  refine h.holds (w.proofOverdue_s p ▸ Ev.proofOverdue_changes p w) (.inr rfl) (.inl hX) (fun n ht => ?_) fun n hc => ?_
  · by_cases hs : (w.s.sec n).state = .clear
    · rw [hs]; rfl
    · rwa [SectionRecord.takeOverdue_of_ne_clear hs] at ht
  · have hact : anyActive (w.s.sendOverdue p) n = anyActive w.s n := by
      rw [anyActive_congr (s := w.s.setView p _) h.2.1 h.1.topology n, anyActive_setView_overdue]
    by_cases hs : (w.s.sec n).state = .clear
    · have hst : (w.s.sec n).takeOverdue.state = .clearing := by simp [SectionRecord.takeOverdue, hs]
      rw [hst]
      exact ⟨fun _ => by rw [hact]; exact hc.1 (.inr hs), by simp⟩
    · rw [SectionRecord.takeOverdue_of_ne_clear hs]
      exact ⟨fun h => by rw [hact]; exact hc.1 h, fun h => (hs h).elim⟩

theorem Ev.takeCurrent_steady (n : SectionId) (w : Ev) :
    Steady w.s (w.onSection n (SectionRecord.takeCurrent (anyOverdue w.s n))).s := by
  have hcases : ∀ r : SectionRecord, r.takeCurrent (anyOverdue w.s n) = r ∨
      (r.state = .clearing ∧ anyOverdue w.s n = false ∧ (r.takeCurrent (anyOverdue w.s n)).state = .clear) := by
    intro r
    unfold SectionRecord.takeCurrent
    split
    · rename_i hs
      split
      · rename_i ho
        simp only [Bool.and_eq_true, Bool.not_eq_true'] at ho
        exact .inr ⟨hs, ho.2, rfl⟩
      · exact .inl rfl
    all_goals exact .inl rfl
  refine .onSection (.current _) (fun _ ht => ?_) fun _ hc => ?_
  · rcases hcases (w.s.sec n) with e | ⟨hs, -, -⟩
    · rwa [e] at ht
    · rw [hs]; rfl
  · rcases hcases (w.s.sec n) with e | ⟨hs, ho, e⟩
    · rwa [e]
    · rw [e]; exact ⟨fun _ => hc.1 (.inl hs), fun _ => ho⟩

theorem Ev.current_holds (hX : X .overdue p) (w : Ev) : Holds X w.s X (w.proofCurrent p).s :=
  (Holds.viewOff (s := w.s) (p := p) (v := { w.s.view.get p with overdue := false }) (.inr rfl) (.inl ⟨rfl, hX⟩)).trans
    (Steady.foldl _ (fun v n => Ev.takeCurrent_steady n v) _ (w.onView p (fun v => { v with overdue := false })) X)

end


/-! ## Moves of the machine -/

theorem DirectionMachine.ne_idle_of_crossing {m : DirectionMachine} (h : m.crossing = true) : m ≠ .idle := by
  rintro rfl; cases h

section
variable {p : PointId} {f : Point → Point} {w : Ev}

theorem Ev.onPoint_alike (h : Alike (w.s.point p) (f (w.s.point p))) : Steady w.s (w.onPoint p f).s := by
  rw [Ev.onPoint_setPoint]; exact h.steady

/-- A move of the machine opens its notice. -/
theorem Ev.onPoint_moved (X : Flaws) (step : PointStep (w.s.point p) (f (w.s.point p)))
    (h : (w.s.point p).SameStanding (f (w.s.point p))) (hlevel : (f (w.s.point p)).level = (w.s.point p).level) :
    Holds X w.s (X.with .active p) (w.onPoint p f).s := by
  rw [Ev.onPoint_setPoint]
  exact .moved step h (X.le_with _ _) (.inr hlevel.le) (.inl (.inr ⟨rfl, rfl⟩))

/-- The move of a machine out of IDLE, and its notice. -/
theorem Ev.onPoint_pointActive (step : PointStep (w.s.point p) (f (w.s.point p)))
    (h : (w.s.point p).SameStanding (f (w.s.point p))) (hlevel : (f (w.s.point p)).level = (w.s.point p).level)
    (hm : (f (w.s.point p)).machine ≠ .idle) : Steady w.s ((w.onPoint p f).pointActive p).s := fun X =>
  (Ev.onPoint_moved X step h hlevel).trans (Ev.pointActive_closes _ (by rw [Ev.onPoint_point]; exact hm))

/-- The move of a machine into IDLE, and its notice. -/
theorem Ev.onPoint_pointQuiet (step : PointStep (w.s.point p) (f (w.s.point p)))
    (h : (w.s.point p).SameStanding (f (w.s.point p))) (hlevel : (f (w.s.point p)).level = (w.s.point p).level)
    (hm : (f (w.s.point p)).machine = .idle) : Steady w.s ((w.onPoint p f).pointQuiet p).s := fun X =>
  (Ev.onPoint_moved X step h hlevel).trans (Ev.pointQuiet_closes _ (by rw [Ev.onPoint_point]; exact hm))

end

theorem Ev.enterConfused_steady (p : PointId) (c : ConfusionCause) (t : Time) (q : Option Timer) (w : Ev) :
    Steady w.s (w.enterConfused p c t q).s := by
  unfold Ev.enterConfused
  dsimp only
  split
  · exact Ev.onPoint_pointActive (.confuse ⟨c, t⟩ q) ⟨rfl, rfl, rfl, rfl⟩ rfl (by simp)
  · rename_i hm
    exact Ev.onPoint_alike (Point.SameStanding.alike ⟨rfl, rfl, rfl, rfl⟩ rfl (by simpa using hm))

theorem Ev.openPassage_steady (p : PointId) (m : DirectionMachine) (r : Passage) (w : Ev) (hm : m.crossing = true) :
    Steady w.s (w.openPassage p m r).s :=
  Ev.onPoint_pointActive (.opened m r hm) ⟨rfl, rfl, rfl, rfl⟩ rfl (DirectionMachine.ne_idle_of_crossing hm)

theorem Ev.retreat_steady (p : PointId) (d : Direction) (t : Time) (w : Ev)
    (h : (w.s.point p).machine.crossing = true) : Steady w.s (w.retreat p d t).s := by
  unfold Ev.retreat
  dsimp only
  have hq := Ev.onPoint_pointQuiet (p := p) (f := fun pt =>
    { pt with machine := .idle, passage := none, retreatTally := raise pt.retreatTally }) (.retreat h)
    ⟨rfl, rfl, rfl, rfl⟩ rfl rfl
  rw [Ev.pointQuiet_s] at hq ⊢
  exact hq

theorem Ev.deliverChange_steady (p : PointId) (chg : Lines) (a b : Bool) (t : Time) (w : Ev) :
    Steady w.s (w.deliverChange p chg a b t).s := by
  have between : ∀ {m m' : DirectionMachine}, m.crossing = true → m'.crossing = true → (m' = .idle ↔ m = .idle) :=
    fun h h' => iff_of_false (DirectionMachine.ne_idle_of_crossing h') (DirectionMachine.ne_idle_of_crossing h)
  unfold Ev.deliverChange
  split
  · exact Ev.onPoint_alike (Point.SameStanding.alike ⟨rfl, rfl, rfl, rfl⟩ rfl .rfl)
  · split
    · exact .refl _
    · rename_i h
      exact Ev.openPassage_steady _ _ _ _ (transition_ends h).2
    · rename_i h
      obtain ⟨h1, h2⟩ := transition_ends h
      exact Ev.onPoint_alike (Point.SameStanding.alike ⟨rfl, rfl, rfl, rfl⟩ rfl (between h1 h2))
    · rename_i h
      obtain ⟨h1, h2⟩ := transition_ends h
      exact Ev.onPoint_alike (Point.SameStanding.alike ⟨rfl, rfl, rfl, rfl⟩ rfl (between h1 h2))
    · rename_i h
      exact Ev.retreat_steady _ _ _ _ (transition_ends h).1
    · exact Ev.enterConfused_steady _ _ _ _ _
    · exact .refl _

theorem Ev.resetMachine_steady (p : PointId) (w : Ev) : Steady w.s (w.resetMachine p).s := by
  unfold Ev.resetMachine
  dsimp only
  split
  · rename_i hm
    exact Ev.onPoint_alike (Point.SameStanding.alike ⟨rfl, rfl, rfl, rfl⟩ rfl
      (iff_of_true rfl (by simpa using hm)))
  · exact Ev.onPoint_pointQuiet .stopped ⟨rfl, rfl, rfl, rfl⟩ rfl rfl

theorem Ev.initialise_steady (p : PointId) (w : Ev) : Steady w.s (w.initialise p).s := by
  unfold Ev.initialise
  split
  · exact Ev.enterConfused_steady _ _ _ _ _
  · exact .refl _

/-! ## What the moves of the machine and the notices leave -/

theorem Ev.pointActive_around (p : PointId) (w : Ev) : Around p w.s (w.pointActive p).s :=
  Noticed.around (by rw [Ev.pointActive_s]; exact (w.s.sendActive_reaches p).1)

theorem Ev.pointQuiet_around (p : PointId) (w : Ev) : Around p w.s (w.pointQuiet p).s :=
  Noticed.around (by rw [Ev.pointQuiet_s]; exact (w.s.sendQuiet_reaches p).1)

theorem Ev.disturbAll_around (p : PointId) (c : Cause) (w : Ev) : Around p w.s (w.disturbAll p c).s :=
  Noticed.around (by rw [Ev.disturbAll_s]; exact (w.s.sendDisturbance_reaches p c).1)

theorem Ev.proofOverdue_around (p : PointId) (w : Ev) : Around p w.s (w.proofOverdue p).s :=
  Noticed.around (by rw [Ev.proofOverdue_s]; exact (w.s.sendOverdue_reaches p).1)

theorem Ev.proofCurrent_around (p : PointId) (w : Ev) : Around p w.s (w.proofCurrent p).s :=
  Noticed.around (by rw [Ev.proofCurrent_s]; exact (w.s.sendCurrent_reaches p).1)

theorem Ev.enterConfused_around (p : PointId) (c : ConfusionCause) (t : Time) (q : Option Timer) (w : Ev) :
    Around p w.s (w.enterConfused p c t q).s := by
  unfold Ev.enterConfused
  dsimp only
  split
  · exact (Ev.onPoint_around p _ w).trans (Ev.pointActive_around p _)
  · exact Ev.onPoint_around p _ w

theorem Ev.openPassage_around (p : PointId) (m : DirectionMachine) (r : Passage) (w : Ev) :
    Around p w.s (w.openPassage p m r).s := (Ev.onPoint_around p _ w).trans (Ev.pointActive_around p _)

theorem Ev.retreat_around (p : PointId) (d : Direction) (t : Time) (w : Ev) : Around p w.s (w.retreat p d t).s := by
  unfold Ev.retreat
  dsimp only
  refine Around.trans ?_ (Ev.pointQuiet_around p _)
  exact Ev.onPoint_around p _ w

theorem Ev.deliverChange_around (p : PointId) (chg : Lines) (a b : Bool) (t : Time) (w : Ev) :
    Around p w.s (w.deliverChange p chg a b t).s := by
  unfold Ev.deliverChange
  split
  · exact Ev.onPoint_around p _ w
  · split
    · exact .refl p _
    · exact Ev.openPassage_around _ _ _ _
    · exact Ev.onPoint_around p _ w
    · exact Ev.onPoint_around p _ w
    · exact Ev.retreat_around _ _ _ _
    · exact Ev.enterConfused_around _ _ _ _ _
    · exact .refl p _

theorem Ev.deliverEnd_around (x : SystemId) (t : Time) (w : Ev) : Around x.point w.s (w.deliverEnd x t).s := by
  unfold Ev.deliverEnd
  split
  · exact Ev.deliverChange_around _ _ _ _ _ _
  · exact .refl _ _

theorem Ev.resetMachine_around (p : PointId) (w : Ev) : Around p w.s (w.resetMachine p).s := by
  unfold Ev.resetMachine
  dsimp only
  split
  · exact Ev.onPoint_around p _ w
  · exact (Ev.onPoint_around p _ w).trans (Ev.pointQuiet_around p _)

theorem Ev.initialise_around (p : PointId) (w : Ev) : Around p w.s (w.initialise p).s := by
  unfold Ev.initialise
  split
  · exact Ev.enterConfused_around _ _ _ _ _
  · exact .refl _ _

theorem Ev.pointActive_point (p q : PointId) (w : Ev) : (w.pointActive p).s.point q = w.s.point q := by
  rw [Ev.pointActive_s]; exact (w.s.sendActive_reaches p).1.point q
theorem Ev.pointQuiet_point (p q : PointId) (w : Ev) : (w.pointQuiet p).s.point q = w.s.point q := by
  rw [Ev.pointQuiet_s]; exact (w.s.sendQuiet_reaches p).1.point q
theorem Ev.disturbAll_point (p q : PointId) (c : Cause) (w : Ev) : (w.disturbAll p c).s.point q = w.s.point q := by
  rw [Ev.disturbAll_s]; exact (w.s.sendDisturbance_reaches p c).1.point q
theorem Ev.proofOverdue_point (p q : PointId) (w : Ev) : (w.proofOverdue p).s.point q = w.s.point q := by
  rw [Ev.proofOverdue_s]; exact (w.s.sendOverdue_reaches p).1.point q
theorem Ev.proofCurrent_point (p q : PointId) (w : Ev) : (w.proofCurrent p).s.point q = w.s.point q := by
  rw [Ev.proofCurrent_s]; exact (w.s.sendCurrent_reaches p).1.point q

theorem Ev.enterConfused_point (p : PointId) (c : ConfusionCause) (t : Time) (q : Option Timer) (w : Ev) :
    (w.enterConfused p c t q).s.point p =
      { w.s.point p with machine := .confused, confusion := some ⟨c, t⟩, passage := none, quietTimer := q } := by
  unfold Ev.enterConfused
  dsimp only
  split
  · rw [Ev.pointActive_point, Ev.onPoint_point]
  · rw [Ev.onPoint_point]

theorem Ev.resetMachine_point (p : PointId) (w : Ev) :
    (w.resetMachine p).s.point p =
      { w.s.point p with machine := .idle, passage := none, confusion := none, quietTimer := none } := by
  unfold Ev.resetMachine
  dsimp only
  split
  · rw [Ev.onPoint_point]
  · rw [Ev.pointQuiet_point, Ev.onPoint_point]

theorem Ev.initialise_standing (p : PointId) (w : Ev) : (w.s.point p).SameStanding ((w.initialise p).s.point p) := by
  unfold Ev.initialise
  split
  · rw [Ev.enterConfused_point]; exact ⟨rfl, rfl, rfl, rfl⟩
  · exact ⟨rfl, rfl, rfl, rfl⟩

theorem Around.eligible {p : PointId} {s t : State} (h : Around p s t) (hs : (s.point p).SameStanding (t.point p)) :
    eligible t p = eligible s p := by
  unfold Machine.eligible inUse
  rw [hs.mode, hs.health, h.lit]

theorem Ev.initialise_eligible (p : PointId) (w : Ev) : eligible (w.initialise p).s p = eligible w.s p :=
  (Ev.initialise_around p w).eligible (Ev.initialise_standing p w)

/-! ## Proof statuses and the queue -/

/-- The records of a point's proofs are what the function makes of them, and its notices touch no point. -/
theorem Ev.onProofStatus_point (p : PointId) (f : Point → Point) (w : Ev) :
    (w.onProofStatus p f).s.point p = f (w.s.point p) := by
  unfold Ev.onProofStatus
  dsimp only
  split
  · rw [Ev.proofOverdue_point, Ev.onPoint_point]
  · split
    · rw [Ev.proofCurrent_point, Ev.onPoint_point]
    · rw [Ev.onPoint_point]

theorem Ev.onProofStatus_around (p : PointId) (f : Point → Point) (w : Ev) : Around p w.s (w.onProofStatus p f).s := by
  unfold Ev.onProofStatus
  dsimp only
  split
  · exact (Ev.onPoint_around p f w).trans (Ev.proofOverdue_around p _)
  · split
    · exact (Ev.onPoint_around p f w).trans (Ev.proofCurrent_around p _)
    · exact Ev.onPoint_around p f w

/-- A change of a point's proof statuses, and the notice of its indication. -/
theorem Ev.onProofStatus_holds {X : Flaws} {p : PointId} {f : Point → Point} {w : Ev}
    (step : PointStep (w.s.point p) (f (w.s.point p))) (hmode : (f (w.s.point p)).mode = (w.s.point p).mode)
    (hfault : (f (w.s.point p)).health = (w.s.point p).health)
    (hlevel : (f (w.s.point p)).level = (w.s.point p).level)
    (hmachine : (f (w.s.point p)).machine = (w.s.point p).machine)
    (hproof : Machine.eligible w.s p = true ∨ X .elig p ∨
      ((∀ x, ((w.s.point p).proof x).Resting) → ∀ x, ((f (w.s.point p)).proof x).Resting)) :
    Holds X w.s X (w.onProofStatus p f).s := by
  have hopen : Holds X w.s (X.with .overdue p) (w.onPoint p f).s := by
    rw [Ev.onPoint_setPoint]
    exact (Holds.add X _ _ _).trans (.restatused step hmode hfault hlevel hmachine
      (hproof.imp id (Or.imp .inl id)) (.inl (.inr ⟨rfl, rfl⟩)))
  unfold Ev.onProofStatus
  dsimp only
  rw [Ev.onPoint_point]
  cases hb : (w.s.point p).overdueIndication <;> cases ha : (f (w.s.point p)).overdueIndication
  case false.true =>
    refine (hopen.trans (Ev.overdue_holds (.inr ⟨rfl, rfl⟩) _)).close_overdue ?_
    rw [Ev.proofOverdue_point, Ev.onPoint_point, ha, Ev.proofOverdue_s,
      (State.sendOverdue_reaches p _).2.1, Table.get_set_self]
  case true.false =>
    refine (hopen.trans (Ev.current_holds (.inr ⟨rfl, rfl⟩) _)).close_overdue ?_
    rw [Ev.proofCurrent_point, Ev.onPoint_point, ha, Ev.proofCurrent_s,
      (State.sendCurrent_reaches p _).2.1, Table.get_set_self]
  all_goals
    rw [if_neg (by simp), if_neg (by simp), Ev.onPoint_setPoint]
    exact .restatused step hmode hfault hlevel hmachine hproof (.inr (by rw [ha, hb]))

theorem Point.onProof_proof (x y : Sys) (f : ProofStatus → ProofStatus) (pt : Point) :
    (pt.onProof x f).proof y = if y = x then f (pt.proof y) else pt.proof y := by cases x <;> cases y <;> rfl

theorem Point.onProof_fields (x : Sys) (f : ProofStatus → ProofStatus) (pt : Point) :
    (pt.onProof x f).mode = pt.mode ∧ (pt.onProof x f).health = pt.health ∧ (pt.onProof x f).level = pt.level ∧
      (pt.onProof x f).machine = pt.machine := by cases x <;> exact ⟨rfl, rfl, rfl, rfl⟩

/-- A change of one system's proof status. -/
theorem Ev.onProof_holds {X : Flaws} {p : PointId} {x : Sys} {f : ProofStatus → ProofStatus} {w : Ev}
    (step : ProofStep ((w.s.point p).proof x) (f ((w.s.point p).proof x)))
    (hproof : Machine.eligible w.s p = true ∨ X .elig p ∨
      (((w.s.point p).proof x).Resting → (f ((w.s.point p).proof x)).Resting)) :
    Holds X w.s X (w.onProofStatus p (Point.onProof x f)).s := by
  obtain ⟨h1, h2, h3, h4⟩ := Point.onProof_fields x f (w.s.point p)
  refine Ev.onProofStatus_holds (.proof x f step) h1 h2 h3 h4 (hproof.imp id (Or.imp id fun h hr y => ?_))
  rw [Point.onProof_proof]
  split
  · rename_i e; rw [e]; exact h (hr x)
  · exact hr y

theorem Ev.onProofStatus_eligible (p : PointId) (x : Sys) (f : ProofStatus → ProofStatus) (w : Ev) :
    eligible (w.onProofStatus p (Point.onProof x f)).s p = eligible w.s p := by
  obtain ⟨h1, h2, -⟩ := Point.onProof_fields x f (w.s.point p)
  unfold Machine.eligible inUse
  rw [Ev.onProofStatus_point, h1, h2, (Ev.onProofStatus_around p _ w).lit]

/-- A system of an eligible point joins the queue. -/
theorem Ev.join_holds {X : Flaws} (x : SystemId) (w : Ev) (h : eligible w.s x.point = true ∨ X .elig x.point) :
    Holds X w.s X (w.join x).s := by
  refine Holds.onProofs (s := w.s) w.s.channel (joinTail x w.s) (fun y hy => ?_) fun pr hpr => .inr ⟨pr, hpr, rfl⟩
  rcases joinTail_cases x w.s with e | ⟨-, -, e⟩
  · exact .inl (e ▸ hy)
  · rw [e] at hy
    rcases List.mem_append.mp hy with hy | hy
    · exact .inl hy
    · rw [List.mem_singleton.mp hy]; exact .inr h

theorem Ev.startEpoch_holds {X : Flaws} (p : PointId) (x : Sys) (w : Ev) (h : eligible w.s p = true) :
    Holds X w.s X (w.startEpoch p x).s :=
  (Ev.onProof_holds .epochStart (.inl h)).trans
    (Ev.join_holds _ _ (.inl (by rw [Ev.onProofStatus_eligible]; exact h)))

theorem Ev.startEpoch_eligible (p : PointId) (x : Sys) (w : Ev) : eligible (w.startEpoch p x).s p = eligible w.s p :=
  Ev.onProofStatus_eligible p x _ w

theorem Ev.gainEligibility_steady (p : PointId) (w : Ev) (h : eligible w.s p = true) :
    Steady w.s (w.gainEligibility p).s := fun _ =>
  (Ev.startEpoch_holds p .a w h).trans (Ev.startEpoch_holds p .b _ (by rw [Ev.startEpoch_eligible]; exact h))

theorem Ev.deliverEnd_steady (x : SystemId) (t : Time) (w : Ev) : Steady w.s (w.deliverEnd x t).s := by
  unfold Ev.deliverEnd
  split
  · exact Ev.deliverChange_steady _ _ _ _ _ _
  · exact .refl _

/-- The channel is freed. -/
theorem Ev.free_steady (w : Ev) : Steady w.s (w.onProofs none w.s.queue).s := fun _ =>
  Holds.onProofs (s := w.s) none w.s.queue (fun _ => .inl) (fun _ h => by cases h)

/-- A change of a proof status that the invariants do not read. -/
theorem Ev.onProof_alike (p : PointId) (x : Sys) (f : ProofStatus → ProofStatus) (w : Ev)
    (hrest : ((w.s.point p).proof x).Resting → (f ((w.s.point p).proof x)).Resting)
    (hover : (f ((w.s.point p).proof x)).overdue = ((w.s.point p).proof x).overdue) :
    Steady w.s (w.onPoint p (Point.onProof x f)).s := by
  obtain ⟨h1, h2, h3, h4⟩ := Point.onProof_fields x f (w.s.point p)
  refine Ev.onPoint_alike ⟨by rw [h4], h3, by rw [h2], h1, fun y => ?_, ?_⟩
  · rw [Point.onProof_proof]
    split
    · rename_i e; rw [e]; exact hrest
    · exact id
  · cases x
    · exact congrArg (· || (w.s.point p).proofB.overdue) hover
    · exact congrArg ((w.s.point p).proofA.overdue || ·) hover

theorem Ev.withResult_steady (p : PointId) (x : Sys) (r : ProofResult) (w : Ev) :
    Steady w.s (w.onPoint p (Point.withResult x r)).s :=
  Ev.onProof_alike p x _ w id rfl

theorem Ev.endUnfinished_steady (p : PointId) (b : Bool) (w : Ev) : Steady w.s (w.endUnfinished p b).s := by
  unfold Ev.endUnfinished
  split
  · exact .refl _
  · rename_i pr _
    split
    · have h := (Ev.free_steady w).trans (Ev.withResult_steady p pr.system.sys .unfinished (w.onProofs none w.s.queue))
      dsimp only
      split
      · exact h.trans (Ev.deliverEnd_steady pr.system _ (Ev.traceProof pr .unfinished _ _))
      · exact h
    · exact .refl _

/-- No system of the point is under proof once an unfinished proof there has ended; the queue is not touched. -/
theorem Ev.endUnfinished_proofs (p : PointId) (b : Bool) (w : Ev) :
    (w.endUnfinished p b).s.queue = w.s.queue ∧
      ∀ pr, (w.endUnfinished p b).s.channel = some pr → pr.system.point ≠ p := by
  unfold Ev.endUnfinished
  split
  · rename_i hc; exact ⟨rfl, fun pr hpr => by rw [hc] at hpr; cases hpr⟩
  · rename_i pr hc
    split
    · dsimp only
      have hp := Ev.onPoint_around p (Point.withResult pr.system.sys .unfinished) (w.onProofs none w.s.queue)
      split
      · have h := Ev.deliverEnd_around pr.system (w.onProofs none w.s.queue |>.onPoint p
          (Point.withResult pr.system.sys .unfinished)).s.now (Ev.traceProof pr .unfinished
          (w.onProofs none w.s.queue |>.onPoint p (Point.withResult pr.system.sys .unfinished)).s.now
          (w.onProofs none w.s.queue |>.onPoint p (Point.withResult pr.system.sys .unfinished)))
        exact ⟨h.queue.trans hp.queue, fun pr hpr => absurd ((h.channel.trans hp.channel).symm.trans hpr) (by simp)⟩
      · exact ⟨hp.queue, fun pr hpr => absurd (hp.channel.symm.trans hpr) (by simp)⟩
    · rename_i hne; exact ⟨rfl, fun pr' hpr => by rw [hc] at hpr; cases hpr; exact hne⟩

/-- The ends of the epochs close what the loss of eligibility opened. -/
theorem Ev.loseEligibility_closes {X : Flaws} (p : PointId) (b : Bool) (w : Ev) :
    Holds (X.with .elig p) w.s X (w.loseEligibility p b).s := by
  have hleave : Holds (X.with .elig p) w.s (X.with .elig p) (w.onProofs w.s.channel (withoutPoint p w.s.queue)).s :=
    Holds.onProofs (s := w.s) _ _ (fun x hx => .inl (mem_withoutPoint.mp hx).1) fun pr hpr => .inr ⟨pr, hpr, rfl⟩
  obtain ⟨hqueue, hchannel⟩ := Ev.endUnfinished_proofs p b (w.onProofs w.s.channel (withoutPoint p w.s.queue))
  have hround := Ev.onProofStatus_around p (fun pt => (pt.onProof .a ProofStatus.epochEnd).onProof .b ProofStatus.epochEnd)
    ((w.onProofs w.s.channel (withoutPoint p w.s.queue)).endUnfinished p b)
  refine ((hleave.trans (Ev.endUnfinished_steady p b _ _)).trans
    (Ev.onProofStatus_holds .epochsEnd rfl rfl rfl rfl (.inr (.inl (.inr ⟨rfl, rfl⟩))))).close_elig ?_ ?_ ?_
  · intro x hx
    rw [show _ = _ from hround.queue, hqueue] at hx
    exact (mem_withoutPoint.mp hx).2
  · intro pr hpr
    rw [show _ = _ from hround.channel] at hpr
    exact hchannel pr hpr
  · intro x
    rw [Ev.onProofStatus_point]
    cases x <;> exact ⟨rfl, rfl, rfl, rfl⟩

end Sys2Proof.Machine
end

section
/-! What each operation of the part keeps open and closes, continued: health and FAULT, count events, proofs, supplies and
configuration, and the work of every command (chapters 2, 3, 4, 7, 8 and 9). -/

namespace Sys2Proof.Machine

/-! ## Health (section 2.3) -/

theorem nextHealth_ne_fault {d : DeviceParams} {h : Health} {level : Nat} (hn : nextHealth d h level ≠ .fault) :
    h ≠ .fault ∧ level < d.fault := by
  unfold nextHealth at hn
  cases h
  · refine ⟨by simp, ?_⟩
    by_contra hf
    exact hn (by simp [Nat.not_lt.mp hf])
  · refine ⟨by simp, ?_⟩
    by_contra hf
    exact hn (by simp [Nat.not_lt.mp hf])
  · exact absurd rfl hn

/-- The health state set to FAULT: the eligibility of the point, and the disturbance of its sections, are open. -/
theorem Ev.onPoint_faulted {X : Flaws} (hX : ∀ q, ¬X .dark q) (p : PointId) (c : FaultCause) (t : Time) (w : Ev) :
    Holds (X.with .level p) w.s (if counting w.s p then (X.with .elig p).with .counted p else X.with .elig p)
      (w.onPoint p (fun pt => { pt with health := .fault, faultCause := some c, faultTime := some t })).s := by
  have helig : ∀ Y : Flaws, (if counting w.s p then (X.with .elig p).with .counted p else X.with .elig p) = Y →
      Y .elig p ∧ ∀ k q, X k q → Y k q := by
    rintro Y rfl
    split
    · exact ⟨.inl (.inr ⟨rfl, rfl⟩), fun k q h => .inl (.inl h)⟩
    · exact ⟨.inr ⟨rfl, rfl⟩, fun k q h => .inl h⟩
  obtain ⟨he, mono⟩ := helig _ rfl
  rw [Ev.onPoint_setPoint]
  exact Bears.holds {
    step := .faulted c t
    mono := fun k q hx => hx.imp (mono k q) id
    level := .inr fun _ _ _ => rfl
    elig := .inl he
    rest := .inl he
    machine := .inr (.inl .rfl)
    overdue := .inr rfl
    counting := by
      by_cases hc : counting w.s p = true
      · rw [if_pos hc]; exact .inl (.inr ⟨rfl, rfl⟩)
      · refine .inr fun hw hl => absurd ?_ hc
        have hl : lit w.s p = true := hl.resolve_right fun h => hX p (Flaws.with_ne (by simp) h)
        simp only [wasCounting, Bool.and_eq_true] at hw
        simp only [counting, Bool.and_eq_true]
        exact ⟨⟨hw.1, hl⟩, hw.2⟩ }

theorem Ev.enterFault_closes {X : Flaws} (hX : ∀ q, ¬X .dark q) (p : PointId) (c : FaultCause) (w : Ev) :
    Holds (X.with .level p) w.s X (w.enterFault p c).s := by
  have hinit : ∀ (v : Ev), Steady v.s (if lit v.s p && inUse v.s p then v.initialise p else v).s := fun v => by
    split
    · exact Ev.initialise_steady _ _
    · exact .refl _
  unfold Ev.enterFault
  dsimp only
  refine Holds.trans ?_ (Ev.loseEligibility_closes p true _)
  refine Holds.trans ?_ (hinit _ _)
  refine Holds.trans ?_ (Ev.resetMachine_steady p _ _)
  have hf := Ev.onPoint_faulted hX p c w.s.now w
  by_cases hc : counting w.s p = true
  · rw [if_pos hc] at hf ⊢
    exact hf.trans (Ev.disturbAll_closes (.inl rfl) _ _)
  · rw [if_neg hc] at hf ⊢
    exact hf

theorem Ev.enterFault_keeps (p : PointId) (c : FaultCause) (w : Ev) : Keeps w.s (w.enterFault p c).s := fun X hX =>
  (Holds.add X _ _ _).trans (Ev.enterFault_closes hX p c w)

/-- The evaluation of a point's health closes a change of its level. -/
theorem Ev.evaluateHealth_closes {X : Flaws} (hX : ∀ q, ¬X .dark q) (p : PointId) (w : Ev) :
    Holds (X.with .level p) w.s X (w.evaluateHealth p).s := by
  have hset : ∀ h : Health, h ≠ .fault → (w.s.point p).health ≠ .fault → (w.s.point p).level < w.s.params.fault →
      Holds (X.with .level p) w.s X (w.onPoint p (fun pt => { pt with health := h })).s := by
    intro h hne hne' hl
    refine Holds.close_level (p := p) (Ev.onPoint_alike ?_ _) ?_
    · exact ⟨.rfl, rfl, iff_of_false hne hne', rfl, fun x => by cases x <;> exact id, rfl⟩
    · rw [Ev.onPoint_point, (Ev.onPoint_around p _ w).params]
      exact fun hf => absurd hf (Nat.not_le.mpr hl)
  unfold Ev.evaluateHealth
  dsimp only
  split
  · split
    · rename_i hf
      exact (Steady.refl _ _).close_level fun _ => hf
    · exact Ev.enterFault_closes hX p _ w
  · rename_i hn
    obtain ⟨h1, h2⟩ := nextHealth_ne_fault (by rw [hn]; simp)
    exact hset .ok (by simp) h1 h2
  · rename_i hn
    obtain ⟨h1, h2⟩ := nextHealth_ne_fault (by rw [hn]; simp)
    exact hset .warn (by simp) h1 h2

/-- Tallies raised at an occasion leave the standing of a point and its machine. -/
def Tallying (f : Point → Point) : Prop :=
  ∀ pt, pt.SameStanding (f pt) ∧ (f pt).machine = pt.machine ∧ (f pt).level = pt.level

theorem Ev.addWeight_keeps (p : PointId) (weight : Nat) (f : Point → Point) (w : Ev) (hf : Tallying f)
    (h : PointStep (w.s.point p) { f (w.s.point p) with level := min 255 ((w.s.point p).level + weight) }) :
    Keeps w.s (w.addWeight p weight f).s := fun X hX => by
  refine Holds.trans ?_ (Ev.evaluateHealth_closes hX p _)
  obtain ⟨⟨h1, h2, h3, h4⟩, hm, -⟩ := hf (w.s.point p)
  rw [Ev.onPoint_setPoint]
  exact .moved h ⟨h1, h2, h3, h4⟩ (X.le_with _ _) (.inl (.inr ⟨rfl, rfl⟩)) (.inr (.inl (by rw [hm])))

theorem Ev.leak_keeps (w : Ev) : Keeps w.s w.leak.s := by
  refine Keeps.foldl _ (fun v p X hX => ?_) _ w
  split
  · refine Holds.trans ?_ (Ev.evaluateHealth_closes hX p _)
    rw [Ev.onPoint_setPoint]
    exact .moved .leaked ⟨rfl, rfl, rfl, rfl⟩ (X.le_with _ _) (.inr (Nat.sub_le _ _)) (.inr (.inl .rfl))
  · exact .weaken (fun _ _ h => h) _

/-! ## Count events (section 1.3.2) -/

theorem tallying_raiseTimingTallies (tm : Timing) : Tallying (Point.raiseTimingTallies tm) :=
  fun _ => ⟨⟨rfl, rfl, rfl, rfl⟩, rfl, rfl⟩

theorem raiseTimingTallies_step (tm : Timing) (weight : Nat) (pt : Point) :
    PointStep pt { pt.raiseTimingTallies tm with level := min 255 (pt.level + weight) } := by
  refine .weighed _ _ _ _ _ _ (.inl rfl) ?_ ?_ (.inl rfl) (.inl rfl)
  · cases h : tm.irregular
    · exact .inl (by simp [Point.raiseTimingTallies, h])
    · exact .inr (by simp [Point.raiseTimingTallies, h])
  · cases h : tm.overspeed
    · exact .inl (by simp [Point.raiseTimingTallies, h])
    · exact .inr (by simp [Point.raiseTimingTallies, h])

theorem Ev.countEvent_keeps (p : PointId) (d : Direction) (t : Time) (r : Passage) (w : Ev)
    (h : (w.s.point p).machine.crossing = true) : Keeps w.s (w.countEvent p d t r).s := by
  have hw : ∀ (tm : Timing) (v : Ev), Keeps v.s (if tm.irregular || tm.overspeed then
      v.addWeight p (timingWeight v.s.params tm) (Point.raiseTimingTallies tm) else v).s := fun tm v => by
    split
    · exact Ev.addWeight_keeps _ _ _ _ (tallying_raiseTimingTallies tm) (raiseTimingTallies_step tm _ _)
    · exact .refl _
  unfold Ev.countEvent
  dsimp only
  rw [Ev.trace_s]
  refine Keeps.trans ?_ (hw _ _)
  refine Steady.keeps fun X => ?_
  have h1 : ∀ speed, Holds X w.s (X.with .active p) (w.onPoint p (Point.afterCount d speed)).s := fun speed =>
    Ev.onPoint_moved X (.counted d speed h) ⟨rfl, rfl, rfl, rfl⟩ rfl
  split
  · rename_i hc
    refine (h1 _).trans (Ev.handOver_closes (formEvent w.s p d t _) _ ?_ ?_)
    · show (((w.onPoint p (Point.afterCount d _)).s.point p)).machine = .idle
      rw [Ev.onPoint_point]; rfl
    · simp only [Bool.and_eq_true, counting, beq_iff_eq] at hc
      rw [(Ev.onPoint_around p _ w).device]
      exact hc.1.2
  · exact (h1 _).trans (Ev.pointQuiet_closes _ (by rw [Ev.onPoint_point]; rfl))

theorem Ev.deliver_keeps (p : PointId) (chg : Lines) (t : Time) (w : Ev) : Keeps w.s (w.deliver p chg t).s := by
  unfold Ev.deliver
  dsimp only
  split
  · rename_i h
    exact Ev.countEvent_keeps _ _ _ _ _ (transition_ends h).1
  · exact (Ev.deliverChange_steady _ _ _ _ _ _).keeps

/-! ## Proofs (sections 3.4 to 3.6) -/

theorem Ev.passProof_steady (pr : Proof) (w : Ev) (hc : w.s.channel = some pr) : Steady w.s (w.passProof pr).s := by
  intro X
  refine Holds.supposing (p := pr.system.point) (fun h => h.2.1 pr hc) fun Y _ hY => ?_
  unfold Ev.passProof
  dsimp only
  rw [Ev.traceProof, Ev.trace_s]
  exact (Ev.free_steady w Y).trans (Ev.onProof_holds (.passed _ _) (hY.imp id .inl))

theorem tallying_proofFail : Tallying (fun pt => { pt with proofFailTally := raise pt.proofFailTally }) :=
  fun _ => ⟨⟨rfl, rfl, rfl, rfl⟩, rfl, rfl⟩

theorem Ev.proofFailure_keeps (p : PointId) (n : Nat) (w : Ev) : Keeps w.s (w.proofFailure p n).s := by
  have h : Keeps w.s (w.addWeight p w.s.params.wProof
      (fun pt => { pt with proofFailTally := raise pt.proofFailTally })).s :=
    Ev.addWeight_keeps _ _ _ _ tallying_proofFail
      (.weighed _ _ _ _ _ _ (.inl rfl) (.inl rfl) (.inl rfl) (.inl rfl) (.inr rfl))
  unfold Ev.proofFailure
  dsimp only
  split
  · exact h.trans (Ev.enterFault_keeps _ _ _)
  · exact h

theorem Ev.failProof_keeps (pr : Proof) (r : ProofResult) (w : Ev) : Keeps w.s (w.failProof pr r).s := by
  have hj : ∀ v : Ev, Keeps v.s (if eligible v.s pr.system.point then v.join pr.system else v).s := fun v => by
    split
    · rename_i he; exact fun X _ => Ev.join_holds _ _ (.inl he)
    · exact .refl _
  unfold Ev.failProof
  dsimp only
  rw [Ev.trace_s]
  refine Keeps.trans ?_ (hj _)
  refine Keeps.trans ?_ (Ev.proofFailure_keeps _ _ _)
  exact (((Ev.free_steady w).trans (Ev.deliverEnd_steady _ _ _)).trans
    (Ev.onProof_alike _ _ (ProofStatus.failed r) _ id rfl)).keeps

theorem Ev.hold_steady (pr pr' : Proof) (w : Ev) (h : w.s.channel = some pr) (h' : pr'.system = pr.system) :
    Steady w.s (w.onProofs (some pr') w.s.queue).s := fun _ =>
  Holds.onProofs (s := w.s) _ _ (fun _ => .inl) fun pr'' hpr => .inr ⟨pr, h, by cases hpr; exact h'.symm⟩

theorem Ev.abortProof_steady (pr : Proof) (t : Time) (w : Ev) (h : w.s.channel = some pr) :
    Steady w.s (w.abortProof pr t).s :=
  Steady.trans (Ev.hold_steady pr _ w h (by rfl)) (Ev.openPassage_steady _ _ _ _ (firstState_crossing _))

theorem Ev.testedChange_steady (pr : Proof) (w : Ev) (h : w.s.channel = some pr) : Steady w.s (w.testedChange pr).s := by
  unfold Ev.testedChange
  dsimp only
  split
  · split
    · exact Ev.hold_steady pr _ w h rfl
    · exact .refl _
  · split
    · exact .refl _
    · exact Ev.passProof_steady pr w h
  · split
    · exact .refl _
    · exact Ev.hold_steady pr _ w h rfl

theorem Ev.abortPlace_steady (pr : Proof) (w : Ev) : Steady w.s (w.abortPlace pr).s := by
  unfold Ev.abortPlace
  dsimp only
  split
  · rename_i hm
    have hm : (w.s.point pr.system.point).machine = firstState pr.system.sys.other := by simpa using hm
    have h : Steady w.s (w.onPoint pr.system.point
        (fun pt => { pt with passage := pt.passage.map (Passage.partlyFor pr.system.sys) })).s :=
      Ev.onPoint_alike (Point.SameStanding.alike ⟨rfl, rfl, rfl, rfl⟩ rfl .rfl)
    split
    · exact h.trans (Ev.deliverEnd_steady _ _ _)
    · refine h.trans (Ev.onPoint_alike (Point.SameStanding.alike ⟨rfl, rfl, rfl, rfl⟩ rfl (iff_of_false ?_ ?_)))
      · exact DirectionMachine.ne_idle_of_crossing (overlapState_crossing _)
      · rw [Ev.onPoint_point]
        show (w.s.point pr.system.point).machine ≠ .idle
        rw [hm]; exact DirectionMachine.ne_idle_of_crossing (firstState_crossing _)
  · split
    · split
      · exact Ev.deliverEnd_steady _ _ _
      · exact Ev.openPassage_steady _ _ _ _ (firstState_crossing _)
    · exact .refl _

theorem Ev.decideAbort_steady (pr : Proof) (w : Ev) : Steady w.s (w.decideAbort pr).s := by
  have hr : ∀ v : Ev, Steady v.s (if eligible v.s pr.system.point then
      v.onProofs none (joinHead pr.system v.s) else v).s := fun v => by
    split
    · rename_i he
      refine fun X => Holds.onProofs (s := v.s) _ _ (fun x hx => ?_) (fun _ h => by cases h)
      rcases mem_joinHead.mp hx with rfl | hx
      · exact .inr (.inl he)
      · exact .inl hx
    · exact .refl _
  unfold Ev.decideAbort
  dsimp only
  rw [Ev.traceProof, Ev.trace_s]
  refine Steady.trans ?_ (hr _)
  exact ((Ev.free_steady w).trans (Ev.abortPlace_steady _ _)).trans (Ev.withResult_steady _ _ _ _)

theorem Ev.takeProof_steady (w : Ev) : Steady w.s w.takeProof.s := by
  unfold Ev.takeProof
  split
  · exact .refl _
  · split
    · exact .refl _
    · rename_i x hx
      exact fun X => Holds.onProofs (s := w.s) _ _ (fun y hy => .inl (List.mem_of_mem_erase hy))
        fun pr hpr => .inl (by cases hpr; exact List.mem_of_find?_eq_some hx)

theorem Point.applyStaged_alike (pt : Point) : Alike pt pt.applyStaged := by
  unfold Point.applyStaged
  split
  · exact .refl pt
  · exact Point.SameStanding.alike ⟨rfl, rfl, rfl, rfl⟩ rfl .rfl

theorem Ev.applyStaged_steady (w : Ev) : Steady w.s w.applyStaged.s := by
  refine Steady.foldl _ (fun v p => ?_) _ w
  split
  · exact Ev.onPoint_alike (Point.applyStaged_alike _)
  · exact .refl _

theorem Ev.choose_steady (w : Ev) : Steady w.s w.choose.s :=
  Resembles.steady ⟨fun _ => .refl _, rfl, rfl, rfl, fun _ => .rfl, rfl, rfl, rfl, rfl, .inl⟩

theorem Ev.settleProofs_steady (w : Ev) : Steady w.s w.settleProofs.s := by
  unfold Ev.settleProofs
  split
  · split
    · exact ((Ev.choose_steady w).trans (Ev.applyStaged_steady _)).trans (Ev.takeProof_steady _)
    · exact (((Ev.choose_steady w).trans (Ev.takeProof_steady _)).trans (Ev.applyStaged_steady _)).trans
        (Ev.takeProof_steady _)
  · exact (Ev.applyStaged_steady w).trans (Ev.takeProof_steady _)

/-! ## Supplies (chapter 8) -/

theorem Ev.onSequencer_steady (f : Sequencer → Sequencer) (w : Ev)
    (h : (f w.s.sequencer).activity = .powerOff →
      w.s.sequencer.activity = .powerOff ∨ w.s.device.state ≠ .running) :
    Steady w.s (w.onSequencer f).s :=
  Resembles.steady ⟨fun _ => .refl _, rfl, rfl, rfl, fun _ => .rfl, rfl, rfl, rfl, rfl, h⟩

theorem Ev.onGroup_steady {g : GroupId} {f : Group → Group} {w : Ev} (h : (w.s.group g).state ≠ .ready) :
    Steady w.s (w.onGroup g f).s := .onGroup fun e => absurd e h

theorem Ev.enterSettling_steady (g : GroupId) (w : Ev) (h : (w.s.group g).state ≠ .ready) :
    Steady w.s (w.enterSettling g).s := Ev.onGroup_steady h

theorem Ev.enterEnabling_steady (g : GroupId) (w : Ev) (h : (w.s.group g).state ≠ .ready) :
    Steady w.s (w.enterEnabling g).s := by
  unfold Ev.enterEnabling
  dsimp only
  split
  · refine (Ev.onGroup_steady h).trans (Ev.enterSettling_steady g _ ?_)
    rw [Ev.onGroup_group, if_pos rfl, Group.stamped_state]
    simp [Group.toTimed]
  · exact Ev.onGroup_steady h

theorem Ev.enterDisabling_steady (g : GroupId) (w : Ev) (h : (w.s.group g).state ≠ .ready) :
    Steady w.s (w.enterDisabling g).s := Ev.onGroup_steady h

/-- Both systems of a point begin their epochs when the point is eligible. -/
theorem Ev.gainIfEligible_steady (p : PointId) (w : Ev) :
    Steady w.s (if eligible w.s p then w.gainEligibility p else w).s := by
  split
  · rename_i he; exact Ev.gainEligibility_steady p w he
  · exact .refl _

theorem Ev.lightPoint_steady (p : PointId) (w : Ev) : Steady w.s (w.lightPoint p).s := by
  have h : Steady w.s (if inUse w.s p then w.initialise p else w).s := by
    split
    · exact Ev.initialise_steady _ _
    · exact .refl _
  exact h.trans (Ev.gainIfEligible_steady p _)

theorem Ev.enterReady_steady (g : GroupId) (w : Ev) : Steady w.s (w.enterReady g).s :=
  Steady.trans (.onGroup fun _ => rfl) (Steady.foldl _ (fun v p => Ev.lightPoint_steady p v) _ _)

/-- A point that has gone dark has its epochs ended and, if it was counting, its sections disturbed. -/
theorem Ev.darkenPoint_closes {X : Flaws} (c : Cause) (p : PointId) (w : Ev) :
    Holds ((X.with .elig p).with .dark p) w.s X (w.darkenPoint c p).s := by
  have hdisturbed : Holds ((X.with .elig p).with .dark p) w.s (X.with .elig p)
      (if wasCounting w.s p then w.disturbAll p c else w).s := by
    split
    · exact Ev.disturbAll_closes (.inr rfl) c w
    · rename_i hw
      refine (Steady.refl w.s _).close (k := .dark) (p := p) (by simp) (by simp) (by simp) (by simp) fun _ hm n q ht hq => ?_
      have hold := hm n q ht hq
      by_cases e : q = p
      · subst e
        exact .inl (Flaws.with_ne (by simp) (hold.resolve_right fun h => hw h.1))
      · exact hold.imp (Flaws.with_ne (by simp)) (And.imp id (Or.imp id fun h => h.resolve_right fun k => e k.2))
  exact (hdisturbed.trans (Ev.resetMachine_steady p _ _)).trans (Ev.loseEligibility_closes p false _)

/-- The points of a list, whose darkness is open, go dark one by one. -/
theorem Ev.darkenPoints_close {X : Flaws} (c : Cause) (l : List PointId) (w : Ev) :
    Holds (fun k q => X k q ∨ ((k = .elig ∨ k = .dark) ∧ q ∈ l)) w.s X
      (l.foldl (fun w p => w.darkenPoint c p) w).s := by
  induction l generalizing w with
  | nil => exact .weaken (fun k q h => h.resolve_right fun e => List.not_mem_nil e.2) _
  | cons p l ih =>
    refine Holds.trans ?_ (ih _)
    refine Holds.trans (Holds.weaken (fun k q h => ?_) _) (Ev.darkenPoint_closes c p w)
    rcases h with h | ⟨hk, hq⟩
    · exact .inl (.inl (.inl h))
    · rcases List.mem_cons.mp hq with rfl | hq
      · rcases hk with rfl | rfl
        · exact .inl (.inr ⟨rfl, rfl⟩)
        · exact .inr ⟨rfl, rfl⟩
      · exact .inl (.inl (.inr ⟨hk, hq⟩))

theorem mem_pointsOf {p : PointId} {g : GroupId} : p ∈ pointsOf g ↔ groupOf p = g := by simp [pointsOf, allPoints]

theorem Ev.leaveGroup_steady (g : GroupId) (c : Cause) (f : Group → Group) (w : Ev) : Steady w.s (w.leaveGroup g c f).s := by
  unfold Ev.leaveGroup
  dsimp only
  split
  · intro X
    refine Holds.trans ?_ (Ev.darkenPoints_close c (pointsOf g) _)
    refine (Ev.onGroup_grouped g f w).holds (fun _ _ => .inl) fun q hq => ?_
    by_cases e : groupOf q = g
    · exact .inr ⟨.inr ⟨.inl rfl, mem_pointsOf.mpr e⟩, .inr ⟨.inr rfl, mem_pointsOf.mpr e⟩⟩
    · refine .inl ?_
      unfold lit at hq ⊢
      rwa [Ev.onGroup_group, if_neg e]
  · rename_i h
    exact Ev.onGroup_steady (by simpa using h)

theorem Ev.turnOn_steady (g : GroupId) (w : Ev) : Steady w.s (w.turnOn g).s := by
  unfold Ev.turnOn
  split
  · rename_i h; exact Ev.enterEnabling_steady g w (by simp [h])
  all_goals exact .refl _

theorem Ev.turnOff_steady (g : GroupId) (w : Ev) : Steady w.s (w.turnOff g).s := by
  unfold Ev.turnOff
  split
  · exact Ev.leaveGroup_steady _ _ _ _
  · rename_i h; exact Ev.enterDisabling_steady g w (by simp [h])
  · rename_i h; exact Ev.enterDisabling_steady g w (by simp [h])
  all_goals exact .refl _

theorem Ev.giveTurns_steady (on : Bool) (l : List (GroupId × Nat)) (g : GroupId) (w : Ev) :
    Steady w.s (w.giveTurns on g l).s := by
  have ht : ∀ (g : GroupId) (w : Ev), Steady w.s (if on then w.turnOn g else w.turnOff g).s := fun g w => by
    split
    · exact Ev.turnOn_steady g w
    · exact Ev.turnOff_steady g w
  induction l generalizing g w with
  | nil => exact (ht g w).trans (Ev.onSequencer_steady _ _ .inl)
  | cons x l ih =>
    obtain ⟨next, delay⟩ := x
    unfold Ev.giveTurns
    dsimp only
    split
    · exact (ht g w).trans (ih next _)
    · exact (ht g w).trans (Ev.onSequencer_steady _ _ .inl)

theorem Ev.turn_steady (on : Bool) (g : GroupId) (w : Ev) : Steady w.s (w.turn on g).s := Ev.giveTurns_steady _ _ _ _

theorem Ev.startPowerOn_steady (w : Ev) : Steady w.s w.startPowerOn.s :=
  (Ev.onSequencer_steady (fun q => { q with activity := .powerOn }) w (fun h => by cases h)).trans
    (Ev.turn_steady _ _ _)

theorem Ev.startPowerOff_steady (w : Ev) (h : w.s.device.state ≠ .running) : Steady w.s w.startPowerOff.s :=
  (Ev.onSequencer_steady (fun q => { q with activity := .powerOff }) w (fun _ => .inr h)).trans
    (Ev.turn_steady _ _ _)

theorem Ev.onDevice_steady (f : Device → Device) (w : Ev)
    (h : (f w.s.device).state = w.s.device.state ∨
      (f w.s.device).state ≠ .running ∧ (w.s.device.state ≠ .running ∨ ∀ n, (w.s.sec n).state.trusted = false)) :
    Steady w.s (w.onDevice f).s := by
  rw [Ev.onDevice_s]
  exact Steady.device (s := w.s) fun hs => Work.keeps_trust w.s _ (.device (f w.s.device) h) hs

theorem Ev.settleActivity_steady (w : Ev) : Steady w.s w.settleActivity.s := by
  have hend : ∀ st, (st = .running ∨ st = .configuring ∧ w.s.sequencer.activity = .powerOff) →
      Steady w.s (w.endActivity.onDevice (fun d => { d with state := st })).s := fun st h => by
    rw [Ev.onDevice_s]
    exact Steady.device (s := w.s) fun hs => Work.keeps_trust w.s _ (.ended st h) hs
  unfold Ev.settleActivity
  split
  · exact .refl _
  · split
    · exact hend .running (.inl rfl)
    · exact .refl _
  · rename_i ha
    split
    · exact hend .configuring (.inr ⟨rfl, ha⟩)
    · exact .refl _
  · split
    · exact Ev.onSequencer_steady _ _ (fun h => by cases h)
    · exact .refl _

theorem Ev.settle_steady (w : Ev) : Steady w.s w.settle.s :=
  (Ev.settleProofs_steady w).trans (Ev.settleActivity_steady _)

theorem Ev.supplyGoodChange_steady (g : GroupId) (w : Ev) : Steady w.s (w.supplyGoodChange g).s := by
  have h : Steady w.s (w.onGroup g (fun r =>
      { r with good := !(w.s.group g).good, pinHigh := !(w.s.group g).good, run := 0 })).s := .onGroup id
  unfold Ev.supplyGoodChange
  dsimp only
  split
  · rename_i hst
    split
    · exact h.trans (Ev.enterSettling_steady _ _ (by simp [hst]))
    · exact h
  · rename_i hst
    split
    · exact h
    · exact h.trans (Ev.onGroup_steady (by simp [hst]))
  · split
    · exact h
    · exact h.trans (Ev.leaveGroup_steady _ _ _ _)
  all_goals exact h

theorem Ev.offTimeExpiry_steady (g : GroupId) (w : Ev) (h : (w.s.group g).state ≠ .ready) :
    Steady w.s (w.offTimeExpiry g).s := by
  unfold Ev.offTimeExpiry
  split
  · exact Ev.onGroup_steady h
  · split
    · exact Ev.enterEnabling_steady _ _ h
    · exact Ev.onGroup_steady h

theorem Ev.retimeSettle_steady (t : Nat) (g : GroupId) (w : Ev) : Steady w.s (w.retimeSettle t g).s := by
  unfold Ev.retimeSettle
  split
  · split
    · exact Ev.enterReady_steady _ _
    · exact .onGroup id
  · exact .refl _

theorem Ev.setSupplyParams_steady (q : SupplyParams) (w : Ev) : Steady w.s (w.setSupplyParams q).s :=
  (Ev.onSequencer_steady _ w .inl).trans (Steady.foldl _ (fun v g => Ev.retimeSettle_steady _ g v) _ _)

theorem Ev.releaseGroup_steady (g : GroupId) (w : Ev) (h : (w.s.group g).state ≠ .ready) :
    Steady w.s (w.releaseGroup g).s := by
  unfold Ev.releaseGroup
  dsimp only
  split
  · split
    · exact Ev.enterSettling_steady _ _ h
    · exact Ev.onGroup_steady h
  · split
    · exact Ev.onGroup_steady h
    · exact Ev.onGroup_steady h

/-! ## Configuration (chapters 4, 7 and 9) -/

/-- Membership is derived anew, at a table whose replacement is open. -/
theorem Ev.takeMembership_steady (old : Table 16 TopologyEntry) (n : SectionId) (w : Ev) :
    Steady w.s (w.takeMembership old n).s := by
  unfold Ev.takeMembership
  dsimp only
  rw [Ev.postIf_s]
  have hcases : ∀ (used : Bool) (r : SectionRecord), r.takeMembership used = r ∨
      ((r.takeMembership used).state = .disturbed ∨ (r.takeMembership used).state = .unused) := by
    intro used r
    unfold SectionRecord.takeMembership
    split <;> split
    · exact .inr (.inl rfl)
    · exact .inl rfl
    · exact .inl rfl
    · exact .inr (.inr rfl)
  refine .onSection (.membership _) (fun _ ht => ?_) fun _ hc => ?_
  · rcases hcases _ (w.s.sec n) with e | e | e
    · rwa [e] at ht
    · rw [e] at ht; cases ht
    · rw [e] at ht; cases ht
  · rcases hcases (!(members w.s n).isEmpty) (w.s.sec n) with e | e | e
    · rwa [e]
    · rw [e]; exact ⟨by simp, by simp⟩
    · rw [e]; exact ⟨by simp, by simp⟩

theorem Ev.setTopology_holds {X : Flaws} (t : Table 16 TopologyEntry) (q : PointId) (w : Ev)
    (hd : w.s.device.state ≠ .running) : Holds X w.s (X.with .table q) (w.setTopology t).s := by
  unfold Ev.setTopology
  dsimp only
  refine Holds.trans ?_ (Steady.foldl _ (fun v n => Ev.takeMembership_steady _ n v) _ _ _)
  refine Holds.trans (Holds.onTopology t q hd) (Steady.foldl _ (fun v p => ?_) _ ⟨{ w.s with topology := t }, _, _⟩ _)
  rw [Ev.postIf_s]; exact .refl _

theorem Ev.dueExpiry_steady (p : PointId) (x : Sys) (w : Ev) (h : ((w.s.point p).proof x).dueTimer ≠ none) :
    Steady w.s (w.dueExpiry p x).s := by
  intro X
  refine Holds.supposing (p := p) (fun he => ?_) fun Y _ hY => ?_
  · rcases he.2.2 p with h1 | h1 | h1
    · exact .inl h1
    · exact .inr h1
    · exact absurd (h1 x).1 h
  · exact (Ev.onProof_holds (.timed true ((w.s.point p).proof x).overdue none _) (hY.imp id .inl)).trans
      (Ev.join_holds _ _ (by rw [Ev.onProofStatus_eligible]; exact hY))

theorem Ev.overdueExpiry_steady (p : PointId) (x : Sys) (w : Ev) : Steady w.s (w.overdueExpiry p x).s := fun _ =>
  Ev.onProof_holds (.timed ((w.s.point p).proof x).due true _ none)
    (.inr (.inr fun ⟨h1, _, h3, _⟩ => ⟨h1, rfl, h3, rfl⟩))

theorem Ev.retimeDue_steady (i : Nat) (p : PointId) (x : Sys) (w : Ev) : Steady w.s (w.retimeDue i p x).s := by
  unfold Ev.retimeDue
  split
  · exact .refl _
  · rename_i t ht
    split
    · exact Ev.dueExpiry_steady _ _ _ (by rw [ht]; simp)
    · exact Ev.onProof_alike _ _ _ _ (fun h => absurd (ht.symm.trans h.1) (by simp)) rfl

theorem Ev.retimeOverdue_steady (i : Nat) (p : PointId) (x : Sys) (w : Ev) : Steady w.s (w.retimeOverdue i p x).s := by
  unfold Ev.retimeOverdue
  split
  · exact .refl _
  · rename_i t ht
    split
    · exact Ev.overdueExpiry_steady _ _ _
    · exact Ev.onProof_alike _ _ _ _ (fun h => absurd (ht.symm.trans h.2.1) (by simp)) rfl

theorem Ev.retimeProofs_steady (i : Nat) (w : Ev) : Steady w.s (w.retimeProofs i).s :=
  Steady.foldl _ (fun v p => Steady.foldl _ (fun u x =>
    (Ev.retimeDue_steady i p x u).trans (Ev.retimeOverdue_steady i p x _)) _ v) _ w

theorem State.leakTimer_steady (s : State) (t : Timer) : Steady s { s with leakTimer := t } :=
  Resembles.steady ⟨fun _ => .refl _, rfl, rfl, rfl, fun _ => .rfl, rfl, rfl, rfl, rfl, .inl⟩

theorem Ev.retimeLeak_keeps (i : Nat) (w : Ev) : Keeps w.s (w.retimeLeak i).s := by
  unfold Ev.retimeLeak
  dsimp only
  split
  · exact (w.s.leakTimer_steady _).keeps.trans (Ev.leak_keeps ⟨{ w.s with leakTimer := _ }, w.posts, w.traces⟩)
  · exact (w.s.leakTimer_steady _).keeps

/-- The evaluation of every point closes the change of the fault threshold. -/
theorem Ev.evaluatePoints_close {X : Flaws} (hX : ∀ q, ¬X .dark q) (l : List PointId) (w : Ev) :
    Holds (fun k q => X k q ∨ (k = .level ∧ q ∈ l)) w.s X (l.foldl (fun w p => w.evaluateHealth p) w).s := by
  induction l generalizing w with
  | nil => exact .weaken (fun k q h => h.resolve_right fun e => List.not_mem_nil e.2) _
  | cons p l ih =>
    have hdark : ∀ q, ¬(X .dark q ∨ (Flaw.dark = .level ∧ q ∈ l)) := fun q h =>
      h.elim (hX q) (fun e => by cases e.1)
    refine Holds.trans ?_ (ih _)
    refine Holds.trans (Holds.weaken (fun k q h => ?_) _)
      (Ev.evaluateHealth_closes (X := fun k q => X k q ∨ (k = .level ∧ q ∈ l)) hdark p w)
    rcases h with h | ⟨rfl, hq⟩
    · exact .inl (.inl h)
    · rcases List.mem_cons.mp hq with rfl | hq
      · exact .inr ⟨rfl, rfl⟩
      · exact .inl (.inr ⟨rfl, hq⟩)

theorem Ev.setDeviceParams_keeps (d : DeviceParams) (b : Bool) (w : Ev) (h : w.s.params.Ok → d.Ok)
    (hb : b = true ∨ d.fault = w.s.params.fault) : Keeps w.s (w.setDeviceParams d b).s := by
  have h1 : ∀ (i : Nat) (v : Ev), Keeps v.s (if d.leakInterval = i then v else v.retimeLeak d.leakInterval).s :=
    fun i v => by
      split
      · exact .refl _
      · exact Ev.retimeLeak_keeps _ _
  have h2 : ∀ (i : Nat) (v : Ev), Keeps v.s (if d.interval = i then v else v.retimeProofs d.interval).s :=
    fun i v => by
      split
      · exact .refl _
      · exact (Ev.retimeProofs_steady _ _).keeps
  intro X hX
  have hdark : ∀ q, ¬(X .dark q ∨ (Flaw.dark = .level ∧ q ∈ allPoints)) := fun q h =>
    h.elim (hX q) (fun e => by cases e.1)
  unfold Ev.setDeviceParams
  dsimp only
  split
  · refine Holds.trans ?_ (Ev.evaluatePoints_close hX allPoints _)
    refine Holds.trans ?_ (h2 _ _ _ hdark)
    refine Holds.trans ?_ (h1 _ _ _ hdark)
    exact Holds.onParams h (fun _ _ => .inl) (.inr fun q => .inr ⟨rfl, List.mem_finRange q⟩)
  · rename_i hn
    refine Holds.trans ?_ (h2 _ _ _ hX)
    refine Holds.trans ?_ (h1 _ _ _ hX)
    exact Holds.onParams h (fun _ _ => id) (.inl (hb.resolve_left hn))

end Sys2Proof.Machine
end

section
/-! The work of every command keeps the invariants between the points, the sections and the proofs; the obligations about
what every step keeps that follow (chapters 1 to 5). -/

namespace Sys2Proof.Machine

/-! ## Modes (chapter 7) -/

theorem Ev.takeOutOfUse_closes {X : Flaws} (p : PointId) (b : Bool) (w : Ev) :
    Holds (if b then (X.with .elig p).with .counted p else X.with .elig p) w.s X (w.takeOutOfUse p b).s := by
  unfold Ev.takeOutOfUse
  dsimp only
  refine Holds.trans ?_ (Ev.loseEligibility_closes p false _)
  refine Holds.trans ?_ (Ev.resetMachine_steady p _ _)
  cases b
  · exact Steady.refl _ _
  · exact Ev.disturbAll_closes (.inl rfl) _ _

theorem Ev.bringIntoUse_steady (p : PointId) (w : Ev) : Steady w.s (w.bringIntoUse p).s := by
  have h : Steady w.s (if lit w.s p then w.initialise p else w).s := by
    split
    · exact Ev.initialise_steady _ _
    · exact .refl _
  exact h.trans (Ev.gainIfEligible_steady p _)

/-- A point that is not counting, its group being in no change, has no section whose count is trusted. -/
theorem not_wasCounting_of_not_counting {X : Flaws} (hX : ∀ q, ¬X .dark q) {s : State} {p : PointId}
    (hc : counting s p = false) : ¬(wasCounting s p = true ∧ (lit s p = true ∨ X .dark p)) := by
  rintro ⟨hw, hl⟩
  have hl : lit s p = true := hl.resolve_right (hX p)
  simp only [wasCounting, Bool.and_eq_true] at hw
  rw [counting, hw.1.1, hw.1.2, hw.2, hl] at hc
  cases hc

/-- The mode changed: the eligibility and the counting that a point loses by it are open. -/
theorem Ev.onPoint_mode {X Y : Flaws} (hX : ∀ q, ¬X .dark q) (p : PointId) (m : Mode) (w : Ev)
    (mono : ∀ k q, X k q → Y k q) (helig : Y .elig p ∨ (m = .outOfUse → (w.s.point p).mode = .outOfUse))
    (hcounted : Y .counted p ∨ m = .counting ∨ (w.s.point p).mode ≠ .counting ∨ counting w.s p = false) :
    Holds X w.s Y (w.onPoint p (fun pt => { pt with mode := m })).s := by
  rw [Ev.onPoint_setPoint]
  have heligible : Y .elig p ∨ (eligible w.s p = true →
      eligible (w.s.setPoint p { w.s.point p with mode := m }) p = true) := by
    refine helig.imp id fun h he => ?_
    rw [eligible_setPoint_self]
    simp only [eligible, inUse, Bool.and_eq_true, bne_iff_ne] at he ⊢
    exact ⟨⟨fun e => he.1.1 (h e), he.1.2⟩, he.2⟩
  exact Bears.holds {
    step := .mode m
    mono := fun k q h => .inl (mono k q h)
    level := by
      by_cases hy : Y .level p
      · exact .inl hy
      · exact .inr fun _ hk hp => (hk hp).resolve_right fun h => hy (mono _ _ h)
    elig := heligible
    rest := by
      by_cases he : eligible w.s p = true
      · exact heligible.imp id fun h => .inl (h he)
      · exact .inr (.inr fun hor x => by
          have := hor.resolve_left he x
          cases x <;> exact this)
    machine := .inr (.inl .rfl)
    overdue := .inr rfl
    counting := by
      rcases hcounted with h | h | h | h
      · exact .inl h
      · refine .inr fun hw _ => ?_
        rw [wasCounting_setPoint_self, h]
        simp only [wasCounting, Bool.and_eq_true] at hw ⊢
        exact ⟨⟨rfl, hw.1.2⟩, hw.2⟩
      · refine .inr fun hw _ => absurd ?_ h
        simp only [wasCounting, Bool.and_eq_true, beq_iff_eq] at hw
        exact hw.1.1
      · exact .inr fun hw hl => absurd ⟨hw, hl⟩ (not_wasCounting_of_not_counting hX h) }

theorem Ev.changeMode_keeps (p : PointId) (m : Mode) (w : Ev) : Keeps w.s (w.changeMode p m).s := by
  intro X hX
  have hsame : ∀ m', (m' = .outOfUse → (w.s.point p).mode = .outOfUse) →
      m' = .counting ∨ (w.s.point p).mode ≠ .counting →
      Holds X w.s X (w.onPoint p (fun pt => { pt with mode := m' })).s := fun m' h1 h2 =>
    Ev.onPoint_mode hX p m' w (fun _ _ => id) (.inr h1) (.inr (h2.imp id .inl))
  have hout : Holds X w.s
      (if counting w.s p then (X.with .elig p).with .counted p else X.with .elig p)
      (w.onPoint p (fun pt => { pt with mode := .outOfUse })).s := by
    split
    · exact Ev.onPoint_mode hX p _ w (fun _ _ h => .inl (.inl h)) (.inl (.inl (.inr ⟨rfl, rfl⟩)))
        (.inl (.inr ⟨rfl, rfl⟩))
    · rename_i hc
      exact Ev.onPoint_mode hX p _ w (fun _ _ h => .inl h) (.inl (.inr ⟨rfl, rfl⟩))
        (.inr (.inr (.inr (by simpa using hc))))
  unfold Ev.changeMode
  dsimp only
  cases hm : (w.s.point p).mode <;> cases m
  case outOfUse.outOfUse => exact hsame _ (fun _ => hm) (.inr (by simp [hm]))
  case outOfUse.supervising => exact (hsame _ (by simp) (.inr (by simp [hm]))).trans (Ev.bringIntoUse_steady p _ _)
  case outOfUse.counting => exact (hsame _ (by simp) (.inl rfl)).trans (Ev.bringIntoUse_steady p _ _)
  case supervising.outOfUse => exact hout.trans (Ev.takeOutOfUse_closes p _ _)
  case counting.outOfUse => exact hout.trans (Ev.takeOutOfUse_closes p _ _)
  case supervising.supervising => exact hsame _ (by simp) (.inr (by simp [hm]))
  case supervising.counting => exact hsame _ (by simp) (.inl rfl)
  case counting.counting => exact hsame _ (by simp) (.inl rfl)
  case counting.supervising =>
    dsimp only
    split
    · exact (Ev.onPoint_mode (Y := X.with .counted p) hX p _ w (X.le_with _ _) (.inr (by simp))
        (.inl (.inr ⟨rfl, rfl⟩))).trans (Ev.disturbAll_closes (.inl rfl) _ _)
    · rename_i hc
      exact Ev.onPoint_mode hX p _ w (fun _ _ => id) (.inr (by simp)) (.inr (.inr (.inr (by simpa using hc))))

theorem Ev.applyStartModes_keeps (w : Ev) : Keeps w.s w.applyStartModes.s :=
  Keeps.foldl _ (fun v p => Ev.changeMode_keeps p _ v) _ w

theorem Ev.beginStart_keeps (w : Ev) : Keeps w.s w.beginStart.s :=
  (Ev.applyStartModes_keeps w).trans (Ev.startPowerOn_steady _).keeps

theorem Ev.gainIfLit_steady (p : PointId) (w : Ev) (hm : (w.s.point p).mode ≠ .outOfUse)
    (hh : (w.s.point p).health ≠ .fault) :
    Steady w.s (if lit w.s p then w.gainEligibility p else w).s := by
  split
  · rename_i hl
    exact Ev.gainEligibility_steady p w (by simp [eligible, inUse, hl, hm, hh])
  · exact .refl _

theorem Ev.initialiseIf_steady (b : Bool) (p : PointId) (w : Ev) :
    Steady w.s (if b && lit w.s p then w.initialise p else w).s := by
  split
  · exact Ev.initialise_steady _ _
  · exact .refl _

theorem Ev.initialiseIf_standing (b : Bool) (p : PointId) (w : Ev) :
    (w.s.point p).SameStanding ((if b && lit w.s p then w.initialise p else w).s.point p) := by
  split
  · exact Ev.initialise_standing p w
  · exact ⟨rfl, rfl, rfl, rfl⟩

/-- A fault cleared leaves the level 0, below every threshold in range. -/
theorem Ev.clearFault_steady (p : PointId) (w : Ev) (hf : (w.s.point p).health = .fault) :
    Steady w.s (w.clearFault p).s := by
  have hcleared : Steady w.s (w.onPoint p Point.clearFault).s := fun X => by
    have hnot : eligible w.s p = false := by simp [eligible, hf]
    rw [Ev.onPoint_setPoint]
    exact Bears.holds {
      step := .cleared
      mono := fun _ _ => .inl
      level := .inr fun hok _ hp => by
        have h2 : 2 ≤ w.s.params.fault := ((Range.holds_iff _ _).mp (hok.1 .fault)).1
        exact absurd (h2.trans hp) (by simp [Point.clearFault])
      elig := .inr fun h => by rw [hnot] at h; cases h
      rest := .inr (.inr fun hor x => by
        have := (hor.resolve_left (by simp [hnot])) x
        cases x <;> exact this)
      machine := .inr (.inl .rfl)
      overdue := .inr rfl
      counting := .inr fun h => by simp [wasCounting, hf] at h }
  have hstanding := Ev.initialiseIf_standing ((w.s.point p).mode == .outOfUse) p (w.onPoint p Point.clearFault)
  have hinit := hcleared.trans
    (Ev.initialiseIf_steady ((w.s.point p).mode == .outOfUse) p (w.onPoint p Point.clearFault))
  rw [Ev.onPoint_point] at hstanding
  unfold Ev.clearFault
  refine hinit.trans (Ev.gainIfLit_steady p _ ?_ ?_)
  · rw [hstanding.mode]; simp [Point.clearFault]
  · rw [hstanding.health]; simp [Point.clearFault]

/-! ## Detector events (chapters 1 and 3) -/

theorem Line.take_alike (x : Sys) (f : Line → Line) (pt : Point) : Alike pt (pt.onLine x f) := by
  cases x <;> exact Point.SameStanding.alike ⟨rfl, rfl, rfl, rfl⟩ rfl .rfl

theorem Ev.takeLine_steady (p : PointId) (x : Sys) (t : Time) (w : Ev) : Steady w.s (w.takeLine p x t).s :=
  Ev.onPoint_alike (Line.take_alike x _ _)

theorem proofAt_eq_some {s : State} {p : PointId} {pr : Proof} (h : proofAt s p = some pr) :
    s.channel = some pr ∧ pr.system.point = p := by
  unfold proofAt at h
  split at h
  · cases h
  · split at h
    · rename_i hc hp; cases h; exact ⟨hc, hp⟩
    · cases h

theorem Ev.routeChange_keeps (p : PointId) (x : Sys) (t : Time) (w : Ev) : Keeps w.s (w.routeChange p x t).s := by
  unfold Ev.routeChange
  split
  · exact Ev.deliver_keeps _ _ _ _
  · rename_i pr hpr
    obtain ⟨hc, -⟩ := proofAt_eq_some hpr
    split
    · exact (Ev.testedChange_steady pr w hc).keeps
    · unfold Ev.partnerChange
      dsimp only
      split
      · exact (Ev.abortProof_steady pr t w hc).keeps
      · exact Ev.deliver_keeps _ _ _ _

theorem Ev.changeOne_keeps (p : PointId) (x : Sys) (t : Time) (w : Ev) : Keeps w.s (w.changeOne p x t).s := by
  unfold Ev.changeOne
  dsimp only
  split
  · exact (Ev.takeLine_steady p x t w).keeps.trans (Ev.routeChange_keeps p x t _)
  · exact (Ev.takeLine_steady p x t w).keeps

theorem Ev.betweenChanges_steady (w : Ev) : Steady w.s w.betweenChanges.s := by
  unfold Ev.betweenChanges
  split
  · exact (Ev.choose_steady w).trans (Ev.settleProofs_steady _)
  · exact (Ev.choose_steady w).trans (Ev.applyStaged_steady _)

theorem Ev.acceptedChange_keeps (p : PointId) (lines : Lines) (t : Time) (w : Ev) :
    Keeps w.s (w.acceptedChange p lines t).s := by
  unfold Ev.acceptedChange
  split
  · exact Ev.changeOne_keeps p .a t w
  · exact Ev.changeOne_keeps p .b t w
  · have hboth := (Ev.takeLine_steady p .a t w).trans (Ev.takeLine_steady p .b t _)
    unfold Ev.changeBoth
    split
    · split
      · exact (((Ev.choose_steady w).keeps.trans (Ev.changeOne_keeps _ _ _ _)).trans
          (Ev.betweenChanges_steady _).keeps).trans (Ev.changeOne_keeps _ _ _ _)
      · exact ((Ev.choose_steady w).keeps.trans (Ev.changeOne_keeps _ _ _ _)).trans (Ev.changeOne_keeps _ _ _ _)
    · exact hboth.keeps.trans (Ev.deliver_keeps _ _ _ _)
    · exact hboth.keeps

theorem Ev.glitch_keeps (p : PointId) (x : Sys) (start : Time) (length : Byte) (w : Ev) :
    Keeps w.s (w.glitch p x start length).s := by
  have h1 : Keeps w.s (w.onPoint p (Point.onLine x (fun l =>
      { l with raw := l.accepted, pinLow := l.accepted, run := 0 }))).s :=
    (Ev.onPoint_alike (Line.take_alike x _ _)).keeps
  unfold Ev.glitch
  dsimp only
  split
  · refine h1.trans ?_
    rw [Ev.trace_s]
    exact Ev.addWeight_keeps _ _ _ _ (fun _ => ⟨⟨rfl, rfl, rfl, rfl⟩, rfl, rfl⟩)
      (.weighed _ _ _ _ _ _ (.inr rfl) (.inl rfl) (.inl rfl) (.inl rfl) (.inl rfl))
  · exact h1

theorem Ev.confusedPassage_keeps (p : PointId) (w : Ev) : Keeps w.s (w.confusedPassage p).s := by
  have h : Keeps w.s (w.addWeight p w.s.params.wConfused
      (fun pt => { pt with confusedTally := raise pt.confusedTally })).s :=
    Ev.addWeight_keeps _ _ _ _ (fun _ => ⟨⟨rfl, rfl, rfl, rfl⟩, rfl, rfl⟩)
      (.weighed _ _ _ _ _ _ (.inl rfl) (.inl rfl) (.inl rfl) (.inr rfl) (.inl rfl))
  unfold Ev.confusedPassage
  dsimp only
  split
  · exact h.trans (Ev.disturbAll_steady _ _ _).keeps
  · exact h

/-- The notice that closes a quiet period, sent when the point is still IDLE. -/
theorem Ev.quietIfIdle_closes {X : Flaws} (p : PointId) (w : Ev) :
    Holds (X.with .stale p) w.s X (if (w.s.point p).machine == .idle then w.pointQuiet p else w).s := by
  split
  · rename_i hm
    refine ((Holds.add _ .active p _).trans (Ev.pointQuiet_closes (p := p) w (by simpa using hm))).close_stale fun ha => ?_
    rw [Ev.pointQuiet_view] at ha
    cases ha
  · rename_i hm
    exact Holds.close_stale (Steady.refl _ _) fun _ => by simpa using hm

/-- The machine leaves CONFUSED at once, and the quiet notice follows when the point has been judged: until then the view
has it active (R18, R20). -/
theorem Ev.quietExpiry_keeps (p : PointId) (c : Confusion) (expiry : Time) (w : Ev)
    (h : (w.s.point p).machine = .confused) : Keeps w.s (w.quietExpiry p c expiry).s := by
  intro X hX
  have hleft : Holds X w.s (X.with .stale p)
      (w.onPoint p (fun pt => { pt with machine := .idle, confusion := none, quietTimer := none })).s := by
    rw [Ev.onPoint_setPoint]
    exact .moved (.leftConfused h) ⟨rfl, rfl, rfl, rfl⟩ (X.le_with _ _) (.inr le_rfl) (.inr (.inr ⟨.inr ⟨rfl, rfl⟩, rfl⟩))
  have hdark : ∀ q, ¬X.with .stale p .dark q := fun q hq => hX q (Flaws.with_ne (by simp) hq)
  have hjudged : ∀ v : Ev, Holds (X.with .stale p) v.s (X.with .stale p)
      (if c.cause = .startUp then v else v.confusedPassage p).s := fun v => by
    split
    · exact Steady.refl _ _
    · exact Ev.confusedPassage_keeps p v _ hdark
  unfold Ev.quietExpiry
  dsimp only
  exact (hleft.trans (hjudged _)).trans (Ev.quietIfIdle_closes p (Ev.trace (.confused p c.cause c.entry expiry) _))

/-! ## Sections -/

/-- A section whose clear-delay timer runs is CLEARING: its expiry leaves it held or CLEAR. -/
theorem calm_expiryCheck {s : State} {n : SectionId} {r : SectionRecord} (hs : r.state = .clearing)
    (h : Calm s n r.state) : Calm s n (r.expiryCheck (anyOverdue s n)).state := by
  unfold SectionRecord.expiryCheck
  split
  · exact ⟨fun _ => h.1 (.inl hs), by simp⟩
  · rename_i ho
    exact ⟨fun _ => h.1 (.inl hs), fun _ => by simpa using ho⟩

theorem Ev.expiryCheck_steady (n : SectionId) (w : Ev) (hs : (w.s.sec n).state = .clearing)
    (ht : (w.s.sec n).clearTimer.isSome = true) :
    Steady w.s (w.onSection n (SectionRecord.expiryCheck (anyOverdue w.s n))).s :=
  .onSection (.expiry _ hs ht) (fun _ _ => by rw [hs]; rfl) fun _ => calm_expiryCheck hs

theorem Ev.setParams_steady (n : SectionId) (d k : Nat) (b : Bool) (w : Ev) :
    Steady w.s (w.onSection n (SectionRecord.setParams w.s.now (anyOverdue w.s n) d k b)).s := by
  have hcases : ∀ r : SectionRecord, r.Ok →
      (r.setParams w.s.now (anyOverdue w.s n) d k b).state = r.state ∨
      (r.state = .clearing ∧ (r.setParams w.s.now (anyOverdue w.s n) d k b).state =
        (r.expiryCheck (anyOverdue w.s n)).state) := by
    intro r hr
    rw [SectionRecord.setParams_eq]
    cases ht : r.clearTimer with
    | none => exact .inl rfl
    | some t =>
      dsimp only
      split
      · refine .inr ⟨(hr.emptied_of_timer (by simp [ht])).1, ?_⟩
        unfold SectionRecord.expiryCheck
        split <;> rfl
      · exact .inl rfl
  refine .onSection (.params _ _ _ _) (fun hok ht => ?_) fun hok hc => ?_
  · rcases hcases _ hok with e | ⟨hs, -⟩
    · rwa [e] at ht
    · rw [hs]; rfl
  · rcases hcases _ hok with e | ⟨hs, e⟩
    · rwa [e]
    · rw [e]; exact calm_expiryCheck hs hc

/-- An accepted restore trusts the count of a section whose members are counting and quiet. -/
theorem Ev.restore_holds (n : SectionId) (k : RestoreKind) (w : Ev) (hd : w.s.device.state = .running)
    (hs : (w.s.sec n).state = .disturbed) (hready : ∀ p ∈ members w.s n, memberReady w.s p = true)
    (hidle : ∀ p ∈ members w.s n, (w.s.point p).machine = .idle) :
    Holds Flaws.none w.s Flaws.none
      (w.onSection n (SectionRecord.restore w.s.now (anyOverdue w.s n) k)).s := by
  refine .onSection (.restore _ k hd hs) (fun _ _ => .inr fun p hp => ?_) fun _ hv _ => ?_
  · have h := hready p hp
    simp only [memberReady, Bool.and_eq_true] at h
    exact ⟨by simp [wasCounting, h.1, hd], h.2⟩
  · have hquiet : anyActive w.s n = false := by
      rw [anyActive, List.any_eq_false]
      intro p hp ha
      exact (((hv p).1.resolve_left id).2 ha).elim (fun h => h (hidle p hp)) id
    unfold SectionRecord.restore
    cases k with
    | sweep => exact ⟨by simp, by simp⟩
    | direct =>
      dsimp only
      unfold SectionRecord.enterClearing SectionRecord.expiryCheck
      split
      · split
        · exact ⟨fun _ => hquiet, by simp⟩
        · rename_i ho; exact ⟨fun _ => hquiet, fun _ => by simpa using ho⟩
      · exact ⟨fun _ => hquiet, by simp⟩

end Sys2Proof.Machine
end

section
/-! What every step keeps between the points, the sections and the proofs (chapters 1 to 5 and 9): the invariants of the
levels, of eligibility, of the point view, of the members of a trusted section and of quiet sections. -/

namespace Sys2Proof.Machine

/-! ## One command -/

/-- Nothing is open but, for a device that is CONFIGURING or LOADING, a new Topology Table. -/
def tableFlaw (s : State) : Flaws := fun k _ => k = .table ∧ (s.device.state = .configuring ∨ s.device.state = .loading)

/-- The work of a command from one state to another. -/
def Sound (s t : State) : Prop := Holds Flaws.none s (tableFlaw s) t

theorem Holds.sound {s t : State} (h : Holds Flaws.none s Flaws.none t) : Sound s t :=
  h.trans (.weaken (fun _ _ hx => hx.elim) t)

theorem Keeps.sound {s t : State} (h : Keeps s t) : Sound s t := (h _ fun _ => id).sound
theorem Steady.sound {s t : State} (h : Steady s t) : Sound s t := h.keeps.sound

theorem Sound.steady {s t u : State} (h : Sound s t) (h' : Steady t u) : Sound s u := h.trans (h' _)

theorem tableFlaw_dark (s : State) (q : PointId) : ¬tableFlaw s .dark q := fun h => by cases h.1

theorem Sound.keeps {s t u : State} (h : Sound s t) (h' : Keeps t u) : Sound s u := h.trans (h' _ (tableFlaw_dark s))

/-- What goes before touches nothing the invariants read. -/
theorem Resembles.sound {s t u : State} (h : Resembles s t) (h' : Sound t u) : Sound s u := by
  have e : tableFlaw t = tableFlaw s := by unfold tableFlaw; rw [h.device]
  unfold Sound at h'
  rw [e] at h'
  exact (h.steady _).trans h'

theorem Leaves.resembles {s t : State} (h : Leaves s t) : Resembles s t := h.1.resembles

theorem runEvent_sound {f : Ev → Ev} {s : State} (h : Sound s (f ⟨s, [], []⟩).s) : Sound s (runEvent f s) :=
  h.steady (runEvent_leaves f s).resembles.steady

/-- An answer of a command whose work is sound. -/
def Answer.Sound (s : State) (a : Answer) : Prop := ∀ w d, a = .ok (w, d) → Machine.Sound s w.s

section
variable {s : State}

theorem Answer.sound_refuse {c : RefusalCode} {d : List Byte} : Answer.Sound s (refuse c d) := fun _ _ h => by cases h

theorem Answer.sound_accept {w : Ev} {d : List Byte} (h : Machine.Sound s w.s) : Answer.Sound s (accept w d) :=
  fun _ _ e => by cases e; exact h

theorem Answer.sound_settled {w : Ev} {d : List Byte} (h : Machine.Sound s w.s) : Answer.Sound s (accept w.settle d) :=
  Answer.sound_accept (h.steady (Ev.settle_steady w))

theorem Answer.sound_require {b : Bool} {c : RefusalCode} {d : List Byte} {a : Answer}
    (h : b = true → Answer.Sound s a) : Answer.Sound s (require b c d a) := by
  intro w e he
  unfold require at he
  split at he
  · rename_i hb; exact h hb w e he
  · cases he

theorem Answer.sound_withArgument {α : Type} {x : Option α} {f : α → Answer} (h : ∀ a, (f a).Sound s) :
    Answer.Sound s (withArgument x f) := by
  cases x with
  | none => exact Answer.sound_refuse
  | some a => exact h a

end

theorem State.frameTaken_resembles (i : PortId) (s : State) : Resembles s (s.frameTaken i) := by
  cases i <;> exact AllButPorts.resembles rfl

theorem State.onPort_resembles (i : PortId) (f : Port → Port) (s : State) : Resembles s (s.onPort i f) := by
  cases i <;> exact AllButPorts.resembles rfl

theorem Answer.conclude_sound {i : PortId} {kind tag : Byte} {s : State} {a : Answer} (h : a.Sound s) :
    Machine.Sound s (Answer.conclude i kind tag s a) := by
  cases a with
  | ok x =>
    obtain ⟨w, d⟩ := x
    have hreply : Steady w.s (w.s.reply i ⟨kind, tag, .accepted d⟩) := (State.onPort_resembles i _ w.s).steady
    exact (h w d rfl).steady (hreply.trans (Ev.finish_leaves { w with s := _ }).resembles.steady)
  | error x =>
    obtain ⟨c, d⟩ := x
    have hreply : Steady s (s.reply i ⟨kind, tag, .refused c d⟩) := (State.onPort_resembles i _ s).steady
    exact (hreply.trans (Ev.finish_leaves ⟨_, [], []⟩).resembles.steady).sound

theorem takeCommand_sound {kind : Byte} {pm : Permitted} {fits : Nat → Bool} {act : List Byte → Ev → Answer}
    {i : PortId} {tag : Byte} {body : List Byte} {s : State} (h : ∀ s, (act body ⟨s, [], []⟩).Sound s) :
    Sound s (takeCommand kind pm fits act i tag body s) := by
  unfold takeCommand
  dsimp only
  refine (State.frameTaken_resembles i s).sound ?_
  split
  · exact (State.onPort_resembles i _ _).sound (runEvent_sound (Steady.refl _).sound)
  · exact Answer.conclude_sound (Answer.sound_require fun _ => Answer.sound_require fun _ => h _)

/-! ## The commands -/

theorem actRestoreSection_sound (body : List Byte) (s : State) : (actRestoreSection body ⟨s, [], []⟩).Sound s := by
  unfold actRestoreSection
  split
  · refine Answer.sound_require fun hd => Answer.sound_withArgument fun n => Answer.sound_withArgument fun k => ?_
    unfold restoreChecked
    dsimp only
    refine Answer.sound_require fun hs => Answer.sound_require fun _ => ?_
    split
    · exact Answer.sound_refuse
    · split
      · exact Answer.sound_refuse
      · rename_i hready
        split
        · exact Answer.sound_refuse
        · rename_i hidle
          rw [List.find?_eq_none] at hready hidle
          refine Answer.sound_require fun _ => Answer.sound_accept (Holds.sound ?_)
          exact Ev.restore_holds n k ⟨s, [], []⟩ (by simpa using hd) (by simpa using hs)
            (fun p hp => by simpa using hready p hp) (fun p hp => by simpa using hidle p hp)
  · exact Answer.sound_refuse

theorem actCancelRestore_sound (body : List Byte) (s : State) : (actCancelRestore body ⟨s, [], []⟩).Sound s := by
  unfold actCancelRestore
  split
  · exact Answer.sound_withArgument fun n => Answer.sound_require fun _ =>
      Answer.sound_accept (Ev.disturb_steady n _ ⟨s, [], []⟩).sound
  · exact Answer.sound_refuse

theorem actDisturbSection_sound (body : List Byte) (s : State) : (actDisturbSection body ⟨s, [], []⟩).Sound s := by
  unfold actDisturbSection
  split
  · exact Answer.sound_withArgument fun n => Answer.sound_require fun _ =>
      Answer.sound_accept (Ev.disturb_steady n _ ⟨s, [], []⟩).sound
  · exact Answer.sound_refuse

theorem actSetSectionParameters_sound (body : List Byte) (s : State) :
    (actSetSectionParameters body ⟨s, [], []⟩).Sound s := by
  have h : ∀ n d k p, (sectionParamsChecked n d k p ⟨s, [], []⟩).Sound s := fun n d k p =>
    Answer.sound_accept (Ev.setParams_steady n _ _ _ ⟨s, [], []⟩).sound
  unfold actSetSectionParameters
  split
  · refine Answer.sound_require fun _ => Answer.sound_withArgument fun n => ?_
    split
    · exact h _ _ _ _
    · exact Answer.sound_require fun _ => h _ _ _ _
  · exact Answer.sound_refuse

theorem actQuerySections_sound (body : List Byte) (s : State) : (actQuerySections body ⟨s, [], []⟩).Sound s := by
  unfold actQuerySections
  split
  · exact Answer.sound_withArgument fun n => Answer.sound_accept (Steady.refl s).sound
  · exact Answer.sound_refuse

theorem Ev.setTopology_sound (t : Table 16 TopologyEntry) (w : Ev) {s : State}
    (hs : s.device.state = .configuring ∨ s.device.state = .loading) (hd : w.s.device = s.device) (h : Sound s w.s) :
    Sound s (w.setTopology t).s := by
  have hne : w.s.device.state ≠ .running := by rw [hd]; rcases hs with e | e <;> simp [e]
  refine (h.trans (Ev.setTopology_holds t 0 w hne)).trans (.weaken (fun k q hx => ?_) _)
  rcases hx with hx | ⟨rfl, -⟩
  · exact hx
  · exact ⟨rfl, hs⟩

theorem actSetTopology_sound (body : List Byte) (s : State) : (actSetTopology body ⟨s, [], []⟩).Sound s := by
  unfold actSetTopology
  refine Answer.sound_require fun hd => ?_
  split
  · exact Answer.sound_refuse
  · exact Answer.sound_require fun _ => Answer.sound_withArgument fun l => Answer.sound_require fun _ =>
      Answer.sound_accept (Ev.setTopology_sound _ ⟨s, [], []⟩ (.inl (by simpa using hd)) rfl (Steady.refl s).sound)

theorem actSetPointMode_sound (body : List Byte) (s : State) : (actSetPointMode body ⟨s, [], []⟩).Sound s := by
  have h1 : ∀ p m, (modeReply p ((⟨s, [], []⟩ : Ev).changeMode p m).settle).Sound s := fun p m =>
    Answer.sound_settled (Ev.changeMode_keeps p m ⟨s, [], []⟩).sound
  have h2 : ∀ p, (modeReply p ⟨s, [], []⟩).Sound s := fun p => Answer.sound_accept (Steady.refl s).sound
  unfold actSetPointMode
  split
  · refine Answer.sound_require fun _ => Answer.sound_withArgument fun p => Answer.sound_withArgument fun m => ?_
    split
    · exact Answer.sound_accept (Ev.onPoint_alike (w := ⟨s, [], []⟩)
        (Point.SameStanding.alike ⟨rfl, rfl, rfl, rfl⟩ rfl .rfl)).sound
    · unfold changeModeCommand
      split
      · exact h2 p
      · exact h2 p
      · exact h2 p
      · exact h1 p _
      · exact h1 p _
      · exact h1 p _
      · exact h1 p _
      · exact Answer.sound_require fun _ => Answer.sound_require fun _ => Answer.sound_require fun _ =>
          Answer.sound_accept (Ev.changeMode_keeps p _ ⟨s, [], []⟩).sound
      · exact Answer.sound_refuse
  · exact Answer.sound_refuse

theorem actSetPointParameters_sound (body : List Byte) (s : State) :
    (actSetPointParameters body ⟨s, [], []⟩).Sound s := by
  unfold actSetPointParameters
  split
  · refine Answer.sound_require fun _ => Answer.sound_withArgument fun p => ?_
    unfold pointParamsChecked
    dsimp only
    split
    · exact Answer.sound_settled (Ev.onPoint_alike (w := ⟨s, [], []⟩)
        (Point.SameStanding.alike ⟨rfl, rfl, rfl, rfl⟩ rfl .rfl)).sound
    · exact Answer.sound_accept (Ev.onPoint_alike (w := ⟨s, [], []⟩)
        (Point.SameStanding.alike ⟨rfl, rfl, rfl, rfl⟩ rfl .rfl)).sound
  · exact Answer.sound_refuse

theorem actClearPointFault_sound (body : List Byte) (s : State) : (actClearPointFault body ⟨s, [], []⟩).Sound s := by
  unfold actClearPointFault
  split
  · exact Answer.sound_require fun _ => Answer.sound_withArgument fun p => Answer.sound_require fun hf =>
      Answer.sound_settled (Ev.clearFault_steady p ⟨s, [], []⟩ (by simpa using hf)).sound
  · exact Answer.sound_refuse

theorem actQueryPoints_sound (body : List Byte) (s : State) : (actQueryPoints body ⟨s, [], []⟩).Sound s := by
  unfold actQueryPoints
  split
  · exact Answer.sound_withArgument fun n => Answer.sound_accept (Steady.refl s).sound
  · exact Answer.sound_refuse

theorem actSetSupplyParameters_sound (body : List Byte) (s : State) :
    (actSetSupplyParameters body ⟨s, [], []⟩).Sound s := by
  unfold actSetSupplyParameters
  split
  · exact Answer.sound_require fun _ => Answer.sound_settled (Ev.setSupplyParams_steady _ ⟨s, [], []⟩).sound
  · exact Answer.sound_refuse

theorem actRecycleGroup_sound (body : List Byte) (s : State) : (actRecycleGroup body ⟨s, [], []⟩).Sound s := by
  unfold actRecycleGroup
  split
  · refine Answer.sound_require fun _ => Answer.sound_withArgument fun g => Answer.sound_require fun _ =>
      Answer.sound_require fun _ => ?_
    refine Answer.sound_settled (Steady.sound (Steady.trans ?_ (Ev.leaveGroup_steady _ _ _ _)))
    exact Ev.onSequencer_steady _ ⟨s, [], []⟩ (fun h => by cases h)
  · exact Answer.sound_refuse

theorem actForceSupply_sound (body : List Byte) (s : State) : (actForceSupply body ⟨s, [], []⟩).Sound s := by
  unfold actForceSupply
  split
  · exact Answer.sound_require fun _ => Answer.sound_withArgument fun g => Answer.sound_withArgument fun on =>
      Answer.sound_settled (Ev.leaveGroup_steady g _ _ ⟨s, [], []⟩).sound
  · exact Answer.sound_refuse

theorem actReleaseSupply_sound (body : List Byte) (s : State) : (actReleaseSupply body ⟨s, [], []⟩).Sound s := by
  unfold actReleaseSupply
  split
  · refine Answer.sound_require fun _ => Answer.sound_withArgument fun g => Answer.sound_require fun hm => ?_
    have hm : (s.group g).state = .manual := by simpa using hm
    exact Answer.sound_settled (Ev.releaseGroup_steady g ⟨s, [], []⟩ (by simp [hm])).sound
  · exact Answer.sound_refuse

/-- Values that carry no threshold leave the fault threshold, and a pair that is in order stays in order. -/
theorem DeviceParams.ordered_fault (d : DeviceParams) : d.ordered.fault = d.fault := by
  unfold DeviceParams.ordered; split <;> rfl

theorem DeviceParams.putAll_fault {items : List ParamItem} (h : carriesThreshold items = false) (d : DeviceParams) :
    (d.putAll items).fault = d.fault := by
  unfold DeviceParams.putAll
  induction items generalizing d with
  | nil => rfl
  | cons i l ih =>
    simp only [carriesThreshold, List.any_cons, Bool.or_eq_false_iff, beq_eq_false_iff_ne] at h
    rw [List.foldl_cons, ih h.2]
    exact (DeviceParams.get_put d i.code .fault _).trans (if_neg fun e => h.1.2 e.symm)

theorem actSetDeviceParameters_sound (body : List Byte) (s : State) :
    (actSetDeviceParameters body ⟨s, [], []⟩).Sound s := by
  unfold actSetDeviceParameters
  refine Answer.sound_require fun _ => ?_
  split
  · exact Answer.sound_refuse
  · refine Answer.sound_require fun _ => Answer.sound_withArgument fun l => Answer.sound_require fun _ =>
      Answer.sound_settled (Keeps.sound ?_)
    refine Ev.setDeviceParams_keeps _ _ ⟨s, [], []⟩
      (fun h => DeviceParams.ordered_ok (DeviceParams.putAll_inRange h.1 l)) ?_
    cases hc : carriesThreshold l
    · exact .inr ((DeviceParams.ordered_fault _).trans (DeviceParams.putAll_fault hc _))
    · exact .inl rfl

theorem actStart_sound (body : List Byte) (s : State) : (actStart body ⟨s, [], []⟩).Sound s := by
  unfold actStart
  refine Answer.sound_require fun _ => Answer.sound_require fun hd => ?_
  split
  · exact Answer.sound_refuse
  · have hd : s.device.state = .configuring := by simpa using hd
    refine Answer.sound_settled (Keeps.sound (Keeps.trans (Steady.keeps ?_) (Ev.beginStart_keeps _)))
    exact Ev.onDevice_steady _ ⟨s, [], []⟩ (.inr ⟨by simp, .inl (by simp [hd])⟩)

theorem foldl_device {α : Type} (f : α → Ev → Ev) (h : ∀ a v, (f a v).s.device = v.s.device) (l : List α) (w : Ev) :
    (l.foldl (fun v a => f a v) w).s.device = w.s.device := by
  induction l generalizing w with
  | nil => rfl
  | cons a l ih => rw [List.foldl_cons, ih, h]

theorem Ev.halt_steady (w : Ev) : Steady w.s w.halt.s := by
  unfold Ev.halt
  dsimp only
  have hsections : Steady w.s w.haltSections.s := Steady.foldl _ (fun v n => Ev.disturb_steady n _ v) _ w
  have hdevice : Steady w.haltSections.s (w.haltSections.onDevice (fun d => { d with state := .halting })).s :=
    Ev.onDevice_steady _ _ (.inr ⟨by simp, .inr (Ev.haltSections_untrusted w)⟩)
  refine ((hsections.trans hdevice).trans (Steady.foldl _ (fun v p => Ev.disturbAll_steady p _ v) _ _)).trans
    (Ev.startPowerOff_steady _ ?_)
  rw [foldl_device (fun p v => v.disturbAll p .deviceHalt) (fun p v => Ev.disturbAll_device p _ v), Ev.onDevice_s]; simp

theorem actHalt_sound (body : List Byte) (s : State) : (actHalt body ⟨s, [], []⟩).Sound s :=
  Answer.sound_require fun _ => Answer.sound_require fun _ => Answer.sound_settled (Ev.halt_steady ⟨s, [], []⟩).sound

theorem Ev.beginWrite_steady (image : List Byte) (address : Nat) (w : Ev) : Steady w.s (w.beginWrite image address).s :=
  (Ev.choose_steady w).trans (Ev.onDevice_steady _ w.choose (.inl rfl))

theorem actStoreImage_sound (body : List Byte) (s : State) : (actStoreImage body ⟨s, [], []⟩).Sound s := by
  unfold actStoreImage
  split
  · exact Answer.sound_require fun _ => Answer.sound_require fun _ => Answer.sound_withArgument fun b =>
      Answer.sound_accept (Ev.beginWrite_steady _ _ ⟨s, [], []⟩).sound
  · exact Answer.sound_refuse

theorem actDeviceRecord_sound (body : List Byte) (s : State) : (actDeviceRecord body ⟨s, [], []⟩).Sound s :=
  Answer.sound_accept (Steady.refl s).sound

theorem State.setControlParams_resembles (b r p t : Nat) (s : State) : Resembles s (s.setControlParams b r p t) :=
  AllButPorts.resembles (t := s.setControlParams b r p t) rfl

theorem State.setServiceParams_resembles (b r : Nat) (s : State) : Resembles s (s.setServiceParams b r) :=
  AllButPorts.resembles (t := s.setServiceParams b r) rfl

theorem State.loadPorts_resembles (c : Configuration) (s : State) : Resembles s (s.loadPorts c) :=
  AllButPorts.resembles (t := s.loadPorts c) rfl

theorem State.traceSet_resembles (r : Trace) (s : State) : Resembles s { s with trace := r } :=
  AllButPorts.resembles (t := { s with trace := r }) rfl

theorem actSetPortParameters_sound (body : List Byte) (s : State) :
    (actSetPortParameters body ⟨s, [], []⟩).Sound s := by
  unfold actSetPortParameters
  split
  · refine Answer.sound_require fun _ => Answer.sound_withArgument fun q => ?_
    unfold portParamsChecked
    dsimp only
    split
    · exact Answer.sound_accept (State.setControlParams_resembles _ _ _ _ s).steady.sound
    · exact Answer.sound_accept (State.setServiceParams_resembles _ _ s).steady.sound
  · exact Answer.sound_refuse

theorem actSetReportMask_sound (i : PortId) (body : List Byte) (s : State) :
    (actSetReportMask i body ⟨s, [], []⟩).Sound s := by
  unfold actSetReportMask
  split
  · exact Answer.sound_withArgument fun m => Answer.sound_accept (State.onPort_resembles i _ s).steady.sound
  · exact Answer.sound_refuse

theorem actSetTrace_sound (body : List Byte) (s : State) : (actSetTrace body ⟨s, [], []⟩).Sound s := by
  unfold actSetTrace
  split
  · exact Answer.sound_require fun _ => Answer.sound_accept (State.traceSet_resembles _ s).steady.sound
  · exact Answer.sound_refuse

/-! ## The image load -/

theorem Ev.loadPoint_steady (c : PointConfig) (p : PointId) (w : Ev) : Steady w.s (w.loadPoint c p).s :=
  Ev.onPoint_alike (Point.SameStanding.alike ⟨rfl, rfl, rfl, rfl⟩ rfl .rfl)

theorem Ev.loadSection_steady (c : SectionParams) (n : SectionId) (w : Ev) : Steady w.s (w.loadSection c n).s :=
  Ev.setParams_steady n _ _ _ w

theorem Ev.loadSupplies_steady (q : SupplyParams) (w : Ev) : Steady w.s (w.loadSupplies q).s :=
  Ev.onSequencer_steady (fun p => { p with params := q }) w .inl

theorem Ev.loadPoints_device (f : PointId → PointConfig) (l : List PointId) (w : Ev) :
    (l.foldl (fun w p => w.loadPoint (f p) p) w).s.device = w.s.device :=
  foldl_device (fun p v => v.loadPoint (f p) p) (fun p _ => (Ev.onPoint_changes (.loaded (f p).startMode (f p).params)).device) l w

theorem Ev.loadSections_device (f : SectionId → SectionParams) (l : List SectionId) (w : Ev) :
    (l.foldl (fun w n => w.loadSection (f n) n) w).s.device = w.s.device :=
  foldl_device (fun n v => v.loadSection (f n) n) (fun n v => Ev.onSection_device n _ v) l w

/-- The configuration but for its table: no section gains or loses a member. -/
theorem Ev.loadDevice_keeps (c : Configuration) (w : Ev) (hc : c.device.Ok) :
    Keeps w.s ((w.setDeviceParams c.device true).loadSupplies c.supplies).s :=
  (Ev.setDeviceParams_keeps c.device true w (fun _ => hc) (.inl rfl)).trans
    (Ev.loadSupplies_steady c.supplies (w.setDeviceParams c.device true)).keeps

theorem Ev.loadDevice_device (c : Configuration) (w : Ev) (hc : c.device.Ok) :
    ((w.setDeviceParams c.device true).loadSupplies c.supplies).s.device = w.s.device := by
  have h := (Ev.setDeviceParams_changes c.device true w (fun _ => hc)).device
  generalize w.setDeviceParams c.device true = v at h ⊢
  exact h

theorem Ev.loadParts_sound (f : PointId → PointConfig) (g : SectionId → SectionParams) (lp : List PointId)
    (ls : List SectionId) (w : Ev) :
    Steady w.s (ls.foldl (fun w n => w.loadSection (g n) n) (lp.foldl (fun w p => w.loadPoint (f p) p) w)).s :=
  (Steady.foldl _ (fun u p => Ev.loadPoint_steady (f p) p u) lp w).trans
    (Steady.foldl _ (fun u n => Ev.loadSection_steady (g n) n u) ls _)

theorem Ev.applyConfiguration_sound (c : Configuration) (w : Ev) (hc : c.device.Ok) (hl : w.s.device.state = .loading) :
    Sound w.s (w.applyConfiguration c).s ∧ (w.applyConfiguration c).s.device = w.s.device := by
  have hparams := Ev.loadDevice_keeps c w hc
  have hparamsDevice := Ev.loadDevice_device c w hc
  unfold Ev.applyConfiguration
  dsimp only
  generalize (w.setDeviceParams c.device true).loadSupplies c.supplies = v at hparams hparamsDevice ⊢
  generalize hu : ({ v with s := v.s.loadPorts c } : Ev) = u
  have hports : Steady v.s u.s := by rw [← hu]; exact (State.loadPorts_resembles c v.s).steady
  have hportsDevice : u.s.device = v.s.device := by rw [← hu]; rfl
  have hparts := Ev.loadParts_sound (fun p => c.points.get p) (fun n => c.sections.get n) allPoints allSections u
  have hdevice : (allSections.foldl (fun w n => w.loadSection (c.sections.get n) n)
      (allPoints.foldl (fun w p => w.loadPoint (c.points.get p) p) u)).s.device = w.s.device :=
    (Ev.loadSections_device _ _ _).trans
      ((Ev.loadPoints_device (fun p => c.points.get p) allPoints u).trans (hportsDevice.trans hparamsDevice))
  generalize allSections.foldl (fun w n => w.loadSection (c.sections.get n) n)
      (allPoints.foldl (fun w p => w.loadPoint (c.points.get p) p) u) = x at hparts hdevice ⊢
  exact ⟨Ev.setTopology_sound _ _ (.inr hl) hdevice ((hparams.sound.steady hports).steady hparts),
    (Ev.setTopology_changes _ _).device.trans hdevice⟩

theorem Ev.completeLoad_sound (m : MemoryRead) (w : Ev) (hl : w.s.device.state = .loading) :
    Sound w.s (w.completeLoad m).s := by
  unfold Ev.completeLoad
  split
  · rename_i body _
    obtain ⟨h1, h2⟩ := Ev.applyConfiguration_sound (Configuration.ofBody body).1 w (DeviceParams.clamped_ok _) hl
    dsimp only
    generalize w.applyConfiguration (Configuration.ofBody body).1 = v at h1 h2 ⊢
    have hv : v.s.device.state ≠ .running := by rw [h2, hl]; simp
    split
    · exact h1.steady (Ev.onDevice_steady _ v (.inr ⟨by simp, .inl hv⟩))
    · exact h1.steady (Ev.onDevice_steady _ v (.inr ⟨by simp, .inl hv⟩))
    · exact (h1.steady (Ev.onDevice_steady _ v (.inr ⟨by simp, .inl hv⟩))).keeps (Ev.beginStart_keeps _)
  · exact (Ev.onDevice_steady _ w (.inr ⟨by simp, .inl (by rw [hl]; simp)⟩)).sound

/-! ## Every command -/

/-- A meaning that answers a next state soundly. -/
def SoundTo (s : State) (o : Host.Outcome State Fault Refusal) : Prop := ∀ t, o = .next t → Sound s t

section
variable {s : State}

theorem SoundTo.of {t : State} (h : Sound s t) : SoundTo s (.next t) := fun _ e => by cases e; exact h
theorem SoundTo.stay : SoundTo s (.next s) := .of (Steady.refl s).sound

theorem SoundTo.event {f : Ev → Ev} (h : Keeps s (f ⟨s, [], []⟩).s) : SoundTo s (.next (runEvent f s)) :=
  .of (runEvent_sound h.sound)

theorem SoundTo.settled {f : Ev → Ev} (h : Keeps s (f ⟨s, [], []⟩).s) :
    SoundTo s (.next (runEvent (fun w => (f w).settle) s)) :=
  .of (runEvent_sound (h.sound.steady (Ev.settle_steady _)))

theorem SoundTo.ifSettled {b : Prop} [Decidable b] {f : Ev → Ev} (h : b → Keeps s (f ⟨s, [], []⟩).s) :
    SoundTo s (if b then .next (runEvent (fun w => (f w).settle) s) else .next s) := by
  split
  · rename_i hb; exact .settled (h hb)
  · exact .stay

theorem SoundTo.ifPort {b : Prop} [Decidable b] {t : State} (h : Resembles s t) :
    SoundTo s (if b then .next t else .next s) := by
  split
  · exact .of h.steady.sound
  · exact .stay

theorem SoundTo.command {kind : Byte} {pm : Permitted} {fits : Nat → Bool} {act : List Byte → Ev → Answer}
    {i : PortId} {tag : Byte} {body : List Byte} (h : ∀ s, (act body ⟨s, [], []⟩).Sound s) :
    SoundTo s (.next (takeCommand kind pm fits act i tag body s)) := .of (takeCommand_sound h)

end

theorem execUnknownCommand_sound (i : PortId) (kind tag : Byte) (body : List Byte) (s : State) :
    SoundTo s (execUnknownCommand i kind tag body s) := by
  unfold execUnknownCommand
  dsimp only
  split
  · exact .of ((State.frameTaken_resembles i s).sound ((State.onPort_resembles i _ _).sound
      (runEvent_sound (Steady.refl _).sound)))
  · exact .of ((State.frameTaken_resembles i s).sound (Answer.conclude_sound Answer.sound_refuse))

theorem takeFrame_sound (i : PortId) (kind tag : Byte) (body : List Byte) (s : State) :
    SoundTo s (takeFrame i kind tag body s) := by
  unfold takeFrame
  split
  · exact .command (actRestoreSection_sound body)
  · exact .command (actCancelRestore_sound body)
  · exact .command (actDeviceRecord_sound body)
  · exact .command (actDeviceRecord_sound body)
  · exact .command (actQuerySections_sound body)
  · exact .command (actQueryPoints_sound body)
  · exact .command (actDisturbSection_sound body)
  · exact .command (actSetReportMask_sound i body)
  · exact .command (actSetTopology_sound body)
  · exact .command (actSetPointMode_sound body)
  · exact .command (actSetPointParameters_sound body)
  · exact .command (actClearPointFault_sound body)
  · exact .command (actSetSectionParameters_sound body)
  · exact .command (actSetDeviceParameters_sound body)
  · exact .command (actSetSupplyParameters_sound body)
  · exact .command (actSetPortParameters_sound body)
  · exact .command (actSetTrace_sound body)
  · exact .command (actStart_sound body)
  · exact .command (actHalt_sound body)
  · exact .command (actStoreImage_sound body)
  · exact .command (actRecycleGroup_sound body)
  · exact .command (actForceSupply_sound body)
  · exact .command (actReleaseSupply_sound body)
  · exact execUnknownCommand_sound i kind tag body s

end Sys2Proof.Machine
end

section
/-! What every step keeps between the points, the sections and the proofs, and the invariants settled with it: O5, O7, O8,
O10, O11, O12 and, read off them, O13. -/

namespace Sys2Proof.Machine

/-! ## Every command -/

theorem timerReached_isSome {now : Time} {t : Option Timer} (h : timerReached now t = true) : t.isSome = true := by
  cases t with
  | none => cases h
  | some t => rfl

theorem groupDue_state {s : State} {g : GroupId} {st : GroupState} (h : groupDue s g st = true) : (s.group g).state = st := by
  simp only [groupDue, Bool.and_eq_true, beq_iff_eq] at h
  exact h.1

theorem State.onPort_soundTo (i : PortId) (f : Port → Port) (s : State) : SoundTo s (.next (s.onPort i f)) :=
  .of (State.onPort_resembles i f s).steady.sound

theorem State.linkSet_resembles (l : Link) (s : State) : Resembles s { s with link := l } :=
  AllButPorts.resembles (t := { s with link := l }) rfl

theorem State.outputsSet_resembles (o : Outputs) (s : State) : Resembles s { s with outputs := o } :=
  ⟨fun _ => .refl _, rfl, rfl, rfl, fun _ => .rfl, rfl, rfl, rfl, rfl, .inl⟩

theorem State.lapseSet_resembles (b : Bool) (s : State) : Resembles s { s with writeLapsed := b } :=
  ⟨fun _ => .refl _, rfl, rfl, rfl, fun _ => .rfl, rfl, rfl, rfl, rfl, .inl⟩

theorem Ev.leakExpiry_keeps (w : Ev) : Keeps w.s w.leakExpiry.s :=
  (State.leakTimer_steady w.s w.s.leakTimer.again).keeps.trans
    (Ev.leak_keeps { w with s := { w.s with leakTimer := w.s.leakTimer.again } })

theorem Ev.endStore_steady (r : StoreResult) (w : Ev) : Steady w.s (w.endStore r).s := Ev.onDevice_steady _ w (.inl rfl)

theorem exec_sound (c : Instr) (s : State) (hc : c ≠ .reset) : SoundTo s (exec c s) := by
  cases c
  case reset => exact absurd rfl hc
  case acceptedChange p lines t => exact .settled (Ev.acceptedChange_keeps p lines t ⟨s, [], []⟩)
  case glitch p x start length => exact .settled (Ev.glitch_keeps p x start length ⟨s, [], []⟩)
  case quietTimerExpiry p =>
    show SoundTo s (execQuietTimerExpiry p s)
    unfold execQuietTimerExpiry
    split
    · rename_i h _ _
      exact .ifSettled fun _ => Ev.quietExpiry_keeps p _ _ ⟨s, [], []⟩ h
    · exact .stay
  case leakTimerExpiry => exact .ifSettled fun _ => Ev.leakExpiry_keeps ⟨s, [], []⟩
  case dueTimerExpiry p x =>
    exact .ifSettled fun h => (Ev.dueExpiry_steady p x ⟨s, [], []⟩
      (Option.isSome_iff_ne_none.mp (timerReached_isSome h))).keeps
  case overdueTimerExpiry p x =>
    show SoundTo s (execOverdueTimerExpiry p x s)
    unfold execOverdueTimerExpiry
    split
    · exact .event (Ev.overdueExpiry_steady p x ⟨s, [], []⟩).keeps
    · exact .stay
  case assertWindowExpiry =>
    show SoundTo s (execAssertWindowExpiry s)
    unfold execAssertWindowExpiry
    split
    · exact .stay
    · exact .ifSettled fun _ => Ev.failProof_keeps _ _ ⟨s, [], []⟩
  case releaseWindowExpiry =>
    show SoundTo s (execReleaseWindowExpiry s)
    unfold execReleaseWindowExpiry
    split
    · exact .stay
    · exact .ifSettled fun _ => Ev.failProof_keeps _ _ ⟨s, [], []⟩
  case abortWaitExpiry =>
    show SoundTo s (execAbortWaitExpiry s)
    unfold execAbortWaitExpiry
    split
    · exact .stay
    · exact .ifSettled fun _ => (Ev.decideAbort_steady _ ⟨s, [], []⟩).keeps
  case clearDelayExpiry n =>
    show SoundTo s (execClearDelayExpiry n s)
    unfold execClearDelayExpiry
    split
    · rename_i h
      have h : (s.sec n).state = .clearing ∧ timerReached s.now (s.sec n).clearTimer = true := by simpa using h
      exact .event (Ev.expiryCheck_steady n ⟨s, [], []⟩ h.1 (timerReached_isSome h.2)).keeps
    · exact .stay
  case holdoffTimerExpiry n =>
    show SoundTo s (execHoldoffTimerExpiry n s)
    unfold execHoldoffTimerExpiry
    split
    · exact .event (Steady.onSection (w := ⟨s, [], []⟩) .holdoff (fun _ => id) (fun _ => id)).keeps
    · exact .stay
  case supplyGoodChange g => exact .settled (Ev.supplyGoodChange_steady g ⟨s, [], []⟩).keeps
  case supplyGoodTimeout g =>
    exact .ifSettled fun h => (Ev.onGroup_steady (w := ⟨s, [], []⟩) (by rw [groupDue_state h]; simp)).keeps
  case settleTimerExpiry g => exact .ifSettled fun _ => (Ev.enterReady_steady g ⟨s, [], []⟩).keeps
  case offTimeExpiry g =>
    exact .ifSettled fun h => (Ev.offTimeExpiry_steady g ⟨s, [], []⟩ (by rw [groupDue_state h]; simp)).keeps
  case turnTimerExpiry =>
    show SoundTo s (execTurnTimerExpiry s)
    unfold execTurnTimerExpiry
    split
    · exact .ifSettled fun _ => (Ev.turn_steady _ _ ⟨s, [], []⟩).keeps
    · exact .ifSettled fun _ => (Ev.turn_steady _ _ ⟨s, [], []⟩).keeps
    · exact .stay
  case phaseTimerExpiry => exact .ifPort (State.outputsSet_resembles _ s)
  case gapTimerExpiry i => exact .ifPort (State.onPort_resembles i _ s)
  case frameDiscarded i reason => exact State.onPort_soundTo i _ s
  case refillTimerExpiry i =>
    show SoundTo s (execRefillTimerExpiry i s)
    unfold execRefillTimerExpiry
    split
    · exact .event (State.onPort_resembles i _ s).steady.keeps
    · exact .stay
  case imageTimerExpiry =>
    show SoundTo s (execImageTimerExpiry s)
    unfold execImageTimerExpiry
    split
    · exact .event (State.linkSet_resembles _ s).steady.keeps
    · exact .stay
  case linkTimerExpiry => exact .ifPort (State.linkSet_resembles _ s)
  case transmitComplete i =>
    show SoundTo s (execTransmitComplete i s)
    unfold execTransmitComplete
    split
    · exact .event (State.onPort_resembles i (fun q => { q with sending := none }) s).steady.keeps
    · exact .stay
  case imageLoadComplete m =>
    show SoundTo s (execImageLoadComplete m s)
    unfold execImageLoadComplete
    split
    · rename_i h
      exact .of (runEvent_sound ((Ev.completeLoad_sound m ⟨s, [], []⟩ (by simpa using h)).steady (Ev.settle_steady _)))
    · exact .stay
  case storeWriteAck =>
    show SoundTo s (execStoreWriteAck s)
    unfold execStoreWriteAck
    split
    · exact .event (Ev.beginWrite_steady _ _ ⟨s, [], []⟩).keeps
    · exact .stay
    · exact .stay
  case storeDone =>
    show SoundTo s (execStoreDone s)
    unfold execStoreDone
    split
    · exact .event (Ev.endStore_steady _ ⟨s, [], []⟩).keeps
    · exact .stay
    · exact .stay
  case storeFailed =>
    have taken := State.lapseSet_resembles false s
    show SoundTo s (execStoreFailed s)
    unfold execStoreFailed
    dsimp only
    split
    · split
      · exact .of taken.steady.sound
      · exact .of (taken.sound (runEvent_sound (Ev.endStore_steady _ ⟨_, [], []⟩).sound))
    · exact .of taken.steady.sound
  case unknownCommand i kind tag body => exact execUnknownCommand_sound i kind tag body s
  case restoreSection i tag body => exact .command (actRestoreSection_sound body)
  case cancelRestore i tag body => exact .command (actCancelRestore_sound body)
  case queryDevice i tag body => exact .command (actDeviceRecord_sound body)
  case linkCheck i tag body => exact .command (actDeviceRecord_sound body)
  case querySections i tag body => exact .command (actQuerySections_sound body)
  case queryPoints i tag body => exact .command (actQueryPoints_sound body)
  case disturbSection i tag body => exact .command (actDisturbSection_sound body)
  case setReportMask i tag body => exact .command (actSetReportMask_sound i body)
  case setTopology i tag body => exact .command (actSetTopology_sound body)
  case setPointMode i tag body => exact .command (actSetPointMode_sound body)
  case setPointParameters i tag body => exact .command (actSetPointParameters_sound body)
  case clearPointFault i tag body => exact .command (actClearPointFault_sound body)
  case setSectionParameters i tag body => exact .command (actSetSectionParameters_sound body)
  case setDeviceParameters i tag body => exact .command (actSetDeviceParameters_sound body)
  case setSupplyParameters i tag body => exact .command (actSetSupplyParameters_sound body)
  case setPortParameters i tag body => exact .command (actSetPortParameters_sound body)
  case setTrace i tag body => exact .command (actSetTrace_sound body)
  case start i tag body => exact .command (actStart_sound body)
  case halt i tag body => exact .command (actHalt_sound body)
  case storeImage i tag body => exact .command (actStoreImage_sound body)
  case recycleGroup i tag body => exact .command (actRecycleGroup_sound body)
  case forceSupply i tag body => exact .command (actForceSupply_sound body)
  case releaseSupply i tag body => exact .command (actReleaseSupply_sound body)
  case characterReceived i ch =>
    show SoundTo s (execCharacterReceived i ch s)
    unfold execCharacterReceived
    split
    · exact State.onPort_soundTo i _ s
    · exact State.onPort_soundTo i _ s
    · exact takeFrame_sound _ _ _ _ _

/-! ## Every step but a reset -/

theorem State.tick_resembles (s : State) : Resembles s s.tick := by
  obtain ⟨htop, hview, hsec, hseq, hdev, hpar, -, hch, hq, -⟩ := s.tick_kept
  refine ⟨fun p => ?_, htop, hview, hsec, fun g => ?_, by rw [hdev], hpar, by rw [hch], hq, fun h => .inl (hseq ▸ h)⟩
  · obtain ⟨a, b, h⟩ := s.tick_point p
    rw [h]
    exact Point.SameStanding.alike ⟨rfl, rfl, rfl, rfl⟩ rfl .rfl
  · rw [s.tick_group]; rfl

theorem State.popped_resembles (l : List Instr) (s : State) : Resembles s { s with pending := l } :=
  ⟨fun _ => .refl _, rfl, rfl, rfl, fun _ => .rfl, rfl, rfl, rfl, rfl, .inl⟩

/-- A step is a reset, or sound work. -/
theorem step_sound {s t : State} (h : step s = .next t) :
    (∃ u : State, s.pending.head? = some .reset ∧ t = u.resetAgain) ∨ Sound s t := by
  rcases step_cases h with ⟨-, rfl⟩ | ⟨rest, hp, rfl⟩ | ⟨c, rest, -, hc, he, -⟩
  · exact .inr s.tick_resembles.steady.sound
  · exact .inl ⟨_, by rw [hp]; rfl, rfl⟩
  · exact .inr ((State.popped_resembles rest s).sound (exec_sound c _ hc t he))

/-! ## The invariants without flaws -/

theorem tableFlaw_table {s : State} {k : Flaw} {p : PointId} (h : tableFlaw s k p) : k = .table := h.1

theorem levelsBut_of_ok {X : Flaws} {s : State} (h : s.LevelsOk) : LevelsBut X s := fun p hp => .inl (h p hp)

theorem LevelsBut.ok {s u : State} (h : LevelsBut (tableFlaw u) s) : s.LevelsOk := fun p hp =>
  (h p hp).resolve_right fun hf => by cases tableFlaw_table hf

theorem eligibleBut_of_ok {X : Flaws} {s : State} (h : s.EligibleOk) : EligibleBut X s := by
  obtain ⟨hqueue, hchannel, hrest⟩ := h
  refine ⟨fun x hx => .inl (hqueue x hx), fun pr hpr => .inl (hchannel pr hpr), fun p => ?_⟩
  cases he : eligible s p with
  | true => exact .inl rfl
  | false => exact .inr (.inr fun x => hrest p x he)

theorem EligibleBut.ok {s u : State} (h : EligibleBut (tableFlaw u) s) : s.EligibleOk := by
  obtain ⟨hqueue, hchannel, hrest⟩ := h
  have hno : ∀ p, ¬tableFlaw u .elig p := fun p hf => by cases tableFlaw_table hf
  refine ⟨fun x hx => (hqueue x hx).resolve_right (hno _), fun pr hpr => (hchannel pr hpr).resolve_right (hno _),
    fun p x he => ?_⟩
  have := ((hrest p).resolve_left (by simp [he])).resolve_left (hno _)
  exact this x

theorem viewBut_of_ok {X : Flaws} {s : State} (h : s.ViewOk) : ViewBut X s := fun p => by
  obtain ⟨hactive, hoverdue⟩ := h p
  exact ⟨.inr ⟨hactive.mpr, fun ha => .inl (hactive.mp ha)⟩, .inr (Bool.eq_iff_iff.mpr hoverdue)⟩

theorem ViewBut.ok {s u : State} (h : ViewBut (tableFlaw u) s) : s.ViewOk := fun p => by
  have hno : ∀ k, k ≠ .table → ¬tableFlaw u k p := fun k hk hf => hk (tableFlaw_table hf)
  obtain ⟨hactive, hoverdue⟩ := h p
  obtain ⟨hup, hdown⟩ := hactive.resolve_left (hno _ (by simp))
  exact ⟨⟨fun ha => (hdown ha).resolve_right (hno _ (by simp)), hup⟩,
    Bool.eq_iff_iff.mp (hoverdue.resolve_left (hno _ (by simp)))⟩

theorem counting_iff (s : State) (p : PointId) :
    counting s p = true ↔ wasCounting s p = true ∧ lit s p = true := by
  simp only [counting, wasCounting, Bool.and_eq_true]
  tauto

theorem membersBut_of_ok {X : Flaws} {s : State} (h : s.MembersOk) : MembersBut X s := fun n p ht hp => by
  obtain ⟨hcounting, hlit⟩ := (counting_iff s p).mp (h n ht p hp)
  exact .inr ⟨hcounting, .inl hlit⟩

theorem MembersBut.ok {s u : State} (h : MembersBut (tableFlaw u) s) : s.MembersOk := fun n ht p hp => by
  have hno : ∀ k, k ≠ .table → ¬tableFlaw u k p := fun k hk hf => hk (tableFlaw_table hf)
  obtain ⟨hcounting, hlit⟩ := (h n p ht hp).resolve_left (hno _ (by simp))
  exact (counting_iff s p).mpr ⟨hcounting, hlit.resolve_right (hno _ (by simp))⟩

/-! ## After a reset -/

theorem State.resetAgain_pointsOk (s : State) : s.resetAgain.PointsOk := fun p => by
  rw [s.resetAgain_point]; exact Point.reset_ok _ _

theorem State.resetAgain_levelsOk (s : State) : s.resetAgain.LevelsOk := fun p hp => by
  rw [s.resetAgain_point] at hp
  exact absurd hp (by simp [Point.reset, State.resetAgain, State.afterReset])

theorem State.resetAgain_eligibleOk (s : State) : s.resetAgain.EligibleOk := by
  refine ⟨fun x hx => (List.not_mem_nil hx).elim, fun pr hpr => (Option.some_ne_none pr hpr.symm).elim, fun p x _ => ?_⟩
  rw [s.resetAgain_point]
  cases x <;> exact ⟨rfl, rfl, rfl, rfl⟩

theorem State.resetAgain_viewOk (s : State) : s.resetAgain.ViewOk := fun p => by
  rw [s.resetAgain_view, s.resetAgain_point]
  exact ⟨by simp [Point.reset], by simp [Point.reset, Point.overdueIndication, ProofStatus.reset]⟩

theorem State.resetAgain_untrusted (s : State) (n : SectionId) : (s.resetAgain.sec n).state = .unused := by
  rw [s.resetAgain_sec]; rfl

theorem State.resetAgain_membersOk (s : State) : s.resetAgain.MembersOk := fun n ht => by
  rw [s.resetAgain_untrusted] at ht; cases ht

theorem State.resetAgain_quietOk (s : State) : s.resetAgain.QuietOk := fun n => by
  rw [s.resetAgain_untrusted]; exact ⟨by simp, by simp⟩

theorem State.resetAgain_groupsOk (s : State) : s.resetAgain.GroupsOk := fun g => by
  rw [s.resetAgain_group]; exact Group.reset_ok _

theorem State.resetAgain_linesOk (s : State) : s.resetAgain.LinesOk :=
  State.afterReset_linesOk (s.points.map (fun pt => Point.reset pt.lineA.pinLow pt.lineB.pinLow))
    (s.groups.map (fun g => Group.reset g.pinHigh)) s.straps s.pending s.choices

theorem State.resetAgain_proofsOk (s : State) : s.resetAgain.ProofsOk := ⟨List.nodup_nil, fun pr hpr => by cases hpr⟩

theorem State.resetAgain_safe (s : State) : s.resetAgain.Safe :=
  ⟨s.resetAgain_pointsOk, s.resetAgain_sectionsOk, s.resetAgain_groupsOk, s.resetAgain_outputsOk, s.resetAgain_trustOk,
    s.resetAgain_proofsOk, DeviceParams.atReset_ok, s.resetAgain_linesOk, s.resetAgain_viewOk, s.resetAgain_membersOk,
    s.resetAgain_quietOk⟩

/-- The state after reset is what a reset makes of it. -/
theorem State.reset_resetAgain : State.reset.resetAgain = State.reset := rfl

/-! ## The obligations -/

/-- Settles O5: a level raised is evaluated before the event is done, and a threshold lowered evaluates every point. -/
theorem everyStepKeepsPointRecords : Obligations.EveryStepKeepsPointRecords := by
  unfold Obligations.EveryStepKeepsPointRecords
  refine ⟨fun s t hs h => everyStepKeepsPointsOk hs h, fun s t hp hl h => ?_⟩
  rcases step_sound h with ⟨u, -, rfl⟩ | hsound
  · exact u.resetAgain_levelsOk
  · exact (hsound.levels hp (levelsBut_of_ok hl)).ok

/-- Settles O7: what ends a point's eligibility ends its epochs and empties the queue and the channel of it. -/
theorem everyStepKeepsGroupsOutputsProofsAndParameters : Obligations.EveryStepKeepsGroupsOutputsProofsAndParameters := by
  unfold Obligations.EveryStepKeepsGroupsOutputsProofsAndParameters
  refine ⟨fun s t hs h => everyStepKeepsGroupsOk hs h, fun s t hs h => everyStepKeepsOutputsOk hs h,
    fun s t hs h => everyStepKeepsProofsOk hs h, fun s t hs h => ?_, fun s t hs h => everyStepKeepsParamsOk hs h⟩
  rcases step_sound h with ⟨u, -, rfl⟩ | hsound
  · exact u.resetAgain_eligibleOk
  · exact (hsound.eligible (eligibleBut_of_ok hs)).ok

/-- Settles O8: what stops a point from counting disturbs its sections in the same event, and the table is replaced in
CONFIGURING and LOADING alone. -/
theorem everyStepKeepsTrustedMembersCounting : Obligations.EveryStepKeepsTrustedMembersCounting := by
  unfold Obligations.EveryStepKeepsTrustedMembersCounting
  refine ⟨fun s t hok hs h => everyStepKeepsTrustOk hok hs h, fun s t hok hs hm h => ?_, fun s t hc hl hr h => ?_⟩
  · rcases step_sound h with ⟨u, -, rfl⟩ | hsound
    · exact u.resetAgain_membersOk
    · exact (hsound.members ⟨hok, hs⟩ (membersBut_of_ok hm)).ok
  · rcases step_sound h with ⟨u, hreset, -⟩ | hsound
    · exact absurd hreset hr
    · rcases hsound.topology with ⟨p, -, hp⟩ | ⟨htopology, -⟩
      · exact absurd hp (by simp [hc, hl])
      · exact htopology

/-- Settles O10. -/
theorem everyStepKeepsThePointView : Obligations.EveryStepKeepsThePointView := by
  unfold Obligations.EveryStepKeepsThePointView
  intro s t _ hv h
  rcases step_sound h with ⟨u, -, rfl⟩ | hsound
  · exact u.resetAgain_viewOk
  · exact (hsound.view (viewBut_of_ok hv)).ok

/-- Settles O11. -/
theorem everyStepKeepsClearSectionsQuiet : Obligations.EveryStepKeepsClearSectionsQuiet := by
  unfold Obligations.EveryStepKeepsClearSectionsQuiet
  rintro s t ⟨-, hsections, -, -, htrust, -, -, -, hv, -, hq⟩ h
  rcases step_sound h with ⟨u, -, rfl⟩ | hsound
  · exact u.resetAgain_quietOk
  · exact hsound.quiet ⟨hsections, htrust⟩ (viewBut_of_ok hv) hq

/-- Settles O12. -/
theorem theStateAfterResetIsSafe : Obligations.TheStateAfterResetIsSafe := by
  unfold Obligations.TheStateAfterResetIsSafe
  rw [← State.reset_resetAgain]
  exact ⟨State.resetAgain_safe _, State.resetAgain_eligibleOk _, State.resetAgain_levelsOk _⟩

/-- Settles O13: a high output is out of LOW, so its section is CLEAR; its members count, and none is active or overdue in
the view, which follows the points. -/
theorem aHighClearOutputStandsForAnEmptyProvenSection : Obligations.AHighClearOutputStandsForAnEmptyProvenSection := by
  unfold Obligations.AHighClearOutputStandsForAnEmptyProvenSection
  rintro s n ⟨-, hsections, -, ⟨hclr, -⟩, ⟨htrust, -⟩, -, -, -, hview, hmembers, hquiet⟩ hhigh
  have hclear : (s.sec n).state = .clear := (hclr n).mp fun hlow => by simp [clrLevel, hlow] at hhigh
  have htrusted : (s.sec n).state.trusted = true := by rw [hclear]; rfl
  have hrunning : s.device.state = .running := by
    by_contra hne
    rw [htrust hne n] at htrusted
    cases htrusted
  obtain ⟨-, hcount, -⟩ := hsections n
  obtain ⟨hactive, hoverdue⟩ := hquiet n
  refine ⟨hclear, hcount (.inr (.inr hclear)), hrunning, fun p hp => ?_⟩
  have hmember := hmembers n htrusted p hp
  have hnotActive : (s.view.get p).active = false := by
    simpa using List.any_eq_false.mp (hactive (.inr hclear)) p hp
  have hnotOverdue : (s.view.get p).overdue = false := by
    simpa using List.any_eq_false.mp (hoverdue hclear) p hp
  obtain ⟨hpActive, hpOverdue⟩ := hview p
  have hidle : (s.point p).machine = .idle := by
    by_contra hne; rw [hpActive.mpr hne] at hnotActive; cases hnotActive
  have hproven : (s.point p).overdueIndication = false := by
    by_contra hne; rw [hpOverdue.mpr (by simpa using hne)] at hnotOverdue; cases hnotOverdue
  simp only [counting, lit, Bool.and_eq_true, beq_iff_eq, bne_iff_ne] at hmember
  simp only [Point.overdueIndication, Bool.or_eq_false_iff] at hproven
  exact ⟨hmember.1.1.1, hmember.1.1.2, hmember.1.2, hidle, hproven.1, hproven.2⟩

end Sys2Proof.Machine
end

section
/-! The clock: one sample of a line and of a supply-good input, one unit of time, and the state after a reset (O2, O3,
O4). -/

namespace Sys2Proof.Machine

/-! ## Samples -/

theorem Line.sampled_agreeing {l : Line} (h : l.pinLow = l.accepted) (now : Time) :
    l.sampled now = { l with raw := l.pinLow, run := 0 } := if_pos h

theorem Line.found_agreeing {l : Line} (h : l.pinLow = l.accepted) (now : Time) (filter : Nat) :
    l.found now filter = if 2 ≤ l.run then .glitch l.runStart l.run else .nothing := if_pos h

theorem Line.sampled_differing {l : Line} (h : l.pinLow ≠ l.accepted) (now : Time) :
    l.sampled now = { l with raw := l.pinLow, run := l.run + 1, runStart := if l.run = 0 then now else l.runStart } :=
  if_neg h

theorem Line.found_differing {l : Line} (h : l.pinLow ≠ l.accepted) (now : Time) (filter : Nat) :
    l.found now filter =
      if filter ≤ l.run + 1 then .accepted (if l.run = 0 then now else l.runStart) else .nothing := if_neg h

/-- Settles O3. -/
theorem sampleActsByTheRunLengthTable : Obligations.SampleActsByTheRunLengthTable := by
  unfold Obligations.SampleActsByTheRunLengthTable
  refine ⟨fun now filter l => ⟨fun h h0 => ?_, fun h _ => ?_, fun h => ?_⟩, fun now ta tb p => ⟨?_, ?_, ?_⟩,
    fun now p a b hab => ?_, fun g => ⟨fun h => ?_, fun h => ?_⟩⟩
  · rw [Line.sampled_agreeing h, Line.found_agreeing h, if_neg (by omega)]
    exact ⟨by rw [← h0], rfl⟩
  · exact ⟨Line.sampled_agreeing h now, Line.found_agreeing h now filter⟩
  · rw [Line.sampled_differing h, Line.found_differing h]
    exact ⟨rfl, fun hlt => if_neg (by omega), fun hle => if_pos hle⟩
  · rintro rfl; simp [pointFindings]
  · intro h
    have hne : ta ≠ tb := by rintro rfl; exact absurd h (lt_irrefl _)
    simp only [pointFindings, if_neg hne, if_pos h]
  · intro h
    have hne : ta ≠ tb := by rintro rfl; exact absurd h (lt_irrefl _)
    simp only [pointFindings, if_neg hne, if_neg (not_lt_of_gt h)]
  · have hcommands : pointFindings now p a b = [a.commands p .a, b.commands p .b] := by
      unfold pointFindings
      split
      · exact absurd ⟨rfl, rfl⟩ (hab _ _)
      · rfl
    rw [hcommands]
    cases a <;> cases b <;> rfl
  · simp [Group.sampled, Group.accepts, h]
  · simp [Group.sampled, Group.accepts, h, supplyFilter]

/-! ## The order of what falls at one time -/

theorem flatten_filter_nonempty {α : Type} (us : List (List α)) :
    (us.filter (fun u => !u.isEmpty)).flatten = us.flatten := by
  induction us with
  | nil => rfl
  | cons u us ih => cases u <;> simp [ih]

/-- The head of the list at one place taken out: what is left, in some order. -/
theorem flatten_perm_set {α : Type} {us : List (List α)} {j : Nat} {h : α} {t : List α} (hj : us[j]? = some (h :: t)) :
    us.flatten.Perm (h :: (us.set j t).flatten) := by
  induction us generalizing j with
  | nil => simp at hj
  | cons u us ih =>
    cases j with
    | zero =>
      obtain rfl : u = h :: t := by simpa using hj
      simp
    | succ j =>
      have := ih (j := j) (by simpa using hj)
      simpa using (this.append_left u).trans List.perm_middle

theorem inOrder_zero (k : Nat) (us : List (List Instr)) : (inOrder 0 k us).1 = [] := rfl

/-- One event is taken from the head of one of two or more lists. -/
theorem inOrder_succ (n k : Nat) {us : List (List Instr)} (h2 : 2 ≤ us.length) (hne : ∀ u ∈ us, u ≠ []) :
    ∃ j x t, us[j]? = some (x :: t) ∧
      (inOrder (n + 1) k us).1 = x :: (inOrder n (k + 1) ((us.set j t).filter (fun u => !u.isEmpty))).1 := by
  have hj : Config.eventOrder k % us.length < us.length := Nat.mod_lt _ (by omega)
  obtain ⟨x, t, hxt⟩ := List.exists_cons_of_ne_nil (hne _ (List.getElem_mem hj))
  refine ⟨Config.eventOrder k % us.length, x, t, by rw [List.getElem?_eq_getElem hj, hxt], ?_⟩
  have hget : us.getD (Config.eventOrder k % us.length) [] = x :: t := by
    rw [List.getD_eq_getElem?_getD, List.getElem?_eq_getElem hj, hxt]; rfl
  obtain ⟨a, b, l, rfl⟩ : ∃ a b l, us = a :: b :: l := by
    match us, h2 with
    | a :: b :: l, _ => exact ⟨a, b, l, rfl⟩
  simp only [inOrder, hget]
  rfl

/-- The events of every list, each list in its own order. -/
theorem inOrder_spec (n k : Nat) (us : List (List Instr)) (hn : us.flatten.length ≤ n) (hne : ∀ u ∈ us, u ≠ []) :
    (inOrder n k us).1.Perm us.flatten ∧ ∀ l ∈ us, l.Sublist (inOrder n k us).1 := by
  induction n generalizing k us with
  | zero =>
    have hflat : us.flatten = [] := List.eq_nil_of_length_eq_zero (by omega)
    rw [hflat, inOrder_zero]
    refine ⟨.refl _, fun l hl => absurd (List.eq_nil_iff_forall_not_mem.mpr fun x hx => ?_) (hne l hl)⟩
    exact List.not_mem_nil (hflat ▸ List.mem_flatten.mpr ⟨l, hl, hx⟩)
  | succ n ih =>
    match us, hn, hne with
    | [], _, _ => exact ⟨.refl _, fun l hl => by cases hl⟩
    | [u], _, _ =>
      refine ⟨by simp [inOrder], fun l hl => ?_⟩
      rw [List.mem_singleton.mp hl]; exact .refl _
    | a :: b :: rest, hn, hne =>
      obtain ⟨j, x, t, hj, he⟩ := inOrder_succ n k (us := a :: b :: rest) (by simp) hne
      generalize hus : a :: b :: rest = us at hn hne hj he ⊢
      rw [he]
      have hperm := flatten_perm_set hj
      obtain ⟨hp, hs⟩ := ih (k + 1) ((us.set j t).filter (fun u => !u.isEmpty))
        (by
          have := hperm.length_eq
          rw [flatten_filter_nonempty]
          simp only [List.length_cons] at this
          omega)
        (fun u hu => by simpa using (List.mem_filter.mp hu).2)
      rw [flatten_filter_nonempty] at hp
      refine ⟨(hp.cons x).trans hperm.symm, fun l hl => ?_⟩
      obtain ⟨i, hi, rfl⟩ := List.mem_iff_getElem.mp hl
      obtain ⟨hjl, hjx⟩ := List.getElem?_eq_some_iff.mp hj
      by_cases hij : i = j
      · subst hij
        rw [hjx]
        by_cases ht : t = []
        · rw [ht]; exact .cons_cons x (List.nil_sublist _)
        · exact (hs t (List.mem_filter.mpr ⟨List.mem_set hjl t, by simpa using ht⟩)).cons_cons x
      · refine (hs _ (List.mem_filter.mpr ⟨?_, by simpa using hne _ (List.getElem_mem hi)⟩)).cons x
        exact List.mem_iff_getElem.mpr ⟨i, by simpa using hi, by rw [List.getElem_set_ne (Ne.symm hij)]⟩

theorem sequenced_spec (k : Nat) (us : List (List Instr)) :
    (sequenced k us).1.Perm us.flatten ∧ ∀ l ∈ us, l.Sublist (sequenced k us).1 := by
  obtain ⟨hp, hs⟩ := inOrder_spec us.flatten.length k (us.filter (fun u => !u.isEmpty))
    (by rw [flatten_filter_nonempty]) (fun u hu => by simpa using (List.mem_filter.mp hu).2)
  rw [flatten_filter_nonempty] at hp
  refine ⟨hp, fun l hl => ?_⟩
  by_cases he : l = []
  · rw [he]; exact List.nil_sublist _
  · exact hs l (List.mem_filter.mpr ⟨hl, by simpa using he⟩)

theorem mem_sampleFindings_point (s : State) (p : PointId) {l : List Instr}
    (h : l ∈ pointFindings s.now p ((s.point p).lineA.found s.now (s.point p).params.filter)
      ((s.point p).lineB.found s.now (s.point p).params.filter)) : l ∈ sampleFindings s :=
  List.mem_append_left _ (List.mem_flatMap.mpr ⟨p, List.mem_finRange p, h⟩)

theorem mem_sampleFindings_group (s : State) (g : GroupId) (h : (s.group g).accepts = true) :
    [.supplyGoodChange g] ∈ sampleFindings s :=
  List.mem_append_right _ (List.mem_map.mpr ⟨g, List.mem_finRange g, if_pos h⟩)

/-- Settles O2: the events join the empty queue in the order of `sequenced`. -/
theorem idleStepPassesOneUnitOfTime : Obligations.IdleStepPassesOneUnitOfTime := by
  unfold Obligations.IdleStepPassesOneUnitOfTime
  intro s hs u
  obtain ⟨hperm, hsub⟩ := sequenced_spec s.choices (sampleFindings u ++ expiries u)
  refine ⟨_, (sequenced s.choices (sampleFindings u ++ expiries u)).2, hperm, hsub,
    fun p l => mem_sampleFindings_point u p, fun g => mem_sampleFindings_group u g, ?_⟩
  have hu : (if s.sampleDue then s else { s with now := s.now + 1 }) = u := by
    show _ = { s with now := if s.sampleDue then s.now else s.now + 1 }
    split <;> rfl
  unfold step
  rw [hs]
  unfold State.tick
  dsimp only
  rw [hu]
  have hpending : u.pending = [] := hs
  rw [hpending]
  rfl

/-! ## Reset -/

theorem State.resetAgain_line (s : State) (p : PointId) (x : Sys) :
    (s.resetAgain.point p).line x = Line.reset ((s.point p).line x).pinLow := by
  rw [s.resetAgain_point]; cases x <;> rfl

theorem Baud.rate_ofStraps (straps : BitVec 2) : (Baud.ofStraps straps).rate =
    if straps = 0#2 then 19200 else if straps = 1#2 then 57600 else if straps = 2#2 then 115200 else 460800 := by
  revert straps; decide

/-- A port that sends nothing holds its line high. -/
theorem Port.lineLevel_idle {q : Port} (h : q.sending = none) (k : Nat) : q.lineLevel k = true := by
  simp [Port.lineLevel, h]

/-- Settles O4. -/
theorem resetGivesEveryBlockItsValue : Obligations.ResetGivesEveryBlockItsValue := by
  unfold Obligations.ResetGivesEveryBlockItsValue
  intro s
  refine ⟨s.resetAgain, rfl, rfl, rfl, rfl, rfl, rfl, rfl, rfl, fun p => ?_, fun p x => ?_, rfl, rfl, rfl,
    fun n => s.resetAgain_sec n, fun g => s.resetAgain_group g, rfl, rfl, rfl, rfl, rfl, rfl, fun n => ?_, fun i => ?_,
    ⟨Baud.rate_ofStraps _, Baud.rate_ofStraps _⟩, rfl, rfl, rfl, rfl⟩
  · rw [s.resetAgain_point, s.resetAgain_entry, s.resetAgain_view]
    simp [Point.reset]
  · have hproof : (s.resetAgain.point p).proof x = ⟨false, none, false, true, none, none, 0, none⟩ := by
      rw [s.resetAgain_point]; cases x <;> rfl
    rw [s.resetAgain_line, hproof]
    exact ⟨rfl, rfl, rfl, by simp [eligible, inUse, s.resetAgain_point, Point.reset], rfl, rfl⟩
  · exact Table.get_replicate _ _
  · cases i <;> exact ⟨rfl, rfl, rfl, rfl, rfl, rfl, rfl, rfl, rfl, rfl, rfl, rfl, fun k => Port.lineLevel_idle rfl k⟩

end Sys2Proof.Machine
end

section
/-! The end of an event: what a busy port holds of the changes posted, what the trace of a busy service port takes, and
work that posts no trace record or whose state depends on the state alone. -/

namespace Sys2Proof.Machine

/-! ## Busy transmitters -/

theorem State.transmit_busy {i : PortId} {s : State} (h : (s.port i).sending ≠ none) : s.transmit i = s := by
  unfold State.transmit
  cases hs : (s.port i).sending with
  | some f => rfl
  | none => exact absurd hs h

/-- Only the service transmitter takes trace records. -/
theorem State.transmit_control_trace (s : State) : (s.transmit .control).trace = s.trace := by
  unfold State.transmit
  split
  · rfl
  · split
    · rfl
    · split
      · rfl
      · split
        · unfold State.sendReport; split <;> rfl
        · rfl

theorem State.transmitBoth_busy {i : PortId} {s : State} (h : (s.port i).sending ≠ none) :
    s.transmitBoth.port i = s.port i := by
  unfold State.transmitBoth
  cases i with
  | control => rw [State.transmit_other _ (by simp), State.transmit_busy h]
  | service =>
    have hp : (s.transmit .control).port .service = s.port .service := State.transmit_other _ (by simp)
    rw [State.transmit_busy (by rw [hp]; exact h), hp]

theorem State.transmitBoth_trace {s : State} (h : s.service.sending ≠ none) : s.transmitBoth.trace = s.trace := by
  have hp : (s.transmit .control).port .service = s.port .service := State.transmit_other _ (by simp)
  unfold State.transmitBoth
  rw [State.transmit_busy (by rw [hp]; exact h), State.transmit_control_trace]

/-! ## The report queue after one event -/

/-- What one subject's changes make of a queue, and then those of the subjects after it. -/
def postedBy (changed : Subject → Bool) (n : Subject → Nat) (l : List Subject) (q : List ReportEntry) : List ReportEntry :=
  q.map (fun e => if l.contains e.subject && changed e.subject then
      { e with changes := min 255 (e.changes + n e.subject) } else e) ++
    (l.filter (fun x => changed x && !q.any (fun e => e.subject == x))).map
      (fun x => { subject := x, changes := min 255 (n x) })

theorem postedBy_nil (changed : Subject → Bool) (n : Subject → Nat) (q : List ReportEntry) :
    postedBy changed n [] q = q := by simp [postedBy]

theorem any_map_raise (y x : Subject) (k : ReportEntry → Nat) (q : List ReportEntry) :
    (q.map (fun e => if e.subject == x then { e with changes := k e } else e)).any (fun e => e.subject == y) =
      q.any (fun e => e.subject == y) := by
  rw [List.any_map]
  congr 1
  funext e
  dsimp only [Function.comp]
  split <;> rfl

theorem postedBy_cons {changed : Subject → Bool} {n : Subject → Nat} {x : Subject} {l : List Subject} (hx : x ∉ l)
    (q : List ReportEntry) :
    postedBy changed n (x :: l) q = postedBy changed n l (if changed x then postToQueue x (n x) q else q) := by
  by_cases hc : changed x = true
  · rw [if_pos hc]
    unfold postToQueue
    by_cases hq : q.any (fun e => e.subject == x) = true
    · rw [if_pos hq]
      unfold postedBy
      simp only [any_map_raise, List.map_map]
      congr 1
      · refine List.map_congr_left fun e _ => ?_
        by_cases he : e.subject = x
        · subst he; simp [hc, hx]
        · simp [he]
      · rw [List.filter_cons, if_neg (by simp [hq])]
    · rw [if_neg hq]
      have hnot : ∀ e ∈ q, e.subject ≠ x := fun e he hex => hq (List.any_eq_true.mpr ⟨e, he, by simp [hex]⟩)
      unfold postedBy
      rw [List.filter_cons, if_pos (by simp [hc, hq]), List.map_append, List.map_cons]
      have hqueue : q.map (fun e => if (x :: l).contains e.subject && changed e.subject then
            { e with changes := min 255 (e.changes + n e.subject) } else e) =
          q.map (fun e => if l.contains e.subject && changed e.subject then
            { e with changes := min 255 (e.changes + n e.subject) } else e) :=
        List.map_congr_left fun e he => by simp [hnot e he]
      have hrest : l.filter (fun y => changed y && !(q ++ [(⟨x, min 255 (n x)⟩ : ReportEntry)]).any (fun e => e.subject == y)) =
          l.filter (fun y => changed y && !q.any (fun e => e.subject == y)) :=
        List.filter_congr fun y hy => by
          have : (x == y) = false := beq_eq_false_iff_ne.mpr fun e => hx (e ▸ hy)
          simp [this]
      rw [hqueue, hrest]
      simp [hx]
  · rw [if_neg hc]
    unfold postedBy
    rw [List.filter_cons, if_neg (by simp [hc])]
    congr 1
    refine List.map_congr_left fun e _ => ?_
    by_cases he : e.subject = x
    · subst he; simp [hc]
    · simp [he]

theorem foldl_post_queue (posts : List Subject) (l : List Subject) (hl : l.Nodup) (q : Port) :
    (l.foldl (fun q x => if posts.contains x then q.post x (posts.count x) else q) q).queue =
      postedBy (fun x => x.inMask q.mask && posts.contains x) posts.count l q.queue := by
  induction l generalizing q with
  | nil => exact (postedBy_nil _ _ _).symm
  | cons x l ih =>
    obtain ⟨hx, hl⟩ := List.nodup_cons.mp hl
    have hstep : (if posts.contains x then q.post x (posts.count x) else q).mask = q.mask ∧
        (if posts.contains x then q.post x (posts.count x) else q).queue =
          if x.inMask q.mask && posts.contains x then postToQueue x (posts.count x) q.queue else q.queue := by
      unfold Port.post
      cases posts.contains x <;> cases x.inMask q.mask <;> simp
    rw [List.foldl_cons, ih hl, hstep.1, hstep.2, postedBy_cons hx]

theorem allSubjects_nodup : allSubjects.Nodup := by decide

theorem mem_allSubjects (x : Subject) : x ∈ allSubjects := by
  unfold allSubjects
  cases x with
  | device => exact List.mem_cons_self
  | group g => simp [allGroups]
  | point p => simp [allPoints]
  | sec n => simp [allSections]

/-- The queue of a port after the changes of one event. -/
theorem Port.postAll_queue (posts : List Subject) (q : Port) : (q.postAll posts).queue = posted q.mask posts q.queue := by
  unfold Port.postAll
  rw [foldl_post_queue posts allSubjects allSubjects_nodup]
  have hall : ∀ x : Subject, allSubjects.contains x = true := fun x => List.contains_iff_mem.mpr (mem_allSubjects x)
  simp only [postedBy, hall, Bool.true_and]
  rfl

/-! ## What an event reports and traces -/

theorem Ev.finish_busy {i : PortId} {w : Ev} (h : (w.s.port i).sending ≠ none) :
    (w.finish.port i).queue = posted (w.s.port i).mask w.posts (w.s.port i).queue := by
  have hp : ∀ j, (State.port { w.s with
      control := w.s.control.postAll w.posts
      service := w.s.service.postAll w.posts
      trace := (traceOrder w.traces).foldl (fun t r => t.take r) w.s.trace } j) = (w.s.port j).postAll w.posts :=
    fun j => by cases j <;> rfl
  unfold Ev.finish
  rw [State.transmitBoth_busy (by rw [hp, (Port.postAll_line _ _).1]; exact h), hp, Port.postAll_queue]

theorem Ev.finish_trace {w : Ev} (h : w.s.service.sending ≠ none) :
    w.finish.trace = (traceOrder w.traces).foldl (fun t r => t.take r) w.s.trace := by
  unfold Ev.finish
  rw [State.transmitBoth_trace]
  exact fun hn => h ((Port.postAll_line _ _).1.symm.trans hn)

theorem runEvent_reports {f : Ev → Ev} {s : State} {l : List Subject} (hposts : (f ⟨s, [], []⟩).posts = l)
    (hport : ∀ i, (f ⟨s, [], []⟩).s.port i = s.port i) : Reports l s (runEvent f s) := fun i hi => by
  unfold runEvent
  rw [Ev.finish_busy (by rw [hport]; exact hi), hport, hposts]

theorem TraceRecord.kind_lt (r : TraceRecord) (h : r.point ≠ none) : r.kind < 6 := by
  cases r
  case gap n => exact absurd rfl h
  all_goals exact of_decide_eq_true rfl

theorem flatMap_ite_eq {α β : Type} [DecidableEq α] {l : List α} (hl : l.Nodup) {a : α} (ha : a ∈ l) (u : List β) :
    l.flatMap (fun x => if x = a then u else []) = u := by
  induction l with
  | nil => cases ha
  | cons x l ih =>
    obtain ⟨hx, hl⟩ := List.nodup_cons.mp hl
    rw [List.flatMap_cons]
    rcases List.mem_cons.mp ha with rfl | ha
    · have hrest : l.flatMap (fun x => if x = a then u else []) = [] :=
        List.flatMap_eq_nil_iff.mpr fun y hy => if_neg fun (e : y = a) => hx (e ▸ hy)
      rw [if_pos rfl, hrest, List.append_nil]
    · rw [if_neg (fun (e : x = a) => hx (e ▸ ha)), List.nil_append, ih hl ha]

/-- One record is placed alone. -/
theorem traceOrder_singleton {r : TraceRecord} (h : r.point ≠ none) : traceOrder [r] = [r] := by
  obtain ⟨p, hp⟩ := Option.ne_none_iff_exists'.mp h
  have hinner : ∀ q : PointId, (List.range 6).flatMap (fun k => [r].filter (fun r => r.point == some q && r.kind == k)) =
      if q = p then [r] else [] := fun q => by
    by_cases hq : q = p
    · rw [if_pos hq]
      refine (congrArg (fun g => (List.range 6).flatMap g) (funext fun k => ?_)).trans
        (flatMap_ite_eq List.nodup_range (List.mem_range.mpr (r.kind_lt h)) [r])
      by_cases hk : k = r.kind
      · simp [hp, hq, hk]
      · simp [hp, hq, hk, Ne.symm hk]
    · rw [if_neg hq]
      simp [hp, Ne.symm hq]
  unfold traceOrder
  simp only [hinner]
  exact flatMap_ite_eq (List.nodup_finRange 16) (List.mem_finRange p) [r]

theorem traceOrder_nil : traceOrder [] = [] := by simp [traceOrder]

/-- An event whose work posts one trace record and touches neither the trace nor the service port. -/
theorem runEvent_traces {f : Ev → Ev} {s : State} {r : TraceRecord} (hr : r.point ≠ none)
    (htraces : (f ⟨s, [], []⟩).traces = [r]) (hport : (f ⟨s, [], []⟩).s.service = s.service)
    (htrace : (f ⟨s, [], []⟩).s.trace = s.trace) : Traces r s (runEvent f s) := fun h => by
  unfold runEvent
  rw [Ev.finish_trace (by rw [hport]; exact h), htraces, traceOrder_singleton hr, htrace]
  rfl

theorem runEvent_traces_none {f : Ev → Ev} {s : State} (htraces : (f ⟨s, [], []⟩).traces = [])
    (hport : (f ⟨s, [], []⟩).s.service = s.service) (htrace : (f ⟨s, [], []⟩).s.trace = s.trace)
    (h : s.service.sending ≠ none) : (runEvent f s).trace = s.trace := by
  unfold runEvent
  rw [Ev.finish_trace (by rw [hport]; exact h), htraces, traceOrder_nil, htrace]
  rfl

/-! ## Work that posts no trace record -/

@[simp] theorem Ev.onPoint_traces (p : PointId) (f : Point → Point) (w : Ev) : (w.onPoint p f).traces = w.traces :=
  Ev.postIf_traces _ _ _
@[simp] theorem Ev.onSection_traces (n : SectionId) (f : SectionRecord → SectionRecord) (w : Ev) :
    (w.onSection n f).traces = w.traces := Ev.postIf_traces _ _ _
@[simp] theorem Ev.onGroup_traces (g : GroupId) (f : Group → Group) (w : Ev) : (w.onGroup g f).traces = w.traces :=
  Ev.postIf_traces _ _ _
@[simp] theorem Ev.onDevice_traces (f : Device → Device) (w : Ev) : (w.onDevice f).traces = w.traces :=
  Ev.postIf_traces _ _ _
@[simp] theorem Ev.onProofs_traces (c : Option Proof) (q : List SystemId) (w : Ev) : (w.onProofs c q).traces = w.traces := rfl
@[simp] theorem Ev.onView_traces (p : PointId) (f : PointView → PointView) (w : Ev) : (w.onView p f).traces = w.traces := rfl
@[simp] theorem Ev.onSequencer_traces (f : Sequencer → Sequencer) (w : Ev) : (w.onSequencer f).traces = w.traces := rfl
@[simp] theorem Ev.choose_traces (w : Ev) : w.choose.traces = w.traces := rfl
@[simp] theorem Ev.trace_traces (r : TraceRecord) (w : Ev) : (w.trace r).traces = w.traces ++ [r] := rfl

theorem foldl_traces {α : Type} {f : Ev → α → Ev} (h : ∀ w a, (f w a).traces = w.traces) (l : List α) (w : Ev) :
    (l.foldl f w).traces = w.traces := by
  induction l generalizing w with
  | nil => rfl
  | cons a l ih => rw [List.foldl_cons, ih, h]

@[simp] theorem Ev.atSections_traces (p : PointId) (f : State → SectionId → SectionRecord → SectionRecord) (w : Ev) :
    (w.atSections p f).traces = w.traces := foldl_traces (fun _ _ => Ev.onSection_traces _ _ _) _ w

@[simp] theorem Ev.pointActive_traces (p : PointId) (w : Ev) : (w.pointActive p).traces = w.traces :=
  Ev.atSections_traces _ _ _
@[simp] theorem Ev.pointQuiet_traces (p : PointId) (w : Ev) : (w.pointQuiet p).traces = w.traces := Ev.atSections_traces _ _ _
@[simp] theorem Ev.disturbAll_traces (p : PointId) (c : Cause) (w : Ev) : (w.disturbAll p c).traces = w.traces :=
  Ev.atSections_traces _ _ _
@[simp] theorem Ev.proofOverdue_traces (p : PointId) (w : Ev) : (w.proofOverdue p).traces = w.traces :=
  Ev.atSections_traces _ _ _
@[simp] theorem Ev.proofCurrent_traces (p : PointId) (w : Ev) : (w.proofCurrent p).traces = w.traces :=
  Ev.atSections_traces _ _ _

@[simp] theorem Ev.takeSide_traces (side : SectionRecord → SectionRecord) (n : Option SectionId) (w : Ev) :
    (w.takeSide side n).traces = w.traces := by
  cases n with
  | none => rfl
  | some n => exact Ev.onSection_traces _ _ _

@[simp] theorem Ev.handOver_traces (e : CountEvent) (w : Ev) : (w.handOver e).traces = w.traces := by
  simp [Ev.handOver]

@[simp] theorem Ev.enterConfused_traces (p : PointId) (c : ConfusionCause) (t : Time) (q : Option Timer) (w : Ev) :
    (w.enterConfused p c t q).traces = w.traces := by
  unfold Ev.enterConfused; dsimp only; split <;> simp

@[simp] theorem Ev.openPassage_traces (p : PointId) (m : DirectionMachine) (r : Passage) (w : Ev) :
    (w.openPassage p m r).traces = w.traces := by simp [Ev.openPassage]

@[simp] theorem Ev.resetMachine_traces (p : PointId) (w : Ev) : (w.resetMachine p).traces = w.traces := by
  unfold Ev.resetMachine; dsimp only; split <;> simp

@[simp] theorem Ev.initialise_traces (p : PointId) (w : Ev) : (w.initialise p).traces = w.traces := by
  unfold Ev.initialise; split <;> simp

@[simp] theorem Ev.onProofStatus_traces (p : PointId) (f : Point → Point) (w : Ev) :
    (w.onProofStatus p f).traces = w.traces := by
  unfold Ev.onProofStatus; dsimp only; split
  · simp
  · split <;> simp

theorem Ev.applyStaged_traces (w : Ev) : w.applyStaged.traces = w.traces :=
  foldl_traces (fun _ _ => by split <;> simp) _ w

theorem Ev.takeProof_traces (w : Ev) : w.takeProof.traces = w.traces := by
  unfold Ev.takeProof; split
  · rfl
  · split <;> rfl

theorem Ev.settleProofs_traces (w : Ev) : w.settleProofs.traces = w.traces := by
  unfold Ev.settleProofs; split
  · split <;> simp [Ev.takeProof_traces, Ev.applyStaged_traces]
  · rw [Ev.takeProof_traces, Ev.applyStaged_traces]

theorem Ev.settleActivity_traces (w : Ev) : w.settleActivity.traces = w.traces := by
  have hend : w.endActivity.traces = w.traces := rfl
  unfold Ev.settleActivity
  split
  · rfl
  all_goals split <;> simp [hend]

@[simp] theorem Ev.settle_traces (w : Ev) : w.settle.traces = w.traces :=
  (Ev.settleActivity_traces _).trans (Ev.settleProofs_traces w)

/-- An event whose work posts one record, and is then settled. -/
theorem settled_traces {f : Ev → Ev} {s : State} {r : TraceRecord} (hr : r.point ≠ none)
    (hchanges : Changes s (f ⟨s, [], []⟩).s) (htraces : (f ⟨s, [], []⟩).traces = [r]) :
    Traces r s (runEvent (fun w => (f w).settle) s) := by
  obtain ⟨-, -, -, -, -, hservice, -, htrace, -⟩ := hchanges.fixed
  obtain ⟨-, -, hs, -, ht⟩ := (f ⟨s, [], []⟩).s.settled_fixed
  refine runEvent_traces hr ((Ev.settle_traces _).trans htraces) ?_ ?_
  · rw [Ev.settle_s, hs, hservice]
  · rw [Ev.settle_s, ht, htrace]

theorem settled_traces_none {f : Ev → Ev} {s : State} (hchanges : Changes s (f ⟨s, [], []⟩).s)
    (htraces : (f ⟨s, [], []⟩).traces = []) (h : s.service.sending ≠ none) :
    (runEvent (fun w => (f w).settle) s).trace = s.trace := by
  obtain ⟨-, -, -, -, -, hservice, -, htrace, -⟩ := hchanges.fixed
  obtain ⟨-, -, hs, -, ht⟩ := (f ⟨s, [], []⟩).s.settled_fixed
  refine runEvent_traces_none ((Ev.settle_traces _).trans htraces) ?_ ?_ h
  · rw [Ev.settle_s, hs, hservice]
  · rw [Ev.settle_s, ht, htrace]

end Sys2Proof.Machine
end

section
/-! The work of detector events depends on the state alone, and the cells of the transition table as they are performed. -/

namespace Sys2Proof.Machine

/-! ## Work depends on the state alone -/

theorem Ev.Same.eq {v w : Ev} (h : v.Same w) : v.s = w.s := h

/-- The work on a state, whatever has been posted. -/
theorem Ev.same_of (w : Ev) : w.Same ⟨w.s, [], []⟩ := rfl

theorem Ev.Same.ite {b b' : Bool} {v w v' w' : Ev} (hb : b = b') (h : v.Same w) (h' : v'.Same w') :
    (if b then v else v').Same (if b' then w else w') := by
  subst hb; split
  · exact h
  · exact h'

theorem Ev.Same.trace {v w : Ev} (h : v.Same w) (r r' : TraceRecord) : (v.trace r).Same (w.trace r') := h

section
variable {v w : Ev} (h : v.Same w) (p : PointId)
include h

theorem Ev.Same.pointActive : (v.pointActive p).Same (w.pointActive p) := (h.onView p _).atSections p settleAt
theorem Ev.Same.pointQuiet : (v.pointQuiet p).Same (w.pointQuiet p) := (h.onView p _).atSections p settleAt
theorem Ev.Same.disturbAll (c : Cause) : (v.disturbAll p c).Same (w.disturbAll p c) := h.atSections p _
theorem Ev.Same.proofOverdue : (v.proofOverdue p).Same (w.proofOverdue p) := (h.onView p _).atSections p _
theorem Ev.Same.proofCurrent : (v.proofCurrent p).Same (w.proofCurrent p) := (h.onView p _).atSections p _

theorem Ev.Same.takeSide (side : SectionRecord → SectionRecord) (n : Option SectionId) :
    (v.takeSide side n).Same (w.takeSide side n) := by
  cases n with
  | none => exact h
  | some n => unfold Ev.takeSide; rw [h.eq]; exact h.onSection n _

theorem Ev.Same.handOver (e : CountEvent) : (v.handOver e).Same (w.handOver e) :=
  ((h.onView e.point _).takeSide _ _).takeSide _ _

theorem Ev.Same.enterConfused (c : ConfusionCause) (t : Time) (q : Option Timer) :
    (v.enterConfused p c t q).Same (w.enterConfused p c t q) :=
  .ite (by rw [h.eq]) ((h.onPoint p _).pointActive p) (h.onPoint p _)

theorem Ev.Same.openPassage (m : DirectionMachine) (r : Passage) : (v.openPassage p m r).Same (w.openPassage p m r) :=
  (h.onPoint p _).pointActive p

theorem Ev.Same.retreat (d : Direction) (t : Time) : (v.retreat p d t).Same (w.retreat p d t) :=
  ((h.onPoint p _).trace _ _).pointQuiet p

theorem Ev.Same.deliverChange (chg : Lines) (a b : Bool) (t : Time) :
    (v.deliverChange p chg a b t).Same (w.deliverChange p chg a b t) := by
  unfold Ev.deliverChange
  rw [h.eq]
  cases (w.s.point p).machine
  case confused => exact h.onPoint p _
  all_goals
    dsimp only
    split
    · exact h
    · exact h.openPassage p _ _
    · exact h.onPoint p _
    · exact h.onPoint p _
    · exact h.retreat p _ _
    · exact h.enterConfused p _ _ _
    · exact h

theorem Ev.Same.resetMachine : (v.resetMachine p).Same (w.resetMachine p) :=
  .ite (by rw [h.eq]) (h.onPoint p _) ((h.onPoint p _).pointQuiet p)

theorem Ev.Same.initialise : (v.initialise p).Same (w.initialise p) := by
  unfold Ev.initialise
  rw [h.eq]
  exact .ite rfl (h.enterConfused p _ _ _) h

theorem Ev.Same.onProofStatus (f : Point → Point) : (v.onProofStatus p f).Same (w.onProofStatus p f) := by
  unfold Ev.onProofStatus
  have hon := h.onPoint p f
  dsimp only
  rw [hon.eq, h.eq]
  exact .ite rfl (hon.proofOverdue p) (.ite rfl (hon.proofCurrent p) hon)

theorem Ev.Same.join (x : SystemId) : (v.join x).Same (w.join x) := by
  unfold Ev.join; rw [h.eq]; exact h.onProofs _ _

theorem Ev.Same.startEpoch (x : Sys) : (v.startEpoch p x).Same (w.startEpoch p x) := (h.onProofStatus p _).join _

theorem Ev.Same.gainEligibility : (v.gainEligibility p).Same (w.gainEligibility p) :=
  (h.startEpoch p .a).startEpoch p .b

theorem Ev.Same.deliverEnd (x : SystemId) (t : Time) : (v.deliverEnd x t).Same (w.deliverEnd x t) := by
  unfold Ev.deliverEnd
  rw [h.eq]
  exact .ite rfl (h.deliverChange _ _ _ _ _) h

theorem Ev.Same.deliverEndNow (x : SystemId) : (v.deliverEnd x v.s.now).Same (w.deliverEnd x w.s.now) := by
  rw [h.eq]; exact h.deliverEnd x _

theorem Ev.Same.endUnfinished (b : Bool) : (v.endUnfinished p b).Same (w.endUnfinished p b) := by
  unfold Ev.endUnfinished
  rw [h.eq]
  cases w.s.channel with
  | none => exact h
  | some pr =>
    dsimp only
    split
    · have hend : ∀ t u, Ev.Same
          (((v.onProofs none w.s.queue).onPoint p (Point.withResult pr.system.sys .unfinished)).traceProof pr .unfinished t)
          (((w.onProofs none w.s.queue).onPoint p (Point.withResult pr.system.sys .unfinished)).traceProof pr .unfinished u) :=
        fun _ _ => (h.onProofs none w.s.queue).onPoint p _
      exact .ite rfl ((hend _ _).deliverEndNow _) (hend _ _)
    · exact h

theorem Ev.Same.loseEligibility (b : Bool) : (v.loseEligibility p b).Same (w.loseEligibility p b) := by
  unfold Ev.loseEligibility
  rw [h.eq]
  exact ((h.onProofs _ _).endUnfinished p b).onProofStatus p _

theorem Ev.Same.enterFault (c : FaultCause) : (v.enterFault p c).Same (w.enterFault p c) := by
  unfold Ev.enterFault
  rw [h.eq]
  dsimp only
  have hreset : Ev.Same (Ev.resetMachine p (if counting w.s p then
        (v.onPoint p (fun pt => { pt with health := .fault, faultCause := some c, faultTime := some w.s.now })).disturbAll p .pointFault
      else v.onPoint p (fun pt => { pt with health := .fault, faultCause := some c, faultTime := some w.s.now })))
      (Ev.resetMachine p (if counting w.s p then
        (w.onPoint p (fun pt => { pt with health := .fault, faultCause := some c, faultTime := some w.s.now })).disturbAll p .pointFault
      else w.onPoint p (fun pt => { pt with health := .fault, faultCause := some c, faultTime := some w.s.now }))) :=
    (Ev.Same.ite rfl ((h.onPoint p _).disturbAll p _) (h.onPoint p _)).resetMachine p
  exact (Ev.Same.ite (by rw [hreset.eq]) (hreset.initialise p) hreset).loseEligibility p true

theorem Ev.Same.darkenPoint (c : Cause) : (v.darkenPoint c p).Same (w.darkenPoint c p) := by
  unfold Ev.darkenPoint
  rw [h.eq]
  exact ((Ev.Same.ite rfl (h.disturbAll p _) h).resetMachine p).loseEligibility p false

theorem Ev.Same.lightPoint : (v.lightPoint p).Same (w.lightPoint p) := by
  unfold Ev.lightPoint
  rw [h.eq]
  have hinit : Ev.Same (if inUse w.s p then v.initialise p else v) (if inUse w.s p then w.initialise p else w) :=
    .ite rfl (h.initialise p) h
  exact .ite (by rw [hinit.eq]) (hinit.gainEligibility p) hinit

end

theorem Ev.enterFault_s (p : PointId) (c : FaultCause) (w : Ev) : (w.enterFault p c).s = w.s.fault p c :=
  (Ev.same_of w).enterFault p c
theorem Ev.darkenPoint_s (c : Cause) (p : PointId) (w : Ev) : (w.darkenPoint c p).s = w.s.darken c p :=
  (Ev.same_of w).darkenPoint p c
theorem Ev.lightPoint_s (p : PointId) (w : Ev) : (w.lightPoint p).s = w.s.light p := (Ev.same_of w).lightPoint p

theorem Ev.handOver_s (e : CountEvent) (w : Ev) (h : (e.left.isSome || e.entered.isSome) = true) :
    (w.handOver e).s = w.s.handOver e := by
  unfold State.handOver
  rw [if_pos h]
  exact (Ev.same_of w).handOver e

/-! ## The cells of the transition table -/

/-- The action of a cell other than the two counts. -/
def Ev.perform (p : PointId) (chg : Lines) (a b : Bool) (t : Time) (next : DirectionMachine) : MoveAction → Ev → Ev
  | .openRecord, w => w.openPassage p next ((Passage.opened t).recordChange chg a b t)
  | .plain, w =>
    w.onPoint p (fun pt => { pt with machine := next, passage := pt.passage.map (Passage.recordChange chg a b t) })
  | .reversal, w =>
    w.onPoint p (fun pt =>
      { pt with machine := next, passage := pt.passage.map (fun r => { r.recordChange chg a b t with reversal := true }) })
  | .retreat dir, w => w.retreat p dir t
  | .confuse cause, w => w.enterConfused p cause t (quietTimerFor a b t)
  | .count _, w => w

theorem Ev.deliverChange_of_transition {p : PointId} {a b : Bool} {w : Ev} {next : DirectionMachine} {act : MoveAction}
    (h : transition (w.s.point p).machine a b = some (next, act)) (chg : Lines) (t : Time) :
    w.deliverChange p chg a b t = w.perform p chg a b t next act := by
  unfold Ev.deliverChange
  cases hm : (w.s.point p).machine
  case confused => rw [hm] at h; cases h
  all_goals
    rw [hm] at h
    dsimp only
    rw [h]
    cases act <;> rfl

theorem Ev.deliverChange_of_confused {p : PointId} {w : Ev} (h : (w.s.point p).machine = .confused) (chg : Lines)
    (a b : Bool) (t : Time) :
    w.deliverChange p chg a b t = w.onPoint p (fun pt => { pt with quietTimer := quietTimerFor a b t }) := by
  unfold Ev.deliverChange
  rw [h]

/-- A delivered change performs its cell. -/
theorem Ev.deliver_of_transition {p : PointId} {w : Ev} {a b : Bool} (ha : reads w.s p .a = a) (hb : reads w.s p .b = b)
    {next : DirectionMachine} {act : MoveAction} (h : transition (w.s.point p).machine a b = some (next, act))
    (hact : ∀ d, act ≠ .count d) (chg : Lines) (t : Time) :
    w.deliver p chg t = w.perform p chg a b t next act := by
  unfold Ev.deliver
  dsimp only
  rw [ha, hb, ← Ev.deliverChange_of_transition h, h]
  cases act
  case count d => exact absurd rfl (hact d)
  all_goals rfl

theorem Ev.deliver_of_count {p : PointId} {w : Ev} {a b : Bool} (ha : reads w.s p .a = a) (hb : reads w.s p .b = b)
    {next : DirectionMachine} {d : Direction} (h : transition (w.s.point p).machine a b = some (next, .count d))
    (chg : Lines) (t : Time) :
    w.deliver p chg t =
      w.countEvent p d t (((w.s.point p).passage.getD (Passage.opened t)).recordChange chg a b t) := by
  unfold Ev.deliver
  dsimp only
  rw [ha, hb, h]

theorem Ev.deliver_of_confused {p : PointId} {w : Ev} (h : (w.s.point p).machine = .confused) (chg : Lines) (t : Time) :
    w.deliver p chg t =
      w.onPoint p (fun pt => { pt with quietTimer := quietTimerFor (reads w.s p .a) (reads w.s p .b) t }) := by
  unfold Ev.deliver
  dsimp only
  rw [Ev.deliverChange_of_confused h, h]
  rfl

theorem Ev.openPassage_s (p : PointId) (m : DirectionMachine) (r : Passage) (w : Ev) :
    (w.openPassage p m r).s = (w.s.setPoint p { w.s.point p with
      machine := m, passage := some r, confusion := none, quietTimer := none }).sendActive p := by
  unfold Ev.openPassage; rw [Ev.pointActive_s, Ev.onPoint_setPoint]

theorem Ev.retreat_s (p : PointId) (d : Direction) (t : Time) (w : Ev) :
    (w.retreat p d t).s = (w.s.setPoint p { w.s.point p with
      machine := .idle, passage := none, retreatTally := raise (w.s.point p).retreatTally }).sendQuiet p := by
  unfold Ev.retreat; rw [Ev.pointQuiet_s, Ev.trace_s, Ev.onPoint_setPoint]

/-- The state with the machine of a point CONFUSED. -/
def State.confuse (p : PointId) (cause : ConfusionCause) (t : Time) (quiet : Option Timer) (s : State) : State :=
  s.setPoint p { s.point p with
    machine := .confused, confusion := some ⟨cause, t⟩, passage := none, quietTimer := quiet }

theorem Ev.enterConfused_s (p : PointId) (cause : ConfusionCause) (t : Time) (quiet : Option Timer) (w : Ev) :
    (w.enterConfused p cause t quiet).s = if (w.s.point p).machine = .idle then
      (w.s.confuse p cause t quiet).sendActive p else w.s.confuse p cause t quiet := by
  unfold Ev.enterConfused
  dsimp only
  by_cases h : (w.s.point p).machine = .idle
  · rw [if_pos (by simpa using h), if_pos h, Ev.pointActive_s, Ev.onPoint_setPoint]; rfl
  · rw [if_neg (by simpa using h), if_neg h, Ev.onPoint_setPoint]; rfl

end Sys2Proof.Machine
end

section
/-! A point that enters FAULT or goes dark (R22, R41, R51, R66, R151): its machine, its proofs, its sections (O31 and the last
clause of O19). -/

namespace Sys2Proof.Machine

/-! ## Disturbed sections take no notice -/

/-- The parameters of a section (R85). -/
def SectionRecord.settings (r : SectionRecord) : Nat × Nat × Bool := (r.clearDelay, r.holdoff, r.directPermitted)

section
variable (r : SectionRecord)

theorem SectionRecord.stamped_settings (now : Time) (a : SectionRecord) : (a.stamped now r).settings = r.settings := by
  unfold SectionRecord.stamped
  split <;> rfl

theorem SectionRecord.expiryCheck_settings (o : Bool) : (r.expiryCheck o).settings = r.settings := by cases o <;> rfl

theorem SectionRecord.enterClearing_settings (now : Time) (o : Bool) : (r.enterClearing now o).settings = r.settings := by
  unfold SectionRecord.enterClearing
  split
  · exact r.expiryCheck_settings o
  · rfl

theorem SectionRecord.settle_settings (now : Time) (a o : Bool) : (r.settle now a o).settings = r.settings := by
  have hevaluate : (r.evaluate now a o).settings = r.settings := by
    unfold SectionRecord.evaluate
    dsimp only
    split
    · split
      · rfl
      · exact r.enterClearing_settings now o
    · split <;> rfl
    · split <;> rfl
    all_goals rfl
  unfold SectionRecord.settle
  split
  · unfold SectionRecord.sweepEvaluate
    split
    · rfl
    · split
      · exact r.enterClearing_settings now o
      · rfl
  · exact hevaluate
  · exact hevaluate
  · exact hevaluate
  all_goals rfl

theorem SectionRecord.disturb_settings (c : Cause) : (r.disturb c).settings = r.settings := by
  unfold SectionRecord.disturb
  split <;> rfl

theorem SectionRecord.takeOverdue_settings : r.takeOverdue.settings = r.settings := by
  unfold SectionRecord.takeOverdue
  split <;> rfl

theorem SectionRecord.takeCurrent_settings (o : Bool) : (r.takeCurrent o).settings = r.settings := by
  unfold SectionRecord.takeCurrent
  split
  · split <;> rfl
  all_goals rfl
end

/-- The work keeps the parameters of every section, and leaves every section whose count is not trusted as it is. -/
def Dormant (s t : State) : Prop := ∀ n, (t.sec n).settings = (s.sec n).settings ∧
  ((s.sec n).state.trusted = false → t.sec n = s.sec n)

theorem Dormant.refl (s : State) : Dormant s s := fun _ => ⟨rfl, fun _ => rfl⟩

theorem Dormant.trans {s t u : State} (h : Dormant s t) (h' : Dormant t u) : Dormant s u := fun n =>
  ⟨(h' n).1.trans (h n).1, fun hn => by rw [(h' n).2 (by rw [(h n).2 hn]; exact hn), (h n).2 hn]⟩

theorem Dormant.of_sections {s t : State} (h : t.sections = s.sections) : Dormant s t := fun n =>
  have hn : t.sec n = s.sec n := congrArg (fun u => Table.get u n) h
  ⟨congrArg SectionRecord.settings hn, fun _ => hn⟩

theorem SectionRecord.stamped_self (now : Time) (r : SectionRecord) : r.stamped now r = r := by
  simp [SectionRecord.stamped]

theorem Reaches.dormant {p : PointId} {v : PointView} {f : SectionId → SectionRecord → SectionRecord} {s t : State}
    (h : Reaches p v f s t) (hk : ∀ n r, (f n r).settings = r.settings) (hf : ∀ n r, r.state.trusted = false → f n r = r) :
    Dormant s t := fun n => by
  obtain ⟨-, -, hsections⟩ := h
  by_cases hb : n ∈ (s.entry p).bounds
  · rw [((hsections n).1 hb).1]
    exact ⟨(SectionRecord.stamped_settings _ _ _).trans (hk n _), fun hn => by rw [hf n _ hn, SectionRecord.stamped_self]⟩
  · rw [((hsections n).2 hb).1]
    exact ⟨rfl, fun _ => rfl⟩

theorem Ev.onPoint_dormant (p : PointId) (f : Point → Point) (w : Ev) : Dormant w.s (w.onPoint p f).s := by
  rw [Ev.onPoint_s]; exact .of_sections rfl

theorem Ev.pointActive_dormant (p : PointId) (w : Ev) : Dormant w.s (w.pointActive p).s := by
  rw [Ev.pointActive_s]
  exact (w.s.sendActive_reaches p).dormant (fun _ r => r.settle_settings _ _ _)
    fun _ _ h => SectionRecord.settle_of_untrusted _ _ _ (SectionState.trusted_eq_false_iff.mp h)

theorem Ev.pointQuiet_dormant (p : PointId) (w : Ev) : Dormant w.s (w.pointQuiet p).s := by
  rw [Ev.pointQuiet_s]
  exact (w.s.sendQuiet_reaches p).dormant (fun _ r => r.settle_settings _ _ _)
    fun _ _ h => SectionRecord.settle_of_untrusted _ _ _ (SectionState.trusted_eq_false_iff.mp h)

theorem Ev.proofOverdue_dormant (p : PointId) (w : Ev) : Dormant w.s (w.proofOverdue p).s := by
  rw [Ev.proofOverdue_s]
  exact (w.s.sendOverdue_reaches p).dormant (fun _ r => r.takeOverdue_settings)
    fun _ _ h => SectionRecord.takeOverdue_of_ne_clear fun e => by rw [e] at h; cases h

theorem Ev.proofCurrent_dormant (p : PointId) (w : Ev) : Dormant w.s (w.proofCurrent p).s := by
  rw [Ev.proofCurrent_s]
  exact (w.s.sendCurrent_reaches p).dormant (fun _ r => r.takeCurrent_settings _)
    fun _ _ h => SectionRecord.takeCurrent_of_not_held (.inl fun e => by rw [e] at h; cases h)

theorem Ev.enterConfused_dormant (p : PointId) (c : ConfusionCause) (t : Time) (q : Option Timer) (w : Ev) :
    Dormant w.s (w.enterConfused p c t q).s := by
  unfold Ev.enterConfused
  dsimp only
  split
  · exact (Ev.onPoint_dormant p _ w).trans (Ev.pointActive_dormant p _)
  · exact Ev.onPoint_dormant p _ w

theorem Ev.deliverChange_dormant (p : PointId) (chg : Lines) (a b : Bool) (t : Time) (w : Ev) :
    Dormant w.s (w.deliverChange p chg a b t).s := by
  unfold Ev.deliverChange
  split
  · exact Ev.onPoint_dormant p _ w
  · split
    · exact .refl _
    · exact (Ev.onPoint_dormant p _ w).trans (Ev.pointActive_dormant p _)
    · exact Ev.onPoint_dormant p _ w
    · exact Ev.onPoint_dormant p _ w
    · exact (Ev.onPoint_dormant p _ w).trans (Ev.pointQuiet_dormant p (Ev.trace _ _))
    · exact Ev.enterConfused_dormant _ _ _ _ _
    · exact .refl _

theorem Ev.deliverEnd_dormant (x : SystemId) (t : Time) (w : Ev) : Dormant w.s (w.deliverEnd x t).s := by
  unfold Ev.deliverEnd
  split
  · exact Ev.deliverChange_dormant _ _ _ _ _ _
  · exact .refl _

theorem Ev.resetMachine_dormant (p : PointId) (w : Ev) : Dormant w.s (w.resetMachine p).s := by
  unfold Ev.resetMachine
  dsimp only
  split
  · exact Ev.onPoint_dormant p _ w
  · exact (Ev.onPoint_dormant p _ w).trans (Ev.pointQuiet_dormant p _)

theorem Ev.initialise_dormant (p : PointId) (w : Ev) : Dormant w.s (w.initialise p).s := by
  unfold Ev.initialise
  split
  · exact Ev.enterConfused_dormant _ _ _ _ _
  · exact .refl _

theorem Ev.onProofStatus_dormant (p : PointId) (f : Point → Point) (w : Ev) : Dormant w.s (w.onProofStatus p f).s := by
  unfold Ev.onProofStatus
  dsimp only
  split
  · exact (Ev.onPoint_dormant p f w).trans (Ev.proofOverdue_dormant p _)
  · split
    · exact (Ev.onPoint_dormant p f w).trans (Ev.proofCurrent_dormant p _)
    · exact Ev.onPoint_dormant p f w

/-- The disturbance of a point's sections reaches each trusted one, and keeps its count. -/
theorem Ev.disturbAll_disturbed (p : PointId) (c : Cause) (w : Ev) {n : SectionId} (hn : n ∈ (w.s.entry p).bounds)
    (ht : (w.s.sec n).state.trusted = true) :
    ((w.disturbAll p c).s.sec n).state = .disturbed ∧ ((w.disturbAll p c).s.sec n).cause = some c ∧
      ((w.disturbAll p c).s.sec n).count = (w.s.sec n).count := by
  obtain ⟨hsec, -⟩ := ((w.s.sendDisturbance_reaches p c).2.2 n).1 hn
  rw [Ev.disturbAll_s, hsec, SectionRecord.stamped_state, SectionRecord.stamped_cause, SectionRecord.stamped_count]
  dsimp only
  rw [SectionRecord.disturb_of_trusted c ht]
  exact ⟨rfl, rfl, rfl⟩

/-! ## Reading a point next to other work -/

theorem proofAt_none {s : State} {p : PointId} (h : proofAt s p = none) (x : Sys) : underProof s p x = false := by
  unfold proofAt at h
  unfold underProof
  cases hc : s.channel with
  | none => rfl
  | some pr =>
    rw [hc] at h
    have hne : pr.system.point ≠ p := by
      intro e; simp [e] at h
    exact beq_eq_false_iff_ne.mpr fun e => hne (by rw [e])

theorem proofAt_of_underProof {s : State} {p : PointId} {x : Sys} (h : underProof s p x = true) :
    ∃ pr, s.channel = some pr ∧ proofAt s p = some pr ∧ pr.system = ⟨p, x⟩ := by
  unfold underProof at h
  split at h
  · cases h
  · rename_i pr hc
    have he : pr.system = ⟨p, x⟩ := by simpa using h
    exact ⟨pr, hc, by unfold proofAt; rw [hc]; simp [he], he⟩

theorem Around.underProof {p : PointId} {s t : State} (h : Around p s t) (q : PointId) (x : Sys) :
    underProof t q x = underProof s q x := by unfold Machine.underProof; rw [h.channel]

theorem Around.proofAt {p : PointId} {s t : State} (h : Around p s t) (q : PointId) : proofAt t q = proofAt s q := by
  unfold Machine.proofAt; rw [h.channel]

theorem inUse_of_mode {p : PointId} {s t : State} (hm : (t.point p).mode = (s.point p).mode) :
    inUse t p = inUse s p := by unfold Machine.inUse; rw [hm]

theorem reads_of_free {s : State} {p : PointId} {x : Sys} (h : underProof s p x = false) :
    reads s p x = ((s.point p).line x).accepted := by unfold reads; rw [h]; simp

theorem reads_of_underProof {s : State} {p : PointId} {x : Sys} (h : underProof s p x = true) : reads s p x = false := by
  unfold reads; rw [h]; simp

theorem underProof_of_channel {s : State} (h : s.channel = none) (p : PointId) (x : Sys) : underProof s p x = false := by
  unfold underProof; rw [h]

/-! ## The loss of eligibility -/

theorem Ev.endUnfinished_of_none {p : PointId} {w : Ev} (h : proofAt w.s p = none) (b : Bool) :
    w.endUnfinished p b = w := by
  unfold proofAt at h
  unfold Ev.endUnfinished
  cases hc : w.s.channel with
  | none => rfl
  | some pr =>
    rw [hc] at h
    have hne : pr.system.point ≠ p := by
      intro e; simp [e] at h
    exact if_neg hne

/-- The unfinished proof of a point taken off the channel, its result recorded. -/
def Ev.unfinish (pr : Proof) (w : Ev) : Ev :=
  ((w.onProofs none w.s.queue).onPoint pr.system.point (Point.withResult pr.system.sys .unfinished)).traceProof pr
    .unfinished w.s.now

theorem Ev.endUnfinished_of_some {p : PointId} {pr : Proof} {w : Ev} (h : proofAt w.s p = some pr) (b : Bool) :
    w.endUnfinished p b = if b then (w.unfinish pr).deliverEnd pr.system w.s.now else w.unfinish pr := by
  obtain ⟨hc, rfl⟩ := proofAt_eq_some h
  have hnow : ((w.onProofs none w.s.queue).onPoint pr.system.point (Point.withResult pr.system.sys .unfinished)).s.now =
      w.s.now := by rw [Ev.onPoint_s]; rfl
  unfold Ev.endUnfinished
  rw [hc]
  dsimp only
  rw [if_pos rfl]
  unfold Ev.unfinish Ev.traceProof
  rw [Ev.trace_s, hnow]

theorem Ev.unfinish_around (pr : Proof) (w : Ev) :
    Around pr.system.point { w.s with channel := none } (w.unfinish pr).s :=
  Ev.onPoint_around pr.system.point (Point.withResult pr.system.sys .unfinished) (w.onProofs none w.s.queue)

theorem Ev.unfinish_point (pr : Proof) (w : Ev) :
    (w.unfinish pr).s.point pr.system.point = (w.s.point pr.system.point).withResult pr.system.sys .unfinished :=
  Ev.onPoint_point pr.system.point _ (w.onProofs none w.s.queue)

theorem Ev.unfinish_dormant (pr : Proof) (w : Ev) : Dormant w.s (w.unfinish pr).s :=
  Ev.onPoint_dormant pr.system.point (Point.withResult pr.system.sys .unfinished) (w.onProofs none w.s.queue)

/-- The channel when a proof of the point has ended. -/
def channelWithout (p : PointId) (s : State) : Option Proof := if (proofAt s p).isSome then none else s.channel

theorem Ev.endUnfinished_around (p : PointId) (b : Bool) (w : Ev) :
    Around p { w.s with channel := channelWithout p w.s } (w.endUnfinished p b).s := by
  unfold channelWithout
  cases hp : proofAt w.s p with
  | none => rw [Ev.endUnfinished_of_none hp]; exact .refl p _
  | some pr =>
    obtain ⟨-, rfl⟩ := proofAt_eq_some hp
    rw [Ev.endUnfinished_of_some hp]
    show Around pr.system.point { w.s with channel := none } _
    split
    · exact (Ev.unfinish_around pr w).trans (Ev.deliverEnd_around _ _ _)
    · exact Ev.unfinish_around pr w

theorem Ev.endUnfinished_dormant (p : PointId) (b : Bool) (w : Ev) : Dormant w.s (w.endUnfinished p b).s := by
  cases hp : proofAt w.s p with
  | none => rw [Ev.endUnfinished_of_none hp]; exact .refl _
  | some pr =>
    rw [Ev.endUnfinished_of_some hp]
    split
    · exact (Ev.unfinish_dormant pr w).trans (Ev.deliverEnd_dormant _ _ _)
    · exact Ev.unfinish_dormant pr w

/-- The end of both epochs of a point. -/
def Point.epochsEnd (pt : Point) : Point := (pt.onProof .a ProofStatus.epochEnd).onProof .b ProofStatus.epochEnd

theorem Point.epochsEnd_proof (pt : Point) (x : Sys) : pt.epochsEnd.proof x = (pt.proof x).epochEnd := by
  cases x <;> rfl

theorem Ev.loseEligibility_point (p : PointId) (b : Bool) (w : Ev) :
    (w.loseEligibility p b).s.point p =
      (((w.onProofs w.s.channel (withoutPoint p w.s.queue)).endUnfinished p b).s.point p).epochsEnd :=
  Ev.onProofStatus_point p _ _

theorem Ev.loseEligibility_around (p : PointId) (b : Bool) (w : Ev) :
    Around p { w.s with channel := channelWithout p w.s, queue := withoutPoint p w.s.queue }
      (w.loseEligibility p b).s :=
  (Ev.endUnfinished_around p b (w.onProofs w.s.channel (withoutPoint p w.s.queue))).trans
    (Ev.onProofStatus_around p _ _)

theorem Ev.loseEligibility_dormant (p : PointId) (b : Bool) (w : Ev) : Dormant w.s (w.loseEligibility p b).s :=
  (Ev.endUnfinished_dormant p b (w.onProofs w.s.channel (withoutPoint p w.s.queue))).trans
    (Ev.onProofStatus_dormant p _ _)

theorem Ev.loseEligibility_point_of_none {p : PointId} {w : Ev} (h : proofAt w.s p = none) (b : Bool) :
    (w.loseEligibility p b).s.point p = (w.s.point p).epochsEnd := by
  rw [Ev.loseEligibility_point, Ev.endUnfinished_of_none (w := w.onProofs w.s.channel (withoutPoint p w.s.queue)) h]
  rfl

/-- The point whose proof ends unfinished and is not delivered. -/
theorem Ev.loseEligibility_point_undelivered {p : PointId} {pr : Proof} {w : Ev} (h : proofAt w.s p = some pr) :
    (w.loseEligibility p false).s.point p = ((w.s.point p).withResult pr.system.sys .unfinished).epochsEnd := by
  obtain ⟨-, rfl⟩ := proofAt_eq_some h
  rw [Ev.loseEligibility_point,
    Ev.endUnfinished_of_some (w := w.onProofs w.s.channel (withoutPoint pr.system.point w.s.queue)) h, if_neg (by simp),
    Ev.unfinish_point]
  rfl

/-- No system of the point waits or is under proof. -/
theorem Ev.loseEligibility_proofs (p : PointId) (b : Bool) (w : Ev) (x : Sys) :
    underProof (w.loseEligibility p b).s p x = false ∧ ⟨p, x⟩ ∉ (w.loseEligibility p b).s.queue := by
  have h := Ev.loseEligibility_around p b w
  refine ⟨?_, fun hx => ?_⟩
  · rw [h.underProof]
    unfold channelWithout
    cases hp : proofAt w.s p with
    | none => exact proofAt_none hp x
    | some pr => rfl
  · rw [h.queue] at hx
    exact (mem_withoutPoint.mp hx).2 rfl

/-! ## A point goes dark -/

theorem Ev.disturbIf_around (b : Bool) (p : PointId) (c : Cause) (w : Ev) :
    Around p w.s (if b then w.disturbAll p c else w).s := by
  split
  · exact Ev.disturbAll_around p c w
  · exact .refl p _

theorem Ev.disturbIf_point (b : Bool) (p q : PointId) (c : Cause) (w : Ev) :
    (if b then w.disturbAll p c else w).s.point q = w.s.point q := by
  split
  · exact Ev.disturbAll_point p q c w
  · rfl

theorem Ev.disturbIf_disturbed {b : Bool} (hb : b = true) (p : PointId) (c : Cause) (w : Ev) {n : SectionId}
    (hn : n ∈ (w.s.entry p).bounds) (ht : (w.s.sec n).state.trusted = true) :
    ((if b then w.disturbAll p c else w).s.sec n).state = .disturbed ∧
      ((if b then w.disturbAll p c else w).s.sec n).cause = some c ∧
      ((if b then w.disturbAll p c else w).s.sec n).count = (w.s.sec n).count := by
  rw [if_pos hb]; exact Ev.disturbAll_disturbed p c w hn ht

/-- A disturbance outlasts the work after it. -/
theorem Dormant.disturbed {s t : State} (h : Dormant s t) {n : SectionId} {c : Cause} {k : Nat}
    (hs : (s.sec n).state = .disturbed ∧ (s.sec n).cause = some c ∧ (s.sec n).count = k) :
    (t.sec n).state = .disturbed ∧ (t.sec n).cause = some c ∧ (t.sec n).count = k := by
  rw [(h n).2 (by rw [hs.1]; rfl)]; exact hs

/-- The machine and the proofs of a darkened point. -/
theorem State.darken_point (c : Cause) (p : PointId) (s : State) :
    ∃ a b : ProofStatus,
      (s.darken c p).point p = { s.point p with
        machine := .idle, passage := none, confusion := none, quietTimer := none, proofA := a, proofB := b } ∧
      (a.due = false ∧ a.overdue = true ∧ a.dueTimer = none ∧ a.overdueTimer = none ∧
        a.proven = (s.point p).proofA.proven) ∧
      (b.due = false ∧ b.overdue = true ∧ b.dueTimer = none ∧ b.overdueTimer = none ∧
        b.proven = (s.point p).proofB.proven) := by
  let v : Ev := Ev.resetMachine p (if wasCounting s p then Ev.disturbAll p c ⟨s, [], []⟩ else ⟨s, [], []⟩)
  have hdark : s.darken c p = (v.loseEligibility p false).s := rfl
  have hpoint : v.s.point p = { s.point p with
      machine := .idle, passage := none, confusion := none, quietTimer := none } := by
    rw [Ev.resetMachine_point, Ev.disturbIf_point]
  rw [hdark]
  cases hp : proofAt v.s p with
  | none =>
    rw [Ev.loseEligibility_point_of_none hp, hpoint]
    exact ⟨_, _, rfl, ⟨rfl, rfl, rfl, rfl, rfl⟩, ⟨rfl, rfl, rfl, rfl, rfl⟩⟩
  | some pr =>
    rw [Ev.loseEligibility_point_undelivered hp, hpoint]
    cases pr.system.sys <;> exact ⟨_, _, rfl, ⟨rfl, rfl, rfl, rfl, rfl⟩, ⟨rfl, rfl, rfl, rfl, rfl⟩⟩

theorem viewBut_entry {X : Flaws} {s : State} {p : PointId} (h : ViewBut X s) (ha : ¬X .active p) (hs : ¬X .stale p)
    (ho : ¬X .overdue p) :
    s.view.get p = ⟨decide ((s.point p).machine ≠ .idle), (s.point p).overdueIndication⟩ := by
  obtain ⟨hactive, hover⟩ := h p
  obtain ⟨hup, hdown⟩ := hactive.resolve_left ha
  have h1 : (s.view.get p).active = decide ((s.point p).machine ≠ .idle) :=
    Bool.eq_iff_iff.mpr (by simpa using ⟨fun h => (hdown h).resolve_right hs, hup⟩)
  cases hv : s.view.get p
  rw [hv] at h1 hover
  rw [← h1, ← hover.resolve_left ho]

theorem Around.rest {p : PointId} {s t : State} (h : Around p s t) :
    (∀ q, q ≠ p → t.point q = s.point q) ∧ t.groups = s.groups ∧ t.device = s.device ∧ t.sequencer = s.sequencer :=
  ⟨fun _ hq => h.point_ne hq, h.groups, h.device, h.sequencer⟩

/-- Settles O31: the disturbance comes first, while the point still counts; what follows leaves DISTURBED sections alone. -/
theorem aDarkenedPointStopsCounting : Obligations.ADarkenedPointStopsCounting := by
  unfold Obligations.ADarkenedPointStopsCounting
  intro p c s _ hview t
  let u : Ev := if wasCounting s p then Ev.disturbAll p c ⟨s, [], []⟩ else ⟨s, [], []⟩
  have ht : t = ((u.resetMachine p).loseEligibility p false).s := rfl
  have haround : Around p s (u.resetMachine p).s :=
    (Ev.disturbIf_around (wasCounting s p) p c ⟨s, [], []⟩).trans (Ev.resetMachine_around p u)
  have hlose := Ev.loseEligibility_around p false (u.resetMachine p)
  have hafter : Dormant u.s t := (Ev.resetMachine_dormant p u).trans (Ev.loseEligibility_dormant p false _)
  obtain ⟨a, b, hpoint, ⟨hdueA, hoverA, hdtA, hotA, hprovenA⟩, ⟨hdueB, hoverB, hdtB, hotB, hprovenB⟩⟩ := s.darken_point c p
  have hpoint : t.point p = _ := hpoint
  have hentry : t.view.get p = ⟨decide ((t.point p).machine ≠ .idle), (t.point p).overdueIndication⟩ :=
    viewBut_entry ((Ev.darkenPoint_closes (X := Flaws.none) c p ⟨s, [], []⟩).view (viewBut_of_ok hview)) id id id
  refine ⟨by rw [hpoint], by rw [hpoint], by rw [hpoint], by rw [hpoint], by rw [hpoint], by rw [hpoint], fun x => ?_, ?_,
    fun hcounting n hn htrust => ?_, ?_⟩
  · obtain ⟨hunder, hqueue⟩ := Ev.loseEligibility_proofs p false (u.resetMachine p) x
    rw [hpoint]
    cases x
    · exact ⟨hoverA, hdueA, hdtA, hotA, hprovenA, hunder, hqueue⟩
    · exact ⟨hoverB, hdueB, hdtB, hotB, hprovenB, hunder, hqueue⟩
  · rw [hentry, hpoint]
    simp [Point.overdueIndication, hoverA]
  · exact hafter.disturbed (Ev.disturbIf_disturbed hcounting p c ⟨s, [], []⟩ hn htrust)
  · obtain ⟨h1, h2, h3, h4⟩ := haround.rest
    obtain ⟨k1, k2, k3, k4⟩ := hlose.rest
    exact ⟨fun q hq => (k1 q hq).trans (h1 q hq), k2.trans h2, k3.trans h3, k4.trans h4⟩

end Sys2Proof.Machine
end

section
/-! The entry to FAULT (R41): what it leaves of the point, the machine and the proof under way (the last clause of O19). -/

namespace Sys2Proof.Machine

/-! ## Moves of the machine alone -/

/-- The machine, its record and its confusion may differ, and the retreat tally. -/
def Point.MovedTo (a b : Point) : Prop :=
  b = { a with machine := b.machine, passage := b.passage, confusion := b.confusion, quietTimer := b.quietTimer
               retreatTally := b.retreatTally }

theorem Point.MovedTo.refl (a : Point) : a.MovedTo a := rfl

theorem Point.MovedTo.trans {a b c : Point} (h : a.MovedTo b) (h' : b.MovedTo c) : a.MovedTo c := by
  unfold Point.MovedTo at *; rw [h', h]

theorem Point.MovedTo.line {a b : Point} (h : a.MovedTo b) (x : Sys) : b.line x = a.line x := by
  unfold Point.MovedTo at h; rw [h]; cases x <;> rfl

theorem Ev.deliverChange_movedTo (p : PointId) (chg : Lines) (a b : Bool) (t : Time) (w : Ev) :
    (w.s.point p).MovedTo ((w.deliverChange p chg a b t).s.point p) := by
  unfold Ev.deliverChange
  split
  · rw [Ev.onPoint_point]; rfl
  · split
    · rfl
    · unfold Ev.openPassage; rw [Ev.pointActive_point, Ev.onPoint_point]; rfl
    · rw [Ev.onPoint_point]; rfl
    · rw [Ev.onPoint_point]; rfl
    · unfold Ev.retreat; rw [Ev.pointQuiet_point, Ev.trace_s, Ev.onPoint_point]; rfl
    · rw [Ev.enterConfused_point]; rfl
    · rfl

theorem Ev.deliverEnd_movedTo (x : SystemId) (t : Time) (w : Ev) :
    (w.s.point x.point).MovedTo ((w.deliverEnd x t).s.point x.point) := by
  unfold Ev.deliverEnd
  split
  · exact Ev.deliverChange_movedTo _ _ _ _ _ _
  · rfl

/-! ## The machine after an initialisation and after a delivery at a proof's end -/

/-- A machine at rest. -/
def Point.AtRest (pt : Point) : Prop :=
  pt.machine = .idle ∧ pt.passage = none ∧ pt.confusion = none ∧ pt.quietTimer = none

/-- A machine confused by its start-up. -/
def Point.StartsUp (now : Time) (pt : Point) : Prop :=
  pt.machine = .confused ∧ pt.passage = none ∧ pt.confusion = some ⟨.startUp, now⟩ ∧ pt.quietTimer = none

theorem Ev.initialise_point (p : PointId) (w : Ev) :
    (w.initialise p).s.point p = if reads w.s p .a || reads w.s p .b then
      { w.s.point p with
        machine := .confused, confusion := some ⟨.startUp, w.s.now⟩, passage := none, quietTimer := none }
    else w.s.point p := by
  unfold Ev.initialise
  split
  · rw [Ev.enterConfused_point]
  · rfl

theorem Ev.initialise_startsUp {p : PointId} {w : Ev} {x : Sys} (h : reads w.s p x = true) :
    ((w.initialise p).s.point p).StartsUp w.s.now := by
  rw [Ev.initialise_point, if_pos (by cases x <;> simp [h])]
  exact ⟨rfl, rfl, rfl, rfl⟩

theorem Ev.initialise_of_free {p : PointId} {w : Ev} (h : ∀ x, reads w.s p x = false) : w.initialise p = w := by
  unfold Ev.initialise; rw [h, h]; rfl

theorem Ev.deliverEnd_of_free {x : SystemId} {w : Ev} (h : ((w.s.point x.point).line x.sys).accepted = false) (t : Time) :
    w.deliverEnd x t = w := by
  unfold Ev.deliverEnd; rw [h]; rfl

/-- A tested system that reads occupied changes nothing at a CONFUSED machine but its quiet timer. -/
theorem Ev.deliverEnd_of_confused {x : SystemId} {w : Ev} (h : ((w.s.point x.point).line x.sys).accepted = true)
    (hm : (w.s.point x.point).machine = .confused) (hc : w.s.channel = none) (t : Time) :
    w.deliverEnd x t = w.onPoint x.point (fun pt => { pt with quietTimer := none }) := by
  have hreads : (reads w.s x.point .a || reads w.s x.point .b) = true := by
    have hx := reads_of_free (x := x.sys) (underProof_of_channel hc x.point x.sys)
    rw [h] at hx
    cases hs : x.sys <;> rw [hs] at hx <;> simp [hx]
  unfold Ev.deliverEnd
  rw [if_pos h, Ev.deliverChange_of_confused hm, quietTimerFor, if_pos hreads]

/-- The record of a wheel that one system alone has seen. -/
def onsetRecord (x : Sys) (t : Time) : Passage :=
  { onset := t
    aOn := if x = .a then some t else none
    bOn := if x = .b then some t else none
    aOff := none, bOff := none, reversal := false, partly := false }

/-- The one of two values that belongs to a system. -/
def pick {α : Type} (x : Sys) (a b : α) : α :=
  match x with
  | .a => a
  | .b => b

theorem pick_apply {α : Type} (x : Sys) (f : Sys → α) : pick x (f .a) (f .b) = f x := by cases x <;> rfl

theorem recordChange_opened {x : Sys} {a b : Bool} (t : Time) (h : pick x a b = true) :
    (Passage.opened t).recordChange x.lines a b t = onsetRecord x t := by
  cases x <;> cases h <;> rfl

theorem transition_idle_onset {x : Sys} {a b : Bool} (h : pick x a b = true) (ho : pick x.other a b = false) :
    transition .idle a b = some (firstState x, .openRecord) := by
  cases x <;> cases h <;> cases ho <;> rfl

/-- A change to occupied of one system alone at an IDLE machine opens a record in the first state of its direction. -/
theorem Ev.deliverChange_onset {p : PointId} {x : Sys} {w : Ev} {a b : Bool} (hm : (w.s.point p).machine = .idle)
    (h : pick x a b = true) (ho : pick x.other a b = false) (t : Time) :
    w.deliverChange p x.lines a b t = w.openPassage p (firstState x) (onsetRecord x t) := by
  rw [Ev.deliverChange_of_transition (by rw [hm]; exact transition_idle_onset h ho), ← recordChange_opened t h]
  rfl

/-- A tested system that reads occupied is delivered to an IDLE machine as a wheel onset. -/
theorem Ev.deliverEnd_onset {x : SystemId} {w : Ev} (h : ((w.s.point x.point).line x.sys).accepted = true)
    (ho : ((w.s.point x.point).line x.sys.other).accepted = false) (hm : (w.s.point x.point).machine = .idle)
    (hc : w.s.channel = none) (t : Time) :
    w.deliverEnd x t = w.openPassage x.point (firstState x.sys) (onsetRecord x.sys t) := by
  have hreads := fun y => reads_of_free (x := y) (underProof_of_channel hc x.point y)
  unfold Ev.deliverEnd
  rw [if_pos h]
  refine Ev.deliverChange_onset hm ?_ ?_ t
  · rw [pick_apply _ (reads w.s x.point), hreads, h]
  · rw [pick_apply _ (reads w.s x.point), hreads, ho]

theorem Ev.openPassage_point (p : PointId) (m : DirectionMachine) (r : Passage) (w : Ev) :
    (w.openPassage p m r).s.point p =
      { w.s.point p with machine := m, passage := some r, confusion := none, quietTimer := none } := by
  unfold Ev.openPassage; rw [Ev.pointActive_point, Ev.onPoint_point]

/-! ## The entry to FAULT in its steps -/

/-- The point marked, its sections disturbed and its machine reset. -/
def Ev.faultReset (p : PointId) (cause : FaultCause) (w : Ev) : Ev :=
  Ev.resetMachine p (if counting w.s p then
    (w.onPoint p (fun pt => { pt with health := .fault, faultCause := some cause, faultTime := some w.s.now })).disturbAll p
      .pointFault
  else w.onPoint p (fun pt => { pt with health := .fault, faultCause := some cause, faultTime := some w.s.now }))

/-- And its machine initialised, if it is lit and in use. -/
def Ev.faultInitialised (p : PointId) (cause : FaultCause) (w : Ev) : Ev :=
  if lit (w.faultReset p cause).s p && inUse (w.faultReset p cause).s p then (w.faultReset p cause).initialise p
  else w.faultReset p cause

theorem Ev.enterFault_eq (p : PointId) (cause : FaultCause) (w : Ev) :
    w.enterFault p cause = (w.faultInitialised p cause).loseEligibility p true := rfl

section
variable (p : PointId) (cause : FaultCause) (w : Ev)

theorem Ev.faultReset_around : Around p w.s (w.faultReset p cause).s :=
  ((Ev.onPoint_around p _ w).trans (Ev.disturbIf_around _ p _ _)).trans (Ev.resetMachine_around p _)

theorem Ev.faultReset_point :
    (w.faultReset p cause).s.point p = { w.s.point p with
      health := .fault, faultCause := some cause, faultTime := some w.s.now
      machine := .idle, passage := none, confusion := none, quietTimer := none } := by
  unfold Ev.faultReset
  rw [Ev.resetMachine_point, Ev.disturbIf_point, Ev.onPoint_point]

theorem Ev.faultReset_lit : lit (w.faultReset p cause).s p = lit w.s p := (w.faultReset_around p cause).lit p

theorem Ev.faultReset_inUse : inUse (w.faultReset p cause).s p = inUse w.s p :=
  inUse_of_mode (by rw [w.faultReset_point])

theorem Ev.faultReset_accepted (x : Sys) :
    (((w.faultReset p cause).s.point p).line x).accepted = ((w.s.point p).line x).accepted := by
  rw [w.faultReset_point]; cases x <;> rfl

theorem Ev.faultReset_reads (x : Sys) : reads (w.faultReset p cause).s p x = reads w.s p x := by
  unfold reads
  rw [w.faultReset_accepted, (w.faultReset_around p cause).underProof]

theorem Ev.faultInitialised_around : Around p w.s (w.faultInitialised p cause).s := by
  unfold Ev.faultInitialised
  split
  · exact (w.faultReset_around p cause).trans (Ev.initialise_around p _)
  · exact w.faultReset_around p cause

theorem Ev.faultInitialised_movedTo :
    ((w.faultReset p cause).s.point p).MovedTo ((w.faultInitialised p cause).s.point p) := by
  unfold Ev.faultInitialised
  split
  · rw [Ev.initialise_point]; split <;> rfl
  · rfl

end

section
variable {p : PointId} {s : State}

/-- The entry to FAULT from a state, initialised. -/
def State.faultBegun (p : PointId) (cause : FaultCause) (s : State) : Ev := Ev.faultInitialised p cause ⟨s, [], []⟩

theorem State.faultBegun_held (cause : FaultCause) (h : lit s p = false ∨ inUse s p = false) :
    ((s.faultBegun p cause).s.point p).AtRest := by
  unfold State.faultBegun Ev.faultInitialised
  rw [Ev.faultReset_lit, Ev.faultReset_inUse, if_neg (by rcases h with h | h <;> simp [h]), Ev.faultReset_point]
  exact ⟨rfl, rfl, rfl, rfl⟩

theorem State.faultBegun_free (cause : FaultCause) (h : ∀ x, reads s p x = false) :
    ((s.faultBegun p cause).s.point p).AtRest := by
  unfold State.faultBegun Ev.faultInitialised
  rw [Ev.initialise_of_free (fun x => by rw [Ev.faultReset_reads]; exact h x), ite_self, Ev.faultReset_point]
  exact ⟨rfl, rfl, rfl, rfl⟩

theorem State.faultBegun_occupied (cause : FaultCause) (hl : lit s p = true) (hu : inUse s p = true) {x : Sys}
    (h : reads s p x = true) : ((s.faultBegun p cause).s.point p).StartsUp s.now := by
  have hnow : (Ev.faultReset p cause ⟨s, [], []⟩).s.now = s.now := (Ev.faultReset_around p cause ⟨s, [], []⟩).now
  unfold State.faultBegun Ev.faultInitialised
  rw [Ev.faultReset_lit, Ev.faultReset_inUse, if_pos (by simp [hl, hu]), ← hnow]
  exact Ev.initialise_startsUp (x := x) (by rw [Ev.faultReset_reads]; exact h)

theorem State.faultBegun_around (p : PointId) (cause : FaultCause) (s : State) : Around p s (s.faultBegun p cause).s :=
  Ev.faultInitialised_around p cause ⟨s, [], []⟩

theorem State.faultBegun_accepted (cause : FaultCause) (x : Sys) :
    (((s.faultBegun p cause).s.point p).line x).accepted = ((s.point p).line x).accepted := by
  have h := Ev.faultInitialised_movedTo p cause ⟨s, [], []⟩
  unfold State.faultBegun
  rw [h.line, Ev.faultReset_accepted]

theorem State.fault_eq (p : PointId) (cause : FaultCause) (s : State) :
    s.fault p cause = ((s.faultBegun p cause).loseEligibility p true).s := by
  unfold State.fault State.faultBegun; rw [Ev.enterFault_eq]

theorem State.faultBegun_proofAt (p : PointId) (cause : FaultCause) (s : State) :
    proofAt (s.faultBegun p cause).s p = proofAt s p := (s.faultBegun_around p cause).proofAt p

/-- The record of a point that enters FAULT with no proof under way there. -/
theorem State.fault_point_of_none (cause : FaultCause) (h : proofAt s p = none) :
    (s.fault p cause).point p = ((s.faultBegun p cause).s.point p).epochsEnd := by
  rw [State.fault_eq]
  exact Ev.loseEligibility_point_of_none (by rw [State.faultBegun_proofAt]; exact h) true

/-- The proof under way ended, before the delivery of its system. -/
def State.faultUnfinished (pr : Proof) (cause : FaultCause) (s : State) : Ev :=
  ((s.faultBegun pr.system.point cause).onProofs (s.faultBegun pr.system.point cause).s.channel
    (withoutPoint pr.system.point (s.faultBegun pr.system.point cause).s.queue)).unfinish pr

theorem State.fault_point_of_some {pr : Proof} (cause : FaultCause) (h : proofAt s p = some pr) :
    (s.fault p cause).point p =
      ((((s.faultUnfinished pr cause).deliverEnd pr.system s.now).s.point p)).epochsEnd := by
  have h' := (State.faultBegun_proofAt p cause s).trans h
  have hnow : (s.faultBegun p cause).s.now = s.now := (s.faultBegun_around p cause).now
  obtain ⟨-, rfl⟩ := proofAt_eq_some h
  rw [State.fault_eq]
  unfold State.faultUnfinished
  generalize s.faultBegun pr.system.point cause = v at h' hnow ⊢
  rw [Ev.loseEligibility_point,
    Ev.endUnfinished_of_some (w := v.onProofs v.s.channel (withoutPoint pr.system.point v.s.queue)) h', if_pos rfl, ← hnow]
  rfl

theorem State.faultUnfinished_point (pr : Proof) (cause : FaultCause) (s : State) :
    (s.faultUnfinished pr cause).s.point pr.system.point =
      ((s.faultBegun pr.system.point cause).s.point pr.system.point).withResult pr.system.sys .unfinished := by
  unfold State.faultUnfinished
  generalize s.faultBegun pr.system.point cause = v
  rw [Ev.unfinish_point]
  rfl

theorem State.faultUnfinished_channel (pr : Proof) (cause : FaultCause) (s : State) :
    (s.faultUnfinished pr cause).s.channel = none := by
  unfold State.faultUnfinished
  exact (Ev.unfinish_around pr _).channel

theorem Point.withResult_fields (x y : Sys) (r : ProofResult) (pt : Point) :
    ((pt.withResult x r).line y) = pt.line y ∧ (pt.withResult x r).machine = pt.machine ∧
      (pt.withResult x r).passage = pt.passage ∧ (pt.withResult x r).confusion = pt.confusion ∧
      (pt.withResult x r).quietTimer = pt.quietTimer := by
  cases x <;> cases y <;> exact ⟨rfl, rfl, rfl, rfl, rfl⟩

theorem State.faultUnfinished_accepted (pr : Proof) (cause : FaultCause) (s : State) (x : Sys) :
    (((s.faultUnfinished pr cause).s.point pr.system.point).line x).accepted =
      ((s.point pr.system.point).line x).accepted := by
  rw [State.faultUnfinished_point, (Point.withResult_fields _ x _ _).1, State.faultBegun_accepted]

end

theorem Point.AtRest.epochsEnd {pt : Point} (h : pt.AtRest) : pt.epochsEnd.AtRest := h
theorem Point.StartsUp.epochsEnd {pt : Point} {t : Time} (h : pt.StartsUp t) : pt.epochsEnd.StartsUp t := h

theorem Point.AtRest.withResult {pt : Point} (h : pt.AtRest) (x : Sys) (r : ProofResult) : (pt.withResult x r).AtRest := by
  cases x <;> exact h
theorem Point.StartsUp.withResult {pt : Point} {t : Time} (h : pt.StartsUp t) (x : Sys) (r : ProofResult) :
    (pt.withResult x r).StartsUp t := by cases x <;> exact h

/-- The standing of a point in FAULT. -/
def Point.Faulted (a : Point) (cause : FaultCause) (now : Time) (b : Point) : Prop :=
  b.health = .fault ∧ b.faultCause = some cause ∧ b.faultTime = some now ∧ b.level = a.level ∧ b.mode = a.mode

theorem Point.Faulted.movedTo {a b c : Point} {cause : FaultCause} {now : Time} (h : a.Faulted cause now b)
    (h' : b.MovedTo c) : a.Faulted cause now c := by
  unfold Point.MovedTo at h'; rw [h']; exact h

theorem Point.MovedTo.proof {a b : Point} (h : a.MovedTo b) (x : Sys) : b.proof x = a.proof x := by
  unfold Point.MovedTo at h; rw [h]; cases x <;> rfl

theorem Point.Faulted.withResult {a b : Point} {cause : FaultCause} {now : Time} (h : a.Faulted cause now b) (x : Sys)
    (r : ProofResult) : a.Faulted cause now (b.withResult x r) := by cases x <;> exact h

theorem Point.Faulted.epochsEnd {a b : Point} {cause : FaultCause} {now : Time} (h : a.Faulted cause now b) :
    a.Faulted cause now b.epochsEnd := h

theorem Point.withResult_proof (x y : Sys) (r : ProofResult) (pt : Point) :
    (pt.withResult x r).proof y = if y = x then { pt.proof y with lastResult := some r } else pt.proof y :=
  Point.onProof_proof x y _ pt

theorem State.faultBegun_standing (p : PointId) (cause : FaultCause) (s : State) :
    (s.point p).Faulted cause s.now ((s.faultBegun p cause).s.point p) ∧
      ∀ x, ((s.faultBegun p cause).s.point p).proof x = (s.point p).proof x := by
  have hmoved := Ev.faultInitialised_movedTo p cause ⟨s, [], []⟩
  have hreset : (s.point p).Faulted cause s.now ((Ev.faultReset p cause ⟨s, [], []⟩).s.point p) := by
    rw [Ev.faultReset_point]; exact ⟨rfl, rfl, rfl, rfl, rfl⟩
  refine ⟨hreset.movedTo hmoved, fun x => (hmoved.proof x).trans ?_⟩
  rw [Ev.faultReset_point]
  cases x <;> rfl

theorem underProof_of_proofAt {s : State} {p : PointId} {pr : Proof} (h : proofAt s p = some pr) (x : Sys) :
    underProof s p x = decide (x = pr.system.sys) := by
  obtain ⟨hc, rfl⟩ := proofAt_eq_some h
  rcases pr with ⟨⟨p, y⟩, phase, take, response, window, free⟩
  unfold underProof
  rw [hc]
  simp [beq_eq_decide, eq_comm]

/-- What the entry to FAULT leaves of the point apart from the machine. -/
theorem State.fault_standing (p : PointId) (cause : FaultCause) (s : State) :
    (s.point p).Faulted cause s.now ((s.fault p cause).point p) ∧
      ∀ x, ((s.fault p cause).point p).proof x = { (s.point p).proof x with
        due := false, overdue := true, dueTimer := none, overdueTimer := none
        lastResult := if underProof s p x then some .unfinished else ((s.point p).proof x).lastResult } := by
  cases hp : proofAt s p with
  | none =>
    obtain ⟨hbegun, hproof⟩ := s.faultBegun_standing p cause
    rw [State.fault_point_of_none cause hp]
    refine ⟨hbegun.epochsEnd, fun x => ?_⟩
    rw [Point.epochsEnd_proof, hproof, proofAt_none hp]
    rfl
  | some pr =>
    obtain ⟨-, rfl⟩ := proofAt_eq_some hp
    obtain ⟨hbegun, hproof⟩ := s.faultBegun_standing pr.system.point cause
    have hmoved := Ev.deliverEnd_movedTo pr.system s.now (s.faultUnfinished pr cause)
    rw [State.faultUnfinished_point] at hmoved
    rw [State.fault_point_of_some cause hp]
    refine ⟨((hbegun.withResult pr.system.sys .unfinished).movedTo hmoved).epochsEnd, fun x => ?_⟩
    rw [Point.epochsEnd_proof, hmoved.proof, Point.withResult_proof, hproof, underProof_of_proofAt hp]
    by_cases hx : x = pr.system.sys
    · rw [if_pos hx, if_pos (by simpa using hx)]; rfl
    · rw [if_neg hx, if_neg (by simpa using hx)]; rfl

/-! ## The machine of a point in FAULT -/

section
variable {p : PointId} {s : State} (cause : FaultCause)

theorem State.fault_atRest_of_none (hp : proofAt s p = none)
    (h : (lit s p = false ∨ inUse s p = false) ∨ ∀ x, ((s.point p).line x).accepted = false) :
    ((s.fault p cause).point p).AtRest := by
  rw [State.fault_point_of_none cause hp]
  rcases h with h | h
  · exact (s.faultBegun_held cause h).epochsEnd
  · exact (s.faultBegun_free cause fun x => by rw [reads_of_free (proofAt_none hp x), h]).epochsEnd

theorem State.fault_startsUp_of_none (hp : proofAt s p = none) (hl : lit s p = true) (hu : inUse s p = true) {x : Sys}
    (hx : ((s.point p).line x).accepted = true) : ((s.fault p cause).point p).StartsUp s.now := by
  rw [State.fault_point_of_none cause hp]
  exact (s.faultBegun_occupied cause hl hu (x := x) (by rw [reads_of_free (proofAt_none hp x), hx])).epochsEnd

variable {pr : Proof} (hp : proofAt s p = some pr)
include hp

theorem State.reads_partner : reads s p pr.system.sys.other = ((s.point p).line pr.system.sys.other).accepted :=
  reads_of_free (by rw [underProof_of_proofAt hp]; cases pr.system.sys <;> rfl)

/-- Under proof with the partner occupied: the initialisation confuses the machine, and the delivery of the tested system
leaves its quiet timer stopped. -/
theorem State.fault_startsUp_of_partner (hl : lit s p = true) (hu : inUse s p = true)
    (ho : ((s.point p).line pr.system.sys.other).accepted = true) : ((s.fault p cause).point p).StartsUp s.now := by
  have hbegun := s.faultBegun_occupied cause hl hu (x := pr.system.sys.other) (by rw [State.reads_partner hp, ho])
  rw [State.fault_point_of_some cause hp]
  obtain ⟨-, rfl⟩ := proofAt_eq_some hp
  refine Point.StartsUp.epochsEnd ?_
  have hpoint : ((s.faultUnfinished pr cause).s.point pr.system.point).StartsUp s.now := by
    rw [State.faultUnfinished_point]; exact hbegun.withResult _ _
  cases hx : ((s.point pr.system.point).line pr.system.sys).accepted with
  | false => rw [Ev.deliverEnd_of_free (by rw [State.faultUnfinished_accepted]; exact hx)]; exact hpoint
  | true =>
    obtain ⟨hm, hpassage, hconfusion, -⟩ := hpoint
    rw [Ev.deliverEnd_of_confused (by rw [State.faultUnfinished_accepted]; exact hx) hm
      (s.faultUnfinished_channel pr cause), Ev.onPoint_point]
    exact ⟨hm, hpassage, hconfusion, rfl⟩

/-- Under proof with the partner free: the initialisation leaves the machine IDLE. -/
theorem State.faultUnfinished_atRest (ho : ((s.point p).line pr.system.sys.other).accepted = false) :
    ((s.faultUnfinished pr cause).s.point pr.system.point).AtRest := by
  have hfree : ∀ x, reads s p x = false := fun x => by
    by_cases hx : x = pr.system.sys
    · exact reads_of_underProof (by rw [underProof_of_proofAt hp]; simpa using hx)
    · rw [show x = pr.system.sys.other by revert hx; cases x <;> cases pr.system.sys <;> simp [Sys.other],
        State.reads_partner hp, ho]
  obtain ⟨-, rfl⟩ := proofAt_eq_some hp
  rw [State.faultUnfinished_point]
  exact (s.faultBegun_free cause hfree).withResult _ _

theorem State.fault_atRest_of_tested (ho : ((s.point p).line pr.system.sys.other).accepted = false)
    (hx : ((s.point p).line pr.system.sys).accepted = false) : ((s.fault p cause).point p).AtRest := by
  have hrest := s.faultUnfinished_atRest cause hp ho
  rw [State.fault_point_of_some cause hp]
  obtain ⟨-, rfl⟩ := proofAt_eq_some hp
  rw [Ev.deliverEnd_of_free (by rw [State.faultUnfinished_accepted]; exact hx)]
  exact hrest.epochsEnd

/-- The tested system that reads occupied at the end of its proof is delivered as a wheel onset. -/
theorem State.fault_delivered (ho : ((s.point p).line pr.system.sys.other).accepted = false)
    (hx : ((s.point p).line pr.system.sys).accepted = true) :
    ((s.fault p cause).point p).machine = firstState pr.system.sys ∧ ((s.fault p cause).point p).confusion = none ∧
      ((s.fault p cause).point p).quietTimer = none ∧
      ((s.fault p cause).point p).passage = some (onsetRecord pr.system.sys s.now) := by
  obtain ⟨hm, -, -, -⟩ := s.faultUnfinished_atRest cause hp ho
  rw [State.fault_point_of_some cause hp]
  obtain ⟨-, rfl⟩ := proofAt_eq_some hp
  rw [Ev.deliverEnd_onset (by rw [State.faultUnfinished_accepted]; exact hx)
    (by rw [State.faultUnfinished_accepted]; exact ho) hm (s.faultUnfinished_channel pr cause), Ev.openPassage_point]
  exact ⟨rfl, rfl, rfl, rfl⟩

end

/-! ## What lies around the point -/

theorem Around.withProofs {p : PointId} {s t : State} (h : Around p s t) (c : Option Proof) (q : List SystemId) :
    Around p { s with channel := c, queue := q } { t with channel := c, queue := q } := by
  have e := congrArg (fun u : State => ({ u with channel := c, queue := q } : State)) h
  exact e

theorem State.fault_around (p : PointId) (cause : FaultCause) (s : State) :
    Around p { s with channel := channelWithout p s, queue := withoutPoint p s.queue } (s.fault p cause) := by
  have hbegun := s.faultBegun_around p cause
  have hlose := Ev.loseEligibility_around p true (s.faultBegun p cause)
  have hchannel : channelWithout p (s.faultBegun p cause).s = channelWithout p s := by
    unfold channelWithout; rw [State.faultBegun_proofAt, hbegun.channel]
  rw [State.fault_eq]
  generalize s.faultBegun p cause = v at hbegun hlose hchannel ⊢
  rw [hchannel, hbegun.queue] at hlose
  exact (hbegun.withProofs _ _).trans hlose

theorem State.fault_view (p : PointId) (cause : FaultCause) {s : State} (h : s.ViewOk) :
    (s.fault p cause).view.get p = ⟨decide (((s.fault p cause).point p).machine ≠ .idle), true⟩ := by
  have hholds := Ev.enterFault_closes (X := Flaws.none) (fun _ => id) p cause ⟨s, [], []⟩
  have hentry : (s.fault p cause).view.get p = _ := viewBut_entry (hholds.view (viewBut_of_ok h)) id id id
  have hover : ((s.fault p cause).point p).overdueIndication = true := by
    have ha := (s.fault_standing p cause).2 .a
    have ha : ((s.fault p cause).point p).proofA = _ := ha
    simp [Point.overdueIndication, ha]
  rw [hentry]
  exact congrArg (PointView.mk _) hover

theorem State.fault_disturbs (cause : FaultCause) {p : PointId} {s : State} (hc : counting s p = true) {n : SectionId}
    (hn : n ∈ (s.entry p).bounds) (ht : (s.sec n).state.trusted = true) :
    ((s.fault p cause).sec n).state = .disturbed ∧ ((s.fault p cause).sec n).cause = some .pointFault ∧
      ((s.fault p cause).sec n).count = (s.sec n).count := by
  let v : Ev := Ev.onPoint p (fun pt => { pt with health := .fault, faultCause := some cause, faultTime := some s.now })
    ⟨s, [], []⟩
  have hv : v.s = s.setPoint p { s.point p with
      health := .fault, faultCause := some cause, faultTime := some s.now } := Ev.onPoint_setPoint p _ _
  have hentry : v.s.entry p = s.entry p := by rw [hv]; rfl
  have hsec : v.s.sec n = s.sec n := by rw [hv]; rfl
  have hdisturbed := Ev.disturbIf_disturbed hc p .pointFault v (hentry ▸ hn) (hsec ▸ ht)
  rw [hsec] at hdisturbed
  have hreset : Dormant (if counting s p then v.disturbAll p .pointFault else v).s (Ev.faultReset p cause ⟨s, [], []⟩).s :=
    Ev.resetMachine_dormant p _
  have hinit : Dormant (Ev.faultReset p cause ⟨s, [], []⟩).s (s.faultBegun p cause).s := by
    unfold State.faultBegun Ev.faultInitialised
    split
    · exact Ev.initialise_dormant _ _
    · exact .refl _
  rw [State.fault_eq]
  exact ((hreset.trans hinit).trans (Ev.loseEligibility_dormant p true _)).disturbed hdisturbed

end Sys2Proof.Machine
end

section
/-! Weights and the health level (section 2.3): GLITCH (O19), the quiet timer (O20) and the leak (O21). -/

namespace Sys2Proof.Machine

/-! ## One weight, one evaluation -/

theorem nextHealth_of_level {d : DeviceParams} {h : Health} {level : Nat} (hl : d.fault ≤ level) :
    nextHealth d h level = .fault := by
  unfold nextHealth; cases h <;> simp [hl]

theorem nextHealth_of_below {d : DeviceParams} {h : Health} {level : Nat} (hf : h ≠ .fault) (hl : level < d.fault) :
    nextHealth d h level ≠ .fault := by
  unfold nextHealth
  cases h
  case fault => exact absurd rfl hf
  all_goals
    dsimp only
    rw [if_neg (by omega)]
    split <;> simp

theorem Ev.evaluateHealth_of_fault {p : PointId} {w : Ev} (h : (w.s.point p).health = .fault) : w.evaluateHealth p = w := by
  unfold Ev.evaluateHealth
  dsimp only
  rw [h]
  exact if_pos rfl

theorem Ev.evaluateHealth_enters {p : PointId} {w : Ev} (h : (w.s.point p).health ≠ .fault)
    (hl : w.s.params.fault ≤ (w.s.point p).level) : w.evaluateHealth p = w.enterFault p .level := by
  unfold Ev.evaluateHealth
  dsimp only
  rw [nextHealth_of_level hl]
  exact if_neg h

theorem Ev.evaluateHealth_marks {p : PointId} {w : Ev} (h : (w.s.point p).health ≠ .fault)
    (hl : (w.s.point p).level < w.s.params.fault) :
    w.evaluateHealth p = w.onPoint p (fun pt => { pt with
      health := nextHealth w.s.params (w.s.point p).health (w.s.point p).level }) := by
  have hne := nextHealth_of_below h hl
  unfold Ev.evaluateHealth
  dsimp only
  split
  · rename_i hn; exact absurd hn hne
  · rename_i hn; rw [hn]
  · rename_i hn; rw [hn]

theorem Tallying.fields {f : Point → Point} (h : Tallying f) (pt : Point) :
    (f pt).health = pt.health ∧ (f pt).level = pt.level := ⟨(h pt).1.health, (h pt).2.2⟩

section
variable {p : PointId} {weight : Nat} {f : Point → Point} {w : Ev} (hf : Tallying f)
include hf

/-- The point with its weight, before the evaluation. -/
theorem Ev.addWeight_raised :
    (w.onPoint p (fun pt => { f pt with level := min 255 (pt.level + weight) })).s =
      w.s.setPoint p ((f (w.s.point p)).raised weight) := by
  rw [Ev.onPoint_setPoint]
  unfold Point.raised
  rw [(hf.fields _).2]

theorem Ev.addWeight_enters (h : (w.s.point p).faults w.s.params weight) :
    w.addWeight p weight f =
      (w.onPoint p (fun pt => { f pt with level := min 255 (pt.level + weight) })).enterFault p .level := by
  obtain ⟨hhealth, hlevel⟩ := h
  refine Ev.evaluateHealth_enters ?_ ?_ <;> rw [Ev.onPoint_point]
  · exact ((hf.fields _).1 ▸ hhealth :)
  · rw [Ev.onPoint_s]; exact hlevel

/-- A weight that reaches the fault threshold takes the point into FAULT. -/
theorem Ev.addWeight_faults_s (h : (w.s.point p).faults w.s.params weight) :
    (w.addWeight p weight f).s = (w.s.setPoint p ((f (w.s.point p)).raised weight)).fault p .level := by
  rw [Ev.addWeight_enters hf h, Ev.enterFault_s, Ev.addWeight_raised hf]

/-- Any other weight is added and the point evaluated. -/
theorem Ev.addWeight_s (h : ¬(w.s.point p).faults w.s.params weight) :
    (w.addWeight p weight f).s = w.s.setPoint p ((f (w.s.point p)).weighed w.s.params weight) ∧
      (w.addWeight p weight f).traces = w.traces := by
  obtain ⟨hhealth, hlevel⟩ := hf.fields (w.s.point p)
  unfold Ev.addWeight
  by_cases hfault : (w.s.point p).health = .fault
  · rw [Ev.evaluateHealth_of_fault (by rw [Ev.onPoint_point]; exact hhealth.trans hfault)]
    refine ⟨?_, Ev.onPoint_traces _ _ _⟩
    rw [Ev.onPoint_setPoint]
    unfold Point.weighed
    rw [hlevel, hhealth, hfault]
    congr 1
    generalize f (w.s.point p) = q at hhealth ⊢
    rw [← hhealth] at hfault
    cases q
    cases hfault
    rfl
  · have hbelow : min 255 ((w.s.point p).level + weight) < w.s.params.fault :=
      Nat.lt_of_not_le fun hle => h ⟨hfault, hle⟩
    have hpoint := Ev.onPoint_point p (fun pt => { f pt with level := min 255 (pt.level + weight) }) w
    rw [Ev.evaluateHealth_marks (by rw [hpoint]; exact hhealth ▸ hfault) (by rw [hpoint, Ev.onPoint_s]; exact hbelow)]
    refine ⟨?_, by rw [Ev.onPoint_traces, Ev.onPoint_traces]⟩
    rw [Ev.onPoint_setPoint, hpoint, Ev.onPoint_setPoint]
    unfold Point.weighed
    rw [hlevel]
    simp [State.setPoint]

end

/-! ## What the entry to FAULT traces -/

theorem Ev.disturbIf_traces (b : Bool) (p : PointId) (c : Cause) (w : Ev) :
    (if b then w.disturbAll p c else w).traces = w.traces := by split <;> simp

theorem Ev.faultInitialised_traces (p : PointId) (cause : FaultCause) (w : Ev) :
    (w.faultInitialised p cause).traces = w.traces := by
  have hreset : (w.faultReset p cause).traces = w.traces := by
    unfold Ev.faultReset
    rw [Ev.resetMachine_traces, Ev.disturbIf_traces, Ev.onPoint_traces]
  unfold Ev.faultInitialised
  split
  · rw [Ev.initialise_traces, hreset]
  · exact hreset

/-- With no proof under way at the point the entry to FAULT posts no trace record. -/
theorem Ev.enterFault_traces {p : PointId} {w : Ev} (h : proofAt w.s p = none) (cause : FaultCause) :
    (w.enterFault p cause).traces = w.traces := by
  have hp : proofAt (w.faultInitialised p cause).s p = none := by rw [(w.faultInitialised_around p cause).proofAt]; exact h
  have ht := w.faultInitialised_traces p cause
  rw [Ev.enterFault_eq]
  generalize w.faultInitialised p cause = v at hp ht ⊢
  unfold Ev.loseEligibility
  rw [Ev.onProofStatus_traces, Ev.endUnfinished_of_none (w := v.onProofs v.s.channel (withoutPoint p v.s.queue)) hp]
  exact ht

theorem Ev.addWeight_traces {p : PointId} {weight : Nat} {f : Point → Point} {w : Ev} (hf : Tallying f)
    (h : proofAt w.s p = none ∨ ¬(w.s.point p).faults w.s.params weight) :
    (w.addWeight p weight f).traces = w.traces := by
  by_cases hfaults : (w.s.point p).faults w.s.params weight
  · have hp : proofAt (w.onPoint p (fun pt => { f pt with level := min 255 (pt.level + weight) })).s p = none := by
      rw [(Ev.onPoint_around p _ w).proofAt]; exact h.resolve_right (not_not_intro hfaults)
    rw [Ev.addWeight_enters hf hfaults, Ev.enterFault_traces hp, Ev.onPoint_traces]
  · exact (Ev.addWeight_s hf hfaults).2

/-! ## GLITCH -/

theorem tallying_glitch : Tallying (fun pt => { pt with glitchTally := raise pt.glitchTally }) :=
  fun _ => ⟨⟨rfl, rfl, rfl, rfl⟩, rfl, rfl⟩

theorem tallying_confused : Tallying (fun pt => { pt with confusedTally := raise pt.confusedTally }) :=
  fun _ => ⟨⟨rfl, rfl, rfl, rfl⟩, rfl, rfl⟩

theorem State.setPoint_setPoint (p : PointId) (a b : Point) (s : State) : (s.setPoint p a).setPoint p b = s.setPoint p b := by
  simp [State.setPoint]

/-- A line's run ended. -/
def Line.runEnded (l : Line) : Line := { l with raw := l.accepted, pinLow := l.accepted, run := 0 }

theorem Point.onLine_health (x : Sys) (f : Line → Line) (pt : Point) :
    (pt.onLine x f).health = pt.health ∧ (pt.onLine x f).level = pt.level ∧ (pt.onLine x f).mode = pt.mode ∧
      (pt.onLine x f).machine = pt.machine := by
  cases x <;> exact ⟨rfl, rfl, rfl, rfl⟩

theorem Point.faults_congr {a b : Point} (hh : b.health = a.health) (hl : b.level = a.level) (d : DeviceParams) (k : Nat) :
    b.faults d k ↔ a.faults d k := by unfold Point.faults; rw [hh, hl]

/-- What the work of a glitch leaves, and what it traces. -/
theorem Ev.glitch_taken {p : PointId} {x : Sys} {s : State} (start : Time) {length : Byte} (h : takesGlitch s p x = true)
    (hlength : 2 ≤ length.toNat) :
    Ev.glitch p x start length ⟨s, [], []⟩ =
      ((Ev.onPoint p (Point.onLine x Line.runEnded) ⟨s, [], []⟩).addWeight p s.params.wGlitch
        (fun pt => { pt with glitchTally := raise pt.glitchTally })).trace (.glitch p x start length) := by
  have haround := Ev.onPoint_around p (Point.onLine x Line.runEnded) ⟨s, [], []⟩
  have htakes : takesGlitch (Ev.onPoint p (Point.onLine x Line.runEnded) ⟨s, [], []⟩).s p x = true := by
    unfold takesGlitch at h ⊢
    rw [haround.lit, haround.underProof, inUse_of_mode (s := s) (by rw [Ev.onPoint_point, (Point.onLine_health x _ _).2.2.1])]
    exact h
  unfold Ev.glitch
  dsimp only
  rw [if_pos (by
    rw [Bool.and_eq_true]; exact ⟨htakes, by simpa using hlength⟩)]
  rw [show (Ev.onPoint p (Point.onLine x fun l => { l with raw := l.accepted, pinLow := l.accepted, run := 0 })
    ⟨s, [], []⟩).s.params = s.params from haround.params]
  rfl

theorem Ev.glitch_ignored {p : PointId} {x : Sys} {s : State} (start : Time) {length : Byte}
    (h : takesGlitch s p x = false ∨ length.toNat < 2) :
    Ev.glitch p x start length ⟨s, [], []⟩ = Ev.onPoint p (Point.onLine x Line.runEnded) ⟨s, [], []⟩ := by
  have haround := Ev.onPoint_around p (Point.onLine x Line.runEnded) ⟨s, [], []⟩
  have htakes : takesGlitch (Ev.onPoint p (Point.onLine x Line.runEnded) ⟨s, [], []⟩).s p x = takesGlitch s p x := by
    unfold takesGlitch
    rw [haround.lit, haround.underProof, inUse_of_mode (s := s) (by rw [Ev.onPoint_point, (Point.onLine_health x _ _).2.2.1])]
  unfold Ev.glitch
  dsimp only
  refine if_neg ?_
  rw [Bool.and_eq_true, not_and, decide_eq_true_eq, Nat.not_le]
  exact fun ht => h.resolve_left fun e => by
    rw [← htakes] at e
    exact Bool.noConfusion (e.symm.trans ht)

/-- The glitch clauses of O19. -/
theorem glitch_clauses (p : PointId) (x : Sys) (start : Time) (length : Byte) (s : State) :
    let s' := s.setPoint p ((s.point p).onLine x (fun l => { l with raw := l.accepted, pinLow := l.accepted, run := 0 }))
    let tallied : Point := { s'.point p with glitchTally := raise (s.point p).glitchTally }
    (takesGlitch s p x = true → 2 ≤ length.toNat → ¬(s.point p).faults s.params s.params.wGlitch →
      ∃ u, exec (.glitch p x start length) s = .next u ∧ Traces (.glitch p x start length) s u ∧
        Leaves (s'.setPoint p (tallied.weighed s.params s.params.wGlitch)).settled u) ∧
    (takesGlitch s p x = true → 2 ≤ length.toNat → (s.point p).faults s.params s.params.wGlitch →
      ∃ u, exec (.glitch p x start length) s = .next u ∧ (proofAt s p = none → Traces (.glitch p x start length) s u) ∧
        Leaves ((s'.setPoint p (tallied.raised s.params.wGlitch)).fault p .level).settled u) ∧
    (takesGlitch s p x = false ∨ length.toNat < 2 →
      ∃ u, exec (.glitch p x start length) s = .next u ∧ (s.service.sending ≠ none → u.trace = s.trace) ∧
        Leaves s'.settled u) := by
  intro s' tallied
  let w : Ev := Ev.onPoint p (Point.onLine x Line.runEnded) ⟨s, [], []⟩
  have hw : w.s = s' := Ev.onPoint_setPoint p _ _
  have hpoint : w.s.point p = s'.point p := by rw [hw]
  have hline : s'.point p = (s.point p).onLine x Line.runEnded := State.setPoint_self _ _ _
  have htally : { s'.point p with glitchTally := raise (s'.point p).glitchTally } = tallied := by
    show Point.mk .. = Point.mk ..
    rw [hline]; cases x <;> rfl
  have hparams : w.s.params = s.params := by rw [hw]; rfl
  have hfaults : (w.s.point p).faults w.s.params s.params.wGlitch ↔ (s.point p).faults s.params s.params.wGlitch := by
    rw [hpoint, hparams, hline]
    exact Point.faults_congr (Point.onLine_health x _ _).1 (Point.onLine_health x _ _).2.1 _ _
  have hproof : proofAt w.s p = proofAt s p := (Ev.onPoint_around p _ ⟨s, [], []⟩).proofAt p
  have htraces : w.traces = [] := Ev.onPoint_traces _ _ _
  have hleaves := runEvent_settled (Ev.glitch p x start length) s
  have hchanges := Ev.glitch_changes p x start length ⟨s, [], []⟩
  refine ⟨fun ht hl hf => ⟨_, rfl, ?_, ?_⟩, fun ht hl hf => ⟨_, rfl, fun hp => ?_, ?_⟩, fun h => ⟨_, rfl, fun hb => ?_, ?_⟩⟩
  · refine settled_traces (by simp [TraceRecord.point]) hchanges ?_
    rw [Ev.glitch_taken start ht hl, Ev.trace_traces,
      Ev.addWeight_traces tallying_glitch (.inr (mt hfaults.mp hf)), htraces]
    rfl
  · rw [Ev.glitch_taken start ht hl, Ev.trace_s, (Ev.addWeight_s tallying_glitch (mt hfaults.mp hf)).1, hw] at hleaves
    rw [← htally]; exact hleaves
  · refine settled_traces (by simp [TraceRecord.point]) hchanges ?_
    rw [Ev.glitch_taken start ht hl, Ev.trace_traces, Ev.addWeight_traces tallying_glitch (.inl (hproof.trans hp)), htraces]
    rfl
  · rw [Ev.glitch_taken start ht hl, Ev.trace_s, Ev.addWeight_faults_s tallying_glitch (hfaults.mpr hf), hw] at hleaves
    rw [← htally]; exact hleaves
  · refine settled_traces_none hchanges ?_ hb
    rw [Ev.glitch_ignored start h]; exact htraces
  · rw [Ev.glitch_ignored start h] at hleaves
    rw [← hw]; exact hleaves

/-- Settles O19: the glitch's own clauses, and what the steps of `Ev.enterFault` leave. -/
theorem aGlitchTakenAddsItsWeight : Obligations.AGlitchTakenAddsItsWeight := by
  unfold Obligations.AGlitchTakenAddsItsWeight
  refine ⟨glitch_clauses, fun p cause s => ?_⟩
  intro t pt occupied isIdle isConfused held
  obtain ⟨⟨hhealth, hcause, htime, hlevel, hmode⟩, hproofs⟩ := s.fault_standing p cause
  have haround : Around p _ t := s.fault_around p cause
  obtain ⟨hpoints, hgroups, hdevice, hsequencer⟩ := haround.rest
  have hnotOccupied : ∀ x, ¬occupied x → ((s.point p).line x).accepted = false := fun x h => by simpa [occupied] using h
  have hinUse : ¬held → lit s p = true ∧ inUse s p = true := fun h => by
    simpa [held, not_or] using h
  refine ⟨hhealth, hcause, htime, hlevel, hmode, fun hp => ⟨fun h => ?_, fun hh ho => ?_⟩, fun x hx hh => ?_, hproofs, ?_,
    haround.channel, fun hview => s.fault_view p cause hview, fun hc n hn ht => s.fault_disturbs cause hc hn ht, hpoints,
    hgroups, hdevice, hsequencer, haround.topology⟩
  · refine s.fault_atRest_of_none cause hp (h.imp id fun ⟨ha, hb⟩ x => hnotOccupied x ?_)
    cases x
    · exact ha
    · exact hb
  · obtain ⟨hl, hu⟩ := hinUse hh
    rcases ho with ho | ho
    · exact s.fault_startsUp_of_none cause hp hl hu ho
    · exact s.fault_startsUp_of_none cause hp hl hu ho
  · obtain ⟨hl, hu⟩ := hinUse hh
    obtain ⟨pr, -, hp, hsystem⟩ := proofAt_of_underProof hx
    obtain rfl : pr.system.sys = x := by rw [hsystem]
    exact ⟨fun ho => s.fault_startsUp_of_partner cause hp hl hu ho,
      fun ho hfree => s.fault_atRest_of_tested cause hp (hnotOccupied _ ho) (hnotOccupied _ hfree),
      fun ho hocc => s.fault_delivered cause hp (hnotOccupied _ ho) hocc⟩
  · rw [show t.queue = _ from haround.queue]
    exact List.filter_congr fun y _ => by simp [bne, beq_eq_decide]

/-! ## QUIET_TIMER_EXPIRY -/

theorem counting_of_setPoint {s : State} {p : PointId} {a : Point} (hm : a.mode = (s.point p).mode)
    (hf : a.health = .fault ↔ (s.point p).health = .fault) : counting (s.setPoint p a) p = counting s p := by
  have hhealth : (a.health != .fault) = ((s.point p).health != .fault) := by
    rw [Bool.eq_iff_iff]; simpa using not_congr hf
  unfold counting
  rw [State.setPoint_self, hm, hhealth]
  rfl

theorem Point.weighed_fault_iff {d : DeviceParams} {weight : Nat} {a : Point} (h : ¬a.faults d weight) :
    (a.weighed d weight).health = .fault ↔ a.health = .fault := by
  show nextHealth d a.health (min 255 (a.level + weight)) = .fault ↔ _
  by_cases hf : a.health = .fault
  · rw [hf]; exact ⟨fun _ => rfl, fun _ => rfl⟩
  · have hlevel : min 255 (a.level + weight) < d.fault := Nat.lt_of_not_le fun hle => h ⟨hf, hle⟩
    exact ⟨fun he => absurd he (nextHealth_of_below hf hlevel), fun he => absurd he hf⟩

/-- The confused passage at a point that its weight does not take into FAULT. -/
theorem Ev.confusedPassage_s {p : PointId} {w : Ev} (h : ¬(w.s.point p).faults w.s.params w.s.params.wConfused) :
    (w.confusedPassage p).s =
        (let s' := w.s.setPoint p (Point.weighed w.s.params w.s.params.wConfused
          { w.s.point p with confusedTally := raise (w.s.point p).confusedTally })
        if counting w.s p then s'.sendDisturbance p .confusedPassage else s') ∧
      (w.confusedPassage p).traces = w.traces := by
  obtain ⟨hs, htraces⟩ := Ev.addWeight_s tallying_confused h
  have htally : ¬Point.faults w.s.params w.s.params.wConfused
      { w.s.point p with confusedTally := raise (w.s.point p).confusedTally } := h
  have hcounting : counting (w.addWeight p w.s.params.wConfused
      (fun pt => { pt with confusedTally := raise pt.confusedTally })).s p = counting w.s p := by
    rw [hs]
    exact counting_of_setPoint rfl (Point.weighed_fault_iff htally)
  unfold Ev.confusedPassage
  dsimp only
  rw [hcounting, ← htraces]
  refine ⟨?_, Ev.disturbIf_traces _ _ _ _⟩
  split
  · rw [Ev.disturbAll_s, hs]
  · exact hs

/-- And at one that it does: in FAULT the point counts no more. -/
theorem Ev.confusedPassage_faults {p : PointId} {w : Ev} (h : (w.s.point p).faults w.s.params w.s.params.wConfused) :
    (w.confusedPassage p).s = (w.s.setPoint p (Point.raised w.s.params.wConfused
        { w.s.point p with confusedTally := raise (w.s.point p).confusedTally })).fault p .level ∧
      (proofAt w.s p = none → (w.confusedPassage p).traces = w.traces) := by
  have hs := Ev.addWeight_faults_s tallying_confused h
  have hcounting : counting (w.addWeight p w.s.params.wConfused
      (fun pt => { pt with confusedTally := raise pt.confusedTally })).s p = false := by
    rw [hs]
    unfold counting
    rw [(State.fault_standing p .level _).1.1]
    simp
  unfold Ev.confusedPassage
  dsimp only
  rw [hcounting]
  exact ⟨hs, fun hp => Ev.addWeight_traces tallying_confused (.inl hp)⟩

theorem Ev.quietIfIdle_s (p : PointId) (w : Ev) :
    (if (w.s.point p).machine == .idle then w.pointQuiet p else w).s =
        (if (w.s.point p).machine = .idle then w.s.sendQuiet p else w.s) ∧
      (if (w.s.point p).machine == .idle then w.pointQuiet p else w).traces = w.traces := by
  by_cases h : (w.s.point p).machine = .idle
  · rw [if_pos (by simpa using h), if_pos h]; exact ⟨Ev.pointQuiet_s p w, Ev.pointQuiet_traces p w⟩
  · rw [if_neg (by simpa using h), if_neg h]; exact ⟨rfl, rfl⟩

theorem execQuietTimerExpiry_eq {p : PointId} {c : Confusion} {timer : Timer} {s : State}
    (hm : (s.point p).machine = .confused) (hc : (s.point p).confusion = some c) (ht : (s.point p).quietTimer = some timer)
    (hr : timer.reached s.now = true) :
    exec (.quietTimerExpiry p) s = .next (runEvent (fun w => (w.quietExpiry p c timer.expiry).settle) s) := by
  show execQuietTimerExpiry p s = _
  unfold execQuietTimerExpiry
  rw [hm, hc, ht]
  exact if_pos hr

/-- Settles O20: the machine is IDLE when the point is judged, and FAULT may leave it out of IDLE again. -/
theorem theQuietTimerEndsConfusion : Obligations.TheQuietTimerEndsConfusion := by
  unfold Obligations.TheQuietTimerEndsConfusion
  intro p c timer s hm hc ht hr pt tallied record
  let w : Ev := Ev.onPoint p (fun pt => { pt with machine := .idle, confusion := none, quietTimer := none }) ⟨s, [], []⟩
  have hw : w.s = s.setPoint p pt := Ev.onPoint_setPoint p _ _
  have hpoint : w.s.point p = pt := by rw [hw]; exact State.setPoint_self _ _ _
  have htraces : w.traces = [] := Ev.onPoint_traces _ _ _
  have hproof : proofAt w.s p = proofAt s p := (Ev.onPoint_around p _ ⟨s, [], []⟩).proofAt p
  have hfaults : (w.s.point p).faults w.s.params w.s.params.wConfused ↔ (s.point p).faults s.params s.params.wConfused := by
    rw [hpoint, hw]; exact Point.faults_congr rfl rfl _ _
  have hcounting : counting w.s p = counting s p := by rw [hw]; exact counting_of_setPoint rfl .rfl
  have hleaves := runEvent_settled (Ev.quietExpiry p c timer.expiry) s
  have hchanges := Ev.quietExpiry_changes p c timer.expiry ⟨s, [], []⟩ hm
  have hexpiry : ∀ v : Ev, (if c.cause = .startUp then w else w.confusedPassage p) = v →
      (Ev.quietExpiry p c timer.expiry ⟨s, [], []⟩).s = (if (v.s.point p).machine = .idle then v.s.sendQuiet p else v.s) ∧
      (Ev.quietExpiry p c timer.expiry ⟨s, [], []⟩).traces = v.traces ++ [record] := fun v hv => by
    obtain ⟨h1, h2⟩ := Ev.quietIfIdle_s p (v.trace record)
    rw [← hv] at h1 h2 ⊢
    exact ⟨h1, h2⟩
  rw [execQuietTimerExpiry_eq hm hc ht hr]
  refine ⟨fun hstart => ?_, fun hstart hf => ?_, fun hstart hf => ?_⟩
  · obtain ⟨hs, htrace⟩ := hexpiry w (if_pos hstart)
    rw [hpoint, if_pos rfl, hw] at hs
    refine ⟨_, rfl, settled_traces (by simp [TraceRecord.point, record]) hchanges (by rw [htrace, htraces]; rfl), ?_⟩
    rw [hs] at hleaves
    exact hleaves
  · obtain ⟨hjudged, hquiet⟩ := Ev.confusedPassage_s (mt hfaults.mp hf)
    obtain ⟨hs, htrace⟩ := hexpiry _ (if_neg hstart)
    have hidle : ((w.confusedPassage p).s.point p).machine = .idle := by
      rw [hjudged]
      dsimp only
      split
      · rw [(State.sendDisturbance_reaches p _ _).1.point, State.setPoint_self, hpoint]; rfl
      · rw [State.setPoint_self, hpoint]; rfl
    rw [if_pos hidle, hjudged, hcounting, hpoint, hw, State.setPoint_setPoint] at hs
    refine ⟨_, rfl, settled_traces (by simp [TraceRecord.point, record]) hchanges (by rw [htrace, hquiet, htraces]; rfl), ?_⟩
    rw [hs] at hleaves
    exact hleaves
  · obtain ⟨hjudged, hquiet⟩ := Ev.confusedPassage_faults (hfaults.mpr hf)
    obtain ⟨hs, htrace⟩ := hexpiry _ (if_neg hstart)
    rw [hjudged, hpoint, hw, State.setPoint_setPoint] at hs
    refine ⟨_, rfl, fun hp => settled_traces (by simp [TraceRecord.point, record]) hchanges
      (by rw [htrace, hquiet (hproof.trans hp), htraces]; rfl), ?_⟩
    rw [hs] at hleaves
    exact hleaves

/-! ## One change at every point -/

/-- One change of a record at each point of a list without repeats, where the change at a point does not depend on the
records of the others. -/
theorem foldl_onPoints {f : Ev → PointId → Ev} {g : PointId → Point → Point} {w : Ev}
    (h : ∀ (v : Ev) (p : PointId) (T : Table 16 Point), v.s = { w.s with points := T } → v.s.point p = w.s.point p →
      (f v p).s = v.s.setPoint p (g p (v.s.point p))) (l : List PointId) (hl : l.Nodup) :
    (l.foldl f w).s = { w.s with
      points := .ofFn (fun p => if p ∈ l then g p (w.s.point p) else w.s.point p) } := by
  suffices key : ∀ (l : List PointId), l.Nodup → ∀ (v : Ev) (T : Table 16 Point), v.s = { w.s with points := T } →
      (∀ p ∈ l, v.s.point p = w.s.point p) →
      (l.foldl f v).s = { w.s with points := .ofFn (fun p => if p ∈ l then g p (v.s.point p) else v.s.point p) } from
    key l hl w w.s.points rfl fun _ _ => rfl
  intro l
  induction l with
  | nil =>
    intro _ v T hv _
    rw [List.foldl_nil]
    refine hv.trans (congrArg (fun P : Table 16 Point => ({ w.s with points := P } : State)) (Table.ext_get fun i => ?_))
    rw [Table.get_ofFn, if_neg List.not_mem_nil, hv]
    rfl
  | cons p l ih =>
    intro hl v T hv hsame
    obtain ⟨hp, hl⟩ := List.nodup_cons.mp hl
    have hstep := h v p T hv (hsame p List.mem_cons_self)
    have hpoint : ∀ q, (f v p).s.point q = if q = p then g p (v.s.point p) else v.s.point q := fun q => by
      rw [hstep, State.setPoint_point]
    rw [List.foldl_cons, ih hl (f v p) (v.s.points.set p (g p (v.s.point p))) (by rw [hstep, hv]; rfl) fun q hq => by
      rw [hpoint, if_neg (fun (e : q = p) => hp (e ▸ hq)), hsame q (List.mem_cons_of_mem _ hq)]]
    refine congrArg (fun P : Table 16 Point => ({ w.s with points := P } : State)) (Table.ext_get fun q => ?_)
    rw [Table.get_ofFn, Table.get_ofFn, hpoint]
    by_cases hq : q = p
    · subst hq; simp [hp]
    · simp [hq]

theorem foldl_allPoints {f : Ev → PointId → Ev} {g : Point → Point} {w : Ev}
    (h : ∀ (v : Ev) (p : PointId) (T : Table 16 Point), v.s = { w.s with points := T } → v.s.point p = w.s.point p →
      (f v p).s = v.s.setPoint p (g (v.s.point p))) :
    (allPoints.foldl f w).s = { w.s with points := w.s.points.map g } := by
  rw [foldl_onPoints (g := fun _ => g) h allPoints (List.nodup_finRange 16)]
  refine congrArg (fun P : Table 16 Point => ({ w.s with points := P } : State)) (Table.ext_get fun q => ?_)
  rw [Table.get_ofFn, if_pos (show q ∈ allPoints from List.mem_finRange q), Table.get_map]
  rfl

/-! ## LEAK_TIMER_EXPIRY -/

/-- A point after one leak. -/
def Point.leaked (d : DeviceParams) (pt : Point) : Point :=
  if 0 < pt.level then { pt with level := pt.level - 1, health := nextHealth d pt.health (pt.level - 1) } else pt

theorem State.setPoint_same (p : PointId) (s : State) : s.setPoint p (s.point p) = s := by
  unfold State.setPoint
  rw [show s.points.set p (s.point p) = s.points from Table.set_get_self _ _]

theorem Ev.leak_s (w : Ev) (h : ∀ p, (w.s.point p).health ≠ .fault → (w.s.point p).level - 1 < w.s.params.fault) :
    w.leak.s = { w.s with points := w.s.points.map (Point.leaked w.s.params) } := by
  unfold Ev.leak
  refine foldl_allPoints fun v p T hv hp => ?_
  have hparams : v.s.params = w.s.params := by rw [hv]
  unfold Point.leaked
  split
  · have hpoint := Ev.onPoint_point p (fun pt => { pt with level := pt.level - 1 }) v
    by_cases hf : (v.s.point p).health = .fault
    · rw [Ev.evaluateHealth_of_fault (by rw [hpoint]; exact hf), Ev.onPoint_setPoint]
      congr 1
      rw [hf]
      rcases hq : v.s.point p
      rw [hq] at hf
      cases hf
      rfl
    · rw [Ev.evaluateHealth_marks (by rw [hpoint]; exact hf)
        (by rw [hpoint, Ev.onPoint_s]; show _ < v.s.params.fault; rw [hparams, hp]; exact h p (hp ▸ hf)),
        Ev.onPoint_setPoint, hpoint, Ev.onPoint_setPoint, State.setPoint_setPoint, ← hparams]
      rfl
  · exact (State.setPoint_same p v.s).symm

/-- Settles O21. -/
theorem theLeakLowersEveryLevel : Obligations.TheLeakLowersEveryLevel := by
  unfold Obligations.TheLeakLowersEveryLevel
  refine ⟨fun s hr h => ?_, fun d level hd => ?_⟩
  · refine ⟨runEvent (fun w => w.leakExpiry.settle) s, if_pos hr, ?_⟩
    have hleaves := runEvent_settled Ev.leakExpiry s
    unfold Ev.leakExpiry at hleaves
    rw [Ev.leak_s _ h] at hleaves
    exact hleaves
  · have hle : d.warnOn / 2 ≤ d.warnOn := Nat.div_le_self _ _
    unfold nextHealth
    refine ⟨rfl, fun h => ⟨if_pos h, if_pos h⟩, fun h1 h2 => ?_, fun h => ?_, fun h1 h2 => ?_, fun h => ?_⟩ <;> dsimp only
    · rw [if_neg (by omega), if_pos h1]
    · rw [if_neg (by omega), if_neg (by omega)]
    · rw [if_neg (by omega), if_neg (by omega)]
    · rw [if_neg (by omega), if_pos h]

end Sys2Proof.Machine
end

section
/-! Accepted changes (sections 1.2 and 1.3): the changes taken, the dark point (O14), the cells of the transition table (O15),
onsets and retreats (O16), and the completed crossing (O17). -/

namespace Sys2Proof.Machine

/-! ## Settling a point -/

/-- The staged pair of a point applied, if it may be. -/
def State.pairApplied (s : State) (p : PointId) (pt : Point) : Point :=
  match pt.staged with
  | none => pt
  | some q =>
    if pt.machine = .idle ∧ underProof s p .a = false ∧ underProof s p .b = false then
      { pt with params := q, staged := none }
    else pt

theorem State.pairApplied_eq (s : State) (p : PointId) (pt : Point) :
    s.pairApplied p pt = if pt.machine == .idle && !pointUnderProof s p then pt.applyStaged else pt := by
  unfold State.pairApplied Point.applyStaged pointUnderProof
  cases pt.staged with
  | none => simp
  | some q =>
    dsimp only
    refine if_congr ?_ rfl rfl
    simp

theorem Ev.applyStaged_s (w : Ev) : w.applyStaged.s = w.s.pairsApplied := by
  unfold Ev.applyStaged
  rw [foldl_onPoints (g := w.s.pairApplied) (fun v p T hv hp => ?_) allPoints (List.nodup_finRange 16)]
  · refine congrArg (fun P : Table 16 Point => ({ w.s with points := P } : State)) (Table.ext_get fun p => ?_)
    rw [Table.get_ofFn, if_pos (show p ∈ allPoints from List.mem_finRange p), Table.get_ofFn]
    rfl
  · have hunder : pointUnderProof v.s p = pointUnderProof w.s p := by rw [hv]; rfl
    rw [State.pairApplied_eq]
    unfold pairApplicable
    rw [hunder]
    split
    · exact Ev.onPoint_setPoint p _ v
    · exact (State.setPoint_same p v.s).symm

/-- A pair applied changes the active and the staged pair alone. -/
def Point.Repaired (a b : Point) : Prop := b = { a with params := b.params, staged := b.staged }

theorem State.pairApplied_repaired (s : State) (p : PointId) (pt : Point) : pt.Repaired (s.pairApplied p pt) := by
  unfold State.pairApplied
  split
  · rfl
  · split <;> rfl

theorem State.pairsApplied_point (s : State) (p : PointId) : s.pairsApplied.point p = s.pairApplied p (s.point p) :=
  Table.get_ofFn _ _

theorem Ev.applyStaged_point (w : Ev) (p : PointId) : (w.s.point p).Repaired (w.applyStaged.s.point p) := by
  rw [Ev.applyStaged_s, State.pairsApplied_point]; exact State.pairApplied_repaired _ _ _

theorem Ev.takeProof_points (w : Ev) : w.takeProof.s.points = w.s.points := by
  unfold Ev.takeProof
  split
  · rfl
  · split <;> rfl

theorem Ev.takeProof_point (w : Ev) (p : PointId) : w.takeProof.s.point p = w.s.point p :=
  congrArg (fun u => Table.get u p) w.takeProof_points

theorem Ev.settleActivity_points (w : Ev) : w.settleActivity.s.points = w.s.points := by
  unfold Ev.settleActivity
  split
  · rfl
  all_goals
    split
    · simp [Ev.onDevice_s, Ev.endActivity]
    · rfl

theorem Ev.settleProofs_point (w : Ev) (p : PointId) : (w.s.point p).Repaired (w.settleProofs.s.point p) := by
  unfold Ev.settleProofs
  split
  · split
    · rw [Ev.takeProof_point]; exact Ev.applyStaged_point w.choose p
    · rw [Ev.takeProof_point]
      have h := Ev.applyStaged_point w.choose.takeProof p
      rw [Ev.takeProof_point] at h
      exact h
  · rw [Ev.takeProof_point]; exact Ev.applyStaged_point w p

theorem State.settled_point (s : State) (p : PointId) : (s.point p).Repaired (s.settled.point p) := by
  have h : s.settled.points = (Ev.settleProofs ⟨s, [], []⟩).s.points := Ev.settleActivity_points _
  rw [show s.settled.point p = _ from congrArg (fun u => Table.get u p) h]
  exact Ev.settleProofs_point ⟨s, [], []⟩ p

theorem Leaves.point {s t : State} (h : Leaves s t) (p : PointId) : t.point p = s.point p := by rw [h.1]; rfl

/-! ## Changes taken -/

/-- The accepted changes of the line or lines taken. -/
def Ev.takeLines (p : PointId) (lines : Lines) (t : Time) (w : Ev) : Ev :=
  match lines with
  | .a => w.takeLine p .a t
  | .b => w.takeLine p .b t
  | .both => (w.takeLine p .a t).takeLine p .b t

theorem Ev.takeLine_s (p : PointId) (x : Sys) (t : Time) (w : Ev) : (w.takeLine p x t).s = w.s.withChange p x t :=
  Ev.onPoint_setPoint p _ w

theorem Ev.takeLines_s (p : PointId) (lines : Lines) (t : Time) (w : Ev) :
    (w.takeLines p lines t).s = w.s.withChanges p lines t := by
  cases lines
  · exact Ev.takeLine_s p .a t w
  · exact Ev.takeLine_s p .b t w
  · unfold Ev.takeLines; rw [Ev.takeLine_s, Ev.takeLine_s]; rfl

theorem Ev.takeLine_traces (p : PointId) (x : Sys) (t : Time) (w : Ev) : (w.takeLine p x t).traces = w.traces :=
  Ev.onPoint_traces _ _ _

theorem withChanges_lines (p : PointId) (x : Sys) (t : Time) (s : State) :
    s.withChanges p x.lines t = s.withChange p x t := by cases x <;> rfl

/-- The lines of a point may differ. -/
def Point.SameButLines (a b : Point) : Prop := b = { a with lineA := b.lineA, lineB := b.lineB }

theorem Point.onLine_sameButLines (x : Sys) (f : Line → Line) (pt : Point) : pt.SameButLines (pt.onLine x f) := by
  cases x <;> rfl

theorem Point.SameButLines.trans {a b c : Point} (h : a.SameButLines b) (h' : b.SameButLines c) : a.SameButLines c := by
  unfold Point.SameButLines at *; rw [h', h]

theorem State.withChange_around (p : PointId) (x : Sys) (t : Time) (s : State) : Around p s (s.withChange p x t) := by
  rw [← Ev.takeLine_s p x t ⟨s, [], []⟩]; exact Ev.onPoint_around p _ _

theorem State.withChange_sameButLines (p : PointId) (x : Sys) (t : Time) (s : State) :
    (s.point p).SameButLines ((s.withChange p x t).point p) := by
  rw [State.withChange_point, if_pos rfl]; exact Point.onLine_sameButLines _ _ _

theorem State.withChanges_around (p : PointId) (lines : Lines) (t : Time) (s : State) :
    Around p s (s.withChanges p lines t) := by
  cases lines
  · exact State.withChange_around p .a t s
  · exact State.withChange_around p .b t s
  · exact (State.withChange_around p .a t s).trans (State.withChange_around p .b t _)

theorem State.withChanges_sameButLines (p : PointId) (lines : Lines) (t : Time) (s : State) :
    (s.point p).SameButLines ((s.withChanges p lines t).point p) := by
  cases lines
  · exact State.withChange_sameButLines p .a t s
  · exact State.withChange_sameButLines p .b t s
  · exact (State.withChange_sameButLines p .a t s).trans (State.withChange_sameButLines p .b t _)

theorem Point.SameButLines.machine {a b : Point} (h : a.SameButLines b) : b.machine = a.machine := by
  unfold Point.SameButLines at h; rw [h]
theorem Point.SameButLines.passage {a b : Point} (h : a.SameButLines b) : b.passage = a.passage := by
  unfold Point.SameButLines at h; rw [h]
theorem Point.SameButLines.retreatTally {a b : Point} (h : a.SameButLines b) : b.retreatTally = a.retreatTally := by
  unfold Point.SameButLines at h; rw [h]
theorem Point.SameButLines.mode {a b : Point} (h : a.SameButLines b) : b.mode = a.mode := by
  unfold Point.SameButLines at h; rw [h]

theorem takeLine_lit_inUse (p : PointId) (x : Sys) (t : Time) (w : Ev) :
    (lit (w.takeLine p x t).s p && inUse (w.takeLine p x t).s p) = (lit w.s p && inUse w.s p) := by
  rw [Ev.takeLine_s, (State.withChange_around p x t w.s).lit,
    inUse_of_mode (State.withChange_sameButLines p x t w.s).mode]

/-! ## The dark point -/

theorem Ev.changeOne_dark {p : PointId} {w : Ev} (h : (lit w.s p && inUse w.s p) = false) (x : Sys) (t : Time) :
    w.changeOne p x t = w.takeLine p x t := by
  unfold Ev.changeOne
  dsimp only
  rw [takeLine_lit_inUse, h]
  rfl

theorem Ev.acceptedChange_dark {p : PointId} {w : Ev} (h : (lit w.s p && inUse w.s p) = false) (lines : Lines) (t : Time) :
    w.acceptedChange p lines t = w.takeLines p lines t := by
  cases lines
  · exact Ev.changeOne_dark h .a t
  · exact Ev.changeOne_dark h .b t
  · show w.changeBoth p t = _
    unfold Ev.changeBoth
    rw [h]
    rfl

theorem execAcceptedChange_leaves {p : PointId} {lines : Lines} {t : Time} {s v : State}
    (h : (Ev.acceptedChange p lines t ⟨s, [], []⟩).s = v) :
    ∃ u, exec (.acceptedChange p lines t) s = .next u ∧ Leaves v.settled u :=
  ⟨_, rfl, h ▸ runEvent_settled (Ev.acceptedChange p lines t) s⟩

/-- Settles O14. -/
theorem aChangeAtADarkPointUpdatesItsLineAlone : Obligations.AChangeAtADarkPointUpdatesItsLineAlone := by
  unfold Obligations.AChangeAtADarkPointUpdatesItsLineAlone
  intro p t s h
  have hdark : ∀ lines, (Ev.acceptedChange p lines t ⟨s, [], []⟩).s = s.withChanges p lines t := fun lines => by
    rw [Ev.acceptedChange_dark h, Ev.takeLines_s]
  refine ⟨fun x => execAcceptedChange_leaves ((hdark x.lines).trans (withChanges_lines p x t s)),
    execAcceptedChange_leaves (hdark .both)⟩

/-! ## The delivered change -/

theorem Ev.changeOne_delivered {p : PointId} {x : Sys} {s : State} (h : Delivers s p x.lines) (t : Time) :
    Ev.changeOne p x t ⟨s, [], []⟩ = (Ev.takeLine p x t ⟨s, [], []⟩).deliver p x.lines t := by
  obtain ⟨hl, hu, hproof⟩ := h
  have hpa : proofAt (Ev.takeLine p x t ⟨s, [], []⟩).s p = proofAt s p := by
    rw [Ev.takeLine_s]; exact (State.withChange_around p x t s).proofAt p
  unfold Ev.changeOne
  dsimp only
  rw [takeLine_lit_inUse, if_pos (by simp [hl, hu])]
  unfold Ev.routeChange
  rw [hpa]
  rcases hproof with hnone | ⟨pr, y, hc, hphase, hsystem, hlines⟩
  · rw [hnone]
  · obtain rfl : x = y := by revert hlines; cases x <;> cases y <;> simp [Sys.lines]
    have hsome : proofAt s p = some pr := by unfold proofAt; rw [hc]; simp [hsystem]
    have hne : pr.system.sys ≠ x := by rw [hsystem]; cases x <;> simp [Sys.other]
    have harriving : pr.system.sys.other = x := by rw [hsystem]; cases x <;> rfl
    rw [hsome]
    dsimp only
    rw [if_neg hne]
    unfold Ev.partnerChange
    dsimp only
    rw [hphase, harriving, hsystem]
    rfl

theorem Ev.acceptedChange_delivered {p : PointId} {lines : Lines} {s : State} (h : Delivers s p lines) (t : Time) :
    Ev.acceptedChange p lines t ⟨s, [], []⟩ = (Ev.takeLines p lines t ⟨s, [], []⟩).deliver p lines t := by
  cases lines
  · exact Ev.changeOne_delivered (x := .a) h t
  · exact Ev.changeOne_delivered (x := .b) h t
  · obtain ⟨hl, hu, hproof⟩ := h
    have hnone : proofAt s p = none := hproof.resolve_right fun ⟨_, y, _, _, _, hlines⟩ => by
      cases y <;> simp [Sys.lines] at hlines
    show Ev.changeBoth p t ⟨s, [], []⟩ = _
    unfold Ev.changeBoth
    rw [hnone, show (lit s p && inUse s p) = true by simp [hl, hu]]
    rfl

/-- The record as a change leaves it (R11). -/
theorem Passage.recordChange_eq (lines : Lines) (a b : Bool) (t : Time) (r : Passage) :
    r.recordChange lines a b t = { r with
      aOn := if (lines == .a || lines == .both) && a && r.aOn.isNone then some t else r.aOn
      bOn := if (lines == .b || lines == .both) && b && r.bOn.isNone then some t else r.bOn
      aOff := if lines == .a || lines == .both then (if a then none else some t) else r.aOff
      bOff := if lines == .b || lines == .both then (if b then none else some t) else r.bOff } := by
  rcases r with ⟨onset, aOn, bOn, aOff, bOff, rev, part⟩
  cases lines <;> cases a <;> cases b <;> cases aOn <;> cases bOn <;> rfl

theorem Ev.perform_open_s (p : PointId) (chg : Lines) (a b : Bool) (t : Time) (next : DirectionMachine) (w : Ev) :
    (w.perform p chg a b t next .openRecord).s =
      (w.s.setPoint p { w.s.point p with
        machine := next, passage := some ((Passage.opened t).recordChange chg a b t), confusion := none
        quietTimer := none }).sendActive p := Ev.openPassage_s _ _ _ _

theorem Ev.perform_plain_s (p : PointId) (chg : Lines) (a b : Bool) (t : Time) (next : DirectionMachine) (w : Ev) :
    (w.perform p chg a b t next .plain).s = w.s.setPoint p { w.s.point p with
      machine := next, passage := (w.s.point p).passage.map (Passage.recordChange chg a b t) } := Ev.onPoint_setPoint _ _ _

theorem Ev.perform_reversal_s (p : PointId) (chg : Lines) (a b : Bool) (t : Time) (next : DirectionMachine) (w : Ev) :
    (w.perform p chg a b t next .reversal).s = w.s.setPoint p { w.s.point p with
      machine := next
      passage := (w.s.point p).passage.map (fun r => { r.recordChange chg a b t with reversal := true }) } :=
  Ev.onPoint_setPoint _ _ _

theorem Ev.perform_retreat_s (p : PointId) (chg : Lines) (a b : Bool) (t : Time) (next : DirectionMachine) (d : Direction)
    (w : Ev) : (w.perform p chg a b t next (.retreat d)).s = (w.s.setPoint p { w.s.point p with
      machine := .idle, passage := none, retreatTally := raise (w.s.point p).retreatTally }).sendQuiet p :=
  Ev.retreat_s _ _ _ _

theorem Ev.perform_confuse_s (p : PointId) (chg : Lines) (a b : Bool) (t : Time) (next : DirectionMachine)
    (c : ConfusionCause) (w : Ev) : (w.perform p chg a b t next (.confuse c)).s =
      if (w.s.point p).machine = .idle then (w.s.confuse p c t (quietTimerFor a b t)).sendActive p
      else w.s.confuse p c t (quietTimerFor a b t) := Ev.enterConfused_s _ _ _ _ _

/-! ## Completed crossings -/

/-- The passage handed to its sections, or the point quiet. -/
def Ev.handCount (e : CountEvent) (counted : Bool) (w : Ev) : Ev :=
  if counted && (e.left.isSome || e.entered.isSome) then w.handOver e else w.pointQuiet e.point

theorem Ev.handCount_s (e : CountEvent) (counted : Bool) (w : Ev) :
    (w.handCount e counted).s = if counted then w.s.handOver e else w.s.sendQuiet e.point := by
  unfold Ev.handCount
  cases counted with
  | false => exact Ev.pointQuiet_s _ _
  | true =>
    by_cases h : (e.left.isSome || e.entered.isSome) = true
    · rw [if_pos (by rw [h]; rfl), if_pos rfl]; exact Ev.handOver_s e w h
    · rw [if_neg (by simpa using h), if_pos rfl]
      unfold State.handOver
      rw [if_neg h]
      exact Ev.pointQuiet_s _ _

theorem Ev.handCount_noticed (e : CountEvent) (counted : Bool) (w : Ev) : Noticed w.s (w.handCount e counted).s := by
  unfold Ev.handCount
  split
  · exact Ev.handOver_noticed e w
  · rw [Ev.pointQuiet_s]; exact (w.s.sendQuiet_reaches e.point).1

theorem Ev.handCount_traces (e : CountEvent) (counted : Bool) (w : Ev) : (w.handCount e counted).traces = w.traces := by
  unfold Ev.handCount; split <;> simp

/-- A count event in its three steps: the tallies, the hand-over, the weights. -/
theorem Ev.countEvent_eq (p : PointId) (d : Direction) (t : Time) (r : Passage) (w : Ev) :
    w.countEvent p d t r =
      let tm := r.timing w.s.params (w.s.point p).params.spacing d
      let e := formEvent w.s p d t tm
      let v := (w.onPoint p (Point.afterCount d tm.speed)).handCount e (counting w.s p)
      Ev.trace (if counting w.s p then .counted e else .uncounted e)
        (if tm.irregular || tm.overspeed then v.addWeight p (timingWeight v.s.params tm) (Point.raiseTimingTallies tm)
        else v) := rfl

/-- A crossing completed with no proof under way leaves the machine at rest. -/
theorem Ev.countEvent_point {p : PointId} {w : Ev} (hp : proofAt w.s p = none)
    (hfree : ∀ x, ((w.s.point p).line x).accepted = false) (d : Direction) (t : Time) (r : Passage) :
    ((w.countEvent p d t r).s.point p).machine = .idle ∧ ((w.countEvent p d t r).s.point p).passage = none := by
  rw [Ev.countEvent_eq]
  generalize r.timing w.s.params (w.s.point p).params.spacing d = tm
  dsimp only
  rw [Ev.trace_s]
  have hnoticed := Ev.handCount_noticed (formEvent w.s p d t tm) (counting w.s p)
    (w.onPoint p (Point.afterCount d tm.speed))
  generalize hv : (w.onPoint p (Point.afterCount d tm.speed)).handCount (formEvent w.s p d t tm) (counting w.s p) = v
    at hnoticed ⊢
  have hpoint : v.s.point p = (w.s.point p).afterCount d tm.speed := by rw [hnoticed.point, Ev.onPoint_point]
  have hproof : proofAt v.s p = none := by rw [hnoticed.proofAt, (Ev.onPoint_around p _ w).proofAt]; exact hp
  have htally := tallying_raiseTimingTallies tm
  split
  · by_cases hf : (v.s.point p).faults v.s.params (timingWeight v.s.params tm)
    · rw [Ev.addWeight_faults_s htally hf]
      have hrest := State.fault_atRest_of_none (p := p)
        (s := v.s.setPoint p ((Point.raiseTimingTallies tm (v.s.point p)).raised (timingWeight v.s.params tm))) .level hproof
        (.inr fun x => by
          rw [State.setPoint_self, hpoint]
          cases x
          · exact hfree .a
          · exact hfree .b)
      exact ⟨hrest.1, hrest.2.1⟩
    · rw [(Ev.addWeight_s htally hf).1, State.setPoint_self, hpoint]
      exact ⟨rfl, rfl⟩
  · rw [hpoint]; exact ⟨rfl, rfl⟩

/-- Settles O15: every cell is the action of `transition` performed on the state with the changes taken. -/
theorem aDeliveredChangeMovesTheMachineByTheTable : Obligations.ADeliveredChangeMovesTheMachineByTheTable := by
  unfold Obligations.ADeliveredChangeMovesTheMachineByTheTable
  intro p lines t s hd s' pt m pair changed onTime offTime recorded quiet leaves opens moves reverses retreats confused
    jumps counts
  let v : Ev := Ev.takeLines p lines t ⟨s, [], []⟩
  have hv : v.s = s' := Ev.takeLines_s p lines t _
  have hsame : (s.point p).SameButLines pt := State.withChanges_sameButLines p lines t s
  have hmachine : pt.machine = m := hsame.machine
  have hwork : Ev.acceptedChange p lines t ⟨s, [], []⟩ = v.deliver p lines t := Ev.acceptedChange_delivered hd t
  have hrecorded : ∀ r, r.recordChange lines (reads s' p .a) (reads s' p .b) t = recorded r :=
    fun r => Passage.recordChange_eq _ _ _ _ _
  have hleaves : ∀ {u : State}, (v.deliver p lines t).s = u → leaves u := fun h =>
    execAcceptedChange_leaves (by rw [hwork]; exact h)
  have cell : ∀ {a b : Bool} {k next : DirectionMachine} {act : MoveAction}, m = k → pair a b →
      transition k a b = some (next, act) → (∀ d, act ≠ .count d) →
      v.deliver p lines t = v.perform p lines (reads s' p .a) (reads s' p .b) t next act :=
    fun hk hpair htr hact => Ev.deliver_of_transition (by rw [hv]) (by rw [hv])
      (by rw [hv, hpair.1, hpair.2]; show transition pt.machine _ _ = _; rw [hmachine, hk]; exact htr) hact lines t
  have hopen : ∀ {a b : Bool} {k next : DirectionMachine}, m = k → pair a b →
      transition k a b = some (next, .openRecord) → opens next := fun hk hpair htr =>
    hleaves (by rw [cell hk hpair htr (by simp), Ev.perform_open_s, hv, hrecorded]; rfl)
  have hmove : ∀ {a b : Bool} {k next : DirectionMachine}, m = k → pair a b →
      transition k a b = some (next, .plain) → moves next := fun hk hpair htr =>
    hleaves (by rw [cell hk hpair htr (by simp), Ev.perform_plain_s, hv, show Passage.recordChange _ _ _ _ = recorded from
      funext hrecorded])
  have hreverse : ∀ {a b : Bool} {k next : DirectionMachine}, m = k → pair a b →
      transition k a b = some (next, .reversal) → reverses next := fun hk hpair htr =>
    hleaves (by rw [cell hk hpair htr (by simp), Ev.perform_reversal_s, hv]; simp only [hrecorded]; rfl)
  have hretreat : ∀ {a b : Bool} {k next : DirectionMachine} {d : Direction}, m = k → pair a b →
      transition k a b = some (next, .retreat d) → retreats := fun hk hpair htr =>
    hleaves (by rw [cell hk hpair htr (by simp), Ev.perform_retreat_s, hv]; rfl)
  have hjump : ∀ {a b : Bool} {k next : DirectionMachine}, m = k → pair a b → k ≠ .idle →
      transition k a b = some (next, .confuse .jump) → jumps := fun hk hpair hne htr =>
    hleaves (by
      rw [cell hk hpair htr (by simp), Ev.perform_confuse_s, hv, if_neg (by rw [show (s'.point p).machine = _ from hmachine, hk]; exact hne)]
      rfl)
  have hcount : ∀ {k next : DirectionMachine} {d : Direction}, m = k → pair false false →
      transition k false false = some (next, .count d) → counts := by
    intro k next d hk hpair htr hp
    have hproof : proofAt v.s p = none := by rw [hv]; exact ((s.withChanges_around p lines t).proofAt p).trans hp
    have hfree : ∀ x, ((v.s.point p).line x).accepted = false := fun x => by
      rw [← reads_of_free (proofAt_none hproof x), hv]
      cases x
      · exact hpair.1
      · exact hpair.2
    have htr' : transition (v.s.point p).machine (reads s' p .a) (reads s' p .b) = some (next, .count d) := by
      rw [hv, hpair.1, hpair.2]; show transition pt.machine _ _ = _; rw [hmachine, hk]; exact htr
    obtain ⟨u, hu, hl⟩ := execAcceptedChange_leaves (s := s) (p := p) (lines := lines) (t := t)
      (hwork ▸ congrArg Ev.s (Ev.deliver_of_count (by rw [hv]) (by rw [hv]) htr' lines t))
    refine ⟨u, hu, ?_⟩
    have hrest := Ev.countEvent_point hproof hfree d t
      ((((v.s.point p).passage.getD (.opened t)).recordChange lines (reads s' p .a) (reads s' p .b) t))
    have hpoint := hl.point p
    have hset : _ = _ := State.settled_point (Ev.countEvent p d t
      (((v.s.point p).passage.getD (.opened t)).recordChange lines (reads s' p .a) (reads s' p .b) t) v).s p
    rw [hpoint, hset]
    exact hrest
  refine ⟨fun hm => ⟨fun h => hopen hm h rfl, fun h => hopen hm h rfl, fun h => ?_⟩,
    fun hm => ⟨fun h => hretreat hm h rfl, fun h => hjump hm h (by simp) rfl, fun h => hmove hm h rfl⟩,
    fun hm => ⟨fun h => hjump hm h (by simp) rfl, fun h => hmove hm h rfl, fun h => hmove hm h rfl⟩,
    fun hm => ⟨fun h => hcount hm h rfl, fun h => hjump hm h (by simp) rfl, fun h => hreverse hm h rfl⟩,
    fun hm => ⟨fun h => hretreat hm h rfl, fun h => hjump hm h (by simp) rfl, fun h => hmove hm h rfl⟩,
    fun hm => ⟨fun h => hjump hm h (by simp) rfl, fun h => hmove hm h rfl, fun h => hmove hm h rfl⟩,
    fun hm => ⟨fun h => hcount hm h rfl, fun h => hjump hm h (by simp) rfl, fun h => hreverse hm h rfl⟩, fun hm => ?_⟩
  · refine hleaves ?_
    rw [cell hm h rfl (by simp), Ev.perform_confuse_s, hv, if_pos (hmachine.trans hm)]
    rfl
  · refine hleaves ?_
    rw [Ev.deliver_of_confused (by rw [hv]; exact hmachine.trans hm), Ev.onPoint_setPoint, hv]
    rfl

/-! ## Onsets and retreats -/

/-- A delivered system is not under proof. -/
theorem Delivers.not_underProof {s : State} {p : PointId} {x : Sys} (h : Delivers s p x.lines) : underProof s p x = false := by
  obtain ⟨-, -, hnone | ⟨pr, y, hc, -, hsystem, hlines⟩⟩ := h
  · exact proofAt_none hnone x
  · obtain rfl : x = y := by revert hlines; cases x <;> cases y <;> simp [Sys.lines]
    unfold underProof
    rw [hc]
    simp only [hsystem]
    cases x <;> simp [Sys.other]

theorem reads_withChange_self {s : State} {p : PointId} {x : Sys} (h : underProof s p x = false) (t : Time) :
    reads (s.withChange p x t) p x = !((s.point p).line x).accepted := by
  rw [reads_of_free (((s.withChange_around p x t).underProof p x).trans h), State.withChange_point, if_pos rfl]
  cases x <;> rfl

theorem reads_withChange_other (s : State) (p : PointId) (x : Sys) (t : Time) :
    reads (s.withChange p x t) p x.other = reads s p x.other := by
  unfold reads
  rw [(s.withChange_around p x t).underProof p x.other, State.withChange_point, if_pos rfl]
  cases x <;> rfl

/-- The retreat of a first system. -/
theorem transition_firstState_free {x : Sys} {a b : Bool} (h : pick x a b = false) (ho : pick x.other a b = false) :
    transition (firstState x) a b = some (.idle, .retreat (pick x .up .down)) := by
  cases x <;> cases h <;> cases ho <;> rfl

/-- A change of one system delivered performs the cell for its new level and the other's. -/
theorem Ev.acceptedChange_performs {p : PointId} {x : Sys} {s : State} (h : Delivers s p x.lines)
    {next : DirectionMachine} {act : MoveAction} {t : Time}
    (htr : transition (s.point p).machine (reads (s.withChange p x t) p .a) (reads (s.withChange p x t) p .b) =
      some (next, act)) (hact : ∀ d, act ≠ .count d) :
    Ev.acceptedChange p x.lines t ⟨s, [], []⟩ = (Ev.takeLine p x t ⟨s, [], []⟩).perform p x.lines
      (reads (s.withChange p x t) p .a) (reads (s.withChange p x t) p .b) t next act := by
  have hlines : Ev.takeLines p x.lines t ⟨s, [], []⟩ = Ev.takeLine p x t ⟨s, [], []⟩ := by cases x <;> rfl
  rw [Ev.acceptedChange_delivered h, hlines]
  refine Ev.deliver_of_transition (by rw [Ev.takeLine_s]) (by rw [Ev.takeLine_s]) ?_ hact _ t
  rw [Ev.takeLine_s, (s.withChange_sameButLines p x t).machine]
  exact htr

theorem Ev.retreat_traces {p : PointId} {w : Ev} {r : Passage} (h : (w.s.point p).passage = some r) (d : Direction)
    (t : Time) : (w.retreat p d t).traces = w.traces ++ [.retreat p d r.onset t] := by
  unfold Ev.retreat
  simp [h, Ev.trace]

/-- Settles O16. -/
theorem wheelOnsetsAndRetreatsMoveTheMachine : Obligations.WheelOnsetsAndRetreatsMoveTheMachine := by
  unfold Obligations.WheelOnsetsAndRetreatsMoveTheMachine
  refine ⟨fun p x t s hd hm hacc hother => ?_, fun p x t s hd hm hacc hother => ?_,
    fun p t s hl hu hp hm ha hb => ?_⟩
  · intro s'
    have hx : pick x (reads s' p .a) (reads s' p .b) = true := by
      rw [pick_apply x (reads s' p), reads_withChange_self hd.not_underProof, hacc]; rfl
    have ho : pick x.other (reads s' p .a) (reads s' p .b) = false := by
      rw [pick_apply x.other (reads s' p), reads_withChange_other, hother]
    refine execAcceptedChange_leaves ?_
    rw [Ev.acceptedChange_performs hd (by rw [hm]; exact transition_idle_onset hx ho) (by simp), Ev.perform_open_s,
      recordChange_opened t hx, Ev.takeLine_s]
    cases x <;> rfl
  · intro s' dir
    have hx : pick x (reads s' p .a) (reads s' p .b) = false := by
      rw [pick_apply x (reads s' p), reads_withChange_self hd.not_underProof, hacc]; rfl
    have ho : pick x.other (reads s' p .a) (reads s' p .b) = false := by
      rw [pick_apply x.other (reads s' p), reads_withChange_other, hother]
    have hwork := Ev.acceptedChange_performs hd (by rw [hm]; exact transition_firstState_free hx ho) (by simp)
    have hsame : (s.point p).SameButLines (s'.point p) := s.withChange_sameButLines p x t
    refine ⟨_, rfl, fun r hr => ?_, ?_⟩
    · refine settled_traces (f := Ev.acceptedChange p x.lines t) (by simp [TraceRecord.point])
        (Ev.acceptedChange_changes p x.lines t ⟨s, [], []⟩) ?_
      rw [hwork]
      refine (Ev.retreat_traces (r := r) ?_ _ t).trans ?_
      · rw [Ev.takeLine_s, hsame.passage, hr]
      · rw [Ev.takeLine_traces]; cases x <;> rfl
    · have hleaves := runEvent_settled (Ev.acceptedChange p x.lines t) s
      rw [hwork, Ev.perform_retreat_s, Ev.takeLine_s] at hleaves
      rw [show (s.point p).retreatTally = (s'.point p).retreatTally from hsame.retreatTally.symm]
      exact hleaves
  · have hoccupied : ∀ x, reads (s.withChanges p .both t) p x = true := fun x => by
      rw [reads_of_free (((s.withChanges_around p .both t).underProof p x).trans (proofAt_none hp x))]
      unfold State.withChanges
      rw [State.withChange_point, if_pos rfl, State.withChange_point, if_pos rfl]
      cases x
      · simpa [Point.onLine, Line.take, Point.line] using ha
      · simpa [Point.onLine, Line.take, Point.line] using hb
    have hcell := ((aDeliveredChangeMovesTheMachineByTheTable p .both t s ⟨hl, hu, .inl hp⟩).1 hm).2.2
      ⟨hoccupied .a, hoccupied .b⟩
    rw [hoccupied, hoccupied] at hcell
    exact hcell

/-! ## The completed crossing -/

/-- The last free of the second system completes the crossing. -/
theorem transition_completes {x : Sys} {a b : Bool} (h : pick x a b = false) (ho : pick x.other a b = false) :
    transition (pick x .dn3 .up3) a b = some (.idle, .count (pick x .down .up)) := by
  cases x <;> cases h <;> cases ho <;> rfl

theorem Ev.acceptedChange_counts {p : PointId} {x : Sys} {s : State} (h : Delivers s p x.lines)
    (hm : (s.point p).machine = pick x .dn3 .up3) (hacc : ((s.point p).line x).accepted = true)
    (hother : reads s p x.other = false) (t : Time) :
    Ev.acceptedChange p x.lines t ⟨s, [], []⟩ = (Ev.takeLine p x t ⟨s, [], []⟩).countEvent p (pick x .down .up) t
      ((s.withChange p x t).recordAfter p x t) := by
  have hlines : Ev.takeLines p x.lines t ⟨s, [], []⟩ = Ev.takeLine p x t ⟨s, [], []⟩ := by cases x <;> rfl
  have hx : pick x (reads (s.withChange p x t) p .a) (reads (s.withChange p x t) p .b) = false := by
    rw [pick_apply x (reads (s.withChange p x t) p), reads_withChange_self h.not_underProof, hacc]; rfl
  have ho : pick x.other (reads (s.withChange p x t) p .a) (reads (s.withChange p x t) p .b) = false := by
    rw [pick_apply x.other (reads (s.withChange p x t) p), reads_withChange_other, hother]
  have htr : transition ((Ev.takeLine p x t ⟨s, [], []⟩).s.point p).machine (reads (s.withChange p x t) p .a)
      (reads (s.withChange p x t) p .b) = some (.idle, .count (pick x .down .up)) := by
    rw [Ev.takeLine_s, (s.withChange_sameButLines p x t).machine, hm]
    exact transition_completes hx ho
  rw [Ev.acceptedChange_delivered h, hlines,
    Ev.deliver_of_count (by rw [Ev.takeLine_s]) (by rw [Ev.takeLine_s]) htr x.lines t, Ev.takeLine_s]
  rfl

/-- What a count event leaves of the state in which it is handed over. -/
theorem Ev.countEvent_outcome {p : PointId} {w : Ev} (hp : proofAt w.s p = none) (d : Direction) (t : Time) (r : Passage)
    {tm : Timing} (htm : r.timing w.s.params (w.s.point p).params.spacing d = tm) {u : State}
    (hu : (if counting w.s p then (w.s.setPoint p ((w.s.point p).afterCount d tm.speed)).handOver (formEvent w.s p d t tm)
      else (w.s.setPoint p ((w.s.point p).afterCount d tm.speed)).sendQuiet p) = u) :
    (w.countEvent p d t r).traces = w.traces ++
        [if counting w.s p then .counted (formEvent w.s p d t tm) else .uncounted (formEvent w.s p d t tm)] ∧
      ((tm.irregular || tm.overspeed) = false → (w.countEvent p d t r).s = u) ∧
      ((tm.irregular || tm.overspeed) = true →
        (¬(u.point p).faults u.params (timingWeight u.params tm) → (w.countEvent p d t r).s =
          u.setPoint p ((Point.raiseTimingTallies tm (u.point p)).weighed u.params (timingWeight u.params tm))) ∧
        ((u.point p).faults u.params (timingWeight u.params tm) → (w.countEvent p d t r).s =
          (u.setPoint p ((Point.raiseTimingTallies tm (u.point p)).raised (timingWeight u.params tm))).fault p .level)) := by
  have hv : ((w.onPoint p (Point.afterCount d tm.speed)).handCount (formEvent w.s p d t tm) (counting w.s p)).s = u := by
    rw [Ev.handCount_s, Ev.onPoint_setPoint]; exact hu
  have ht : ((w.onPoint p (Point.afterCount d tm.speed)).handCount (formEvent w.s p d t tm) (counting w.s p)).traces =
      w.traces := by rw [Ev.handCount_traces, Ev.onPoint_traces]
  have hproof : proofAt u p = none := by
    rw [← hv, (Ev.handCount_noticed _ _ _).proofAt, (Ev.onPoint_around p _ w).proofAt]; exact hp
  rw [Ev.countEvent_eq, htm]
  dsimp only
  generalize (w.onPoint p (Point.afterCount d tm.speed)).handCount (formEvent w.s p d t tm) (counting w.s p) = v at hv ht ⊢
  subst hv
  have htally := tallying_raiseTimingTallies tm
  refine ⟨?_, fun h => ?_, fun h => ⟨fun hf => ?_, fun hf => ?_⟩⟩
  · show Ev.traces _ ++ _ = _
    congr 1
    split
    · rw [Ev.addWeight_traces htally (.inl hproof), ht]
    · exact ht
  · rw [Ev.trace_s, if_neg (by simp [h])]
  · rw [Ev.trace_s, if_pos h, (Ev.addWeight_s htally hf).1]
  · rw [Ev.trace_s, if_pos h, Ev.addWeight_faults_s htally hf]

/-- Settles O17. -/
theorem aCountedPassageIsHandedToItsSections : Obligations.ACountedPassageIsHandedToItsSections := by
  unfold Obligations.ACountedPassageIsHandedToItsSections
  intro p x t s hl hu hp hm hacc hother dir s' tm e passed handed weight tallied
  have hd : Delivers s p x.lines := ⟨hl, hu, .inl hp⟩
  have haround : Around p s s' := s.withChange_around p x t
  have hsame : (s.point p).SameButLines (s'.point p) := s.withChange_sameButLines p x t
  have hwork := Ev.acceptedChange_counts hd (by rw [hm]; cases x <;> rfl) hacc
    (by rw [reads_of_free (proofAt_none hp _), hother]) t
  have hdir : pick x .down .up = dir := by cases x <;> rfl
  have hpoint : s'.point p = (s.point p).onLine x (Line.take t) := by
    show (s.withChange p x t).point p = _
    rw [State.withChange_point, if_pos rfl]
  have hcounting : counting s' p = counting s p :=
    counting_of_setPoint (by cases x <;> rfl) (by cases x <;> exact Iff.rfl)
  have hpassed : s'.setPoint p ((s'.point p).afterCount dir tm.speed) = passed := by
    refine congrArg (s'.setPoint p) ?_
    unfold Point.afterCount
    rw [hpoint]
    cases x <;> rfl
  have htm : (s'.recordAfter p x t).timing s'.params (s'.point p).params.spacing dir = tm := by
    rw [haround.params, hpoint]; cases x <;> rfl
  have hhanded : (if counting s' p then (s'.setPoint p ((s'.point p).afterCount dir tm.speed)).handOver e
      else (s'.setPoint p ((s'.point p).afterCount dir tm.speed)).sendQuiet p) = handed := by
    rw [hpassed, hcounting]
  have hnoticed : Noticed passed handed := by
    have h := Ev.handCount_noticed e (counting s p) ⟨passed, [], []⟩
    rw [Ev.handCount_s] at h
    exact h
  have hbefore : handed.point p = passed.point p := hnoticed.point p
  have hparams : handed.params = s.params := hnoticed.params.trans haround.params
  obtain ⟨htraces, hplain, hanomaly⟩ := Ev.countEvent_outcome (w := Ev.takeLine p x t ⟨s, [], []⟩)
    (by rw [Ev.takeLine_s, haround.proofAt]; exact hp) dir t (s'.recordAfter p x t) (tm := tm) (u := handed)
    (by rw [Ev.takeLine_s]; exact htm) (by rw [Ev.takeLine_s]; exact hhanded)
  rw [hdir] at hwork
  rw [← hwork] at htraces hplain hanomaly
  have hleaves : ∀ {u : State}, (Ev.acceptedChange p x.lines t ⟨s, [], []⟩).s = u →
      Leaves u.settled (runEvent (fun w => (w.acceptedChange p x.lines t).settle) s) := fun h =>
    h ▸ runEvent_settled (Ev.acceptedChange p x.lines t) s
  have htallied : Point.raiseTimingTallies tm (handed.point p) = tallied := by
    show _ = ({ handed.point p with irregularTally := _, overspeedTally := _ } : Point)
    unfold Point.raiseTimingTallies
    rw [hbefore, State.setPoint_self, hpoint]
    cases x <;> rfl
  have hweigh : (handed.point p).faults handed.params (timingWeight handed.params tm) ↔
      (s.point p).faults s.params weight := by
    rw [hparams, hbefore, State.setPoint_self, hpoint]
    cases x <;> exact Iff.rfl
  refine ⟨_, rfl, ?_, fun hi ho => hleaves (hplain (by rw [hi, ho]; rfl)), fun hany => ?_⟩
  · refine settled_traces (f := Ev.acceptedChange p x.lines t) (by split <;> simp [TraceRecord.point, e])
      (Ev.acceptedChange_changes p x.lines t ⟨s, [], []⟩) ?_
    rw [htraces, Ev.takeLine_traces, Ev.takeLine_s, hcounting]
    rfl
  · obtain ⟨hweighed, hfault⟩ := hanomaly (by simpa using hany)
    rw [hweigh, htallied, hparams] at hweighed
    rw [hweigh, htallied, hparams] at hfault
    exact ⟨fun h => hleaves (hweighed h), fun h => hleaves (hfault h)⟩

end Sys2Proof.Machine
end

section
/-! Detector proving: due and overdue timers (O22), the channel and the end of activities (O23), a proof's changes (O24), its
failure (O25) and the decision after an abort (O26). -/

namespace Sys2Proof.Machine

/-! ## Proof status -/

theorem Ev.onProofStatus_s (p : PointId) (f : Point → Point) (w : Ev) :
    (w.onProofStatus p f).s =
      if !(w.s.point p).overdueIndication && (f (w.s.point p)).overdueIndication then
        (w.s.setPoint p (f (w.s.point p))).sendOverdue p
      else if (w.s.point p).overdueIndication && !(f (w.s.point p)).overdueIndication then
        (w.s.setPoint p (f (w.s.point p))).sendCurrent p
      else w.s.setPoint p (f (w.s.point p)) := by
  unfold Ev.onProofStatus
  dsimp only
  rw [Ev.onPoint_point]
  split
  · rw [Ev.proofOverdue_s, Ev.onPoint_setPoint]
  · split
    · rw [Ev.proofCurrent_s, Ev.onPoint_setPoint]
    · exact Ev.onPoint_setPoint p f w

theorem Point.overdueIndication_onProof (x : Sys) (f : ProofStatus → ProofStatus) (pt : Point) :
    (pt.onProof x f).overdueIndication = ((f (pt.proof x)).overdue || (pt.proof x.other).overdue) := by
  cases x
  · rfl
  · exact Bool.or_comm _ _

theorem Point.overdueIndication_eq (x : Sys) (pt : Point) :
    pt.overdueIndication = ((pt.proof x).overdue || (pt.proof x.other).overdue) := by
  cases x
  · rfl
  · exact Bool.or_comm _ _

/-- A change of a status that keeps its overdue mark sends no notice. -/
theorem Ev.onProofStatus_s_of_overdue {p : PointId} {x : Sys} {f : ProofStatus → ProofStatus} {w : Ev}
    (h : (f ((w.s.point p).proof x)).overdue = ((w.s.point p).proof x).overdue) :
    (w.onProofStatus p (Point.onProof x f)).s = w.s.setPoint p ((w.s.point p).onProof x f) := by
  have hsame : ((w.s.point p).onProof x f).overdueIndication = (w.s.point p).overdueIndication := by
    rw [Point.overdueIndication_onProof, h, ← Point.overdueIndication_eq]
  rw [Ev.onProofStatus_s, hsame]
  cases (w.s.point p).overdueIndication <;> rfl

theorem Ev.join_s (x : SystemId) (w : Ev) : (w.join x).s = { w.s with queue := joinTail x w.s } := rfl

theorem joinTail_eq (x : SystemId) (s : State) :
    joinTail x s = if x ∈ s.queue ∨ underProof s x.point x.sys then s.queue else s.queue ++ [x] := by
  unfold joinTail
  exact if_congr (by simp) rfl rfl

/-- Settles O22. -/
theorem dueAndOverdueTimersMarkTheirSystem : Obligations.DueAndOverdueTimersMarkTheirSystem := by
  unfold Obligations.DueAndOverdueTimersMarkTheirSystem
  refine fun p x s => ⟨fun h => ?_, fun h => ?_⟩
  · have hwork : (Ev.dueExpiry p x ⟨s, [], []⟩).s =
        { s.setPoint p ((s.point p).onProof x (fun st => { st with due := true, dueTimer := none })) with
          queue := if ⟨p, x⟩ ∈ s.queue ∨ underProof s p x then s.queue else s.queue ++ [⟨p, x⟩] } := by
      unfold Ev.dueExpiry
      rw [Ev.join_s, Ev.onProofStatus_s_of_overdue rfl, joinTail_eq]
      rfl
    refine ⟨_, ?_, hwork ▸ runEvent_settled (Ev.dueExpiry p x) s⟩
    show execDueTimerExpiry p x s = _
    unfold execDueTimerExpiry
    rw [if_pos h]
  · intro s'
    have hwork : (Ev.overdueExpiry p x ⟨s, [], []⟩).s =
        if (s.point p).overdueIndication then s' else s'.sendOverdue p := by
      unfold Ev.overdueExpiry
      rw [Ev.onProofStatus_s, Point.overdueIndication_onProof]
      show (if (!(s.point p).overdueIndication && true) = true then _ else
        if ((s.point p).overdueIndication && false) = true then _ else _) = _
      cases (s.point p).overdueIndication <;> rfl
    refine ⟨_, ?_, hwork ▸ runEvent_leaves (Ev.overdueExpiry p x) s⟩
    show execOverdueTimerExpiry p x s = _
    unfold execOverdueTimerExpiry
    rw [if_pos h]

/-! ## The channel and the staged pairs -/

/-- The state after the free channel has taken a system. -/
def State.take (x : SystemId) (s : State) : State :=
  { s with
    channel := some { system := x, phase := .assert, takeTime := s.now, responseTime := none
                      window := ⟨s.now, 10 * s.params.response⟩, readFree := false }
    queue := s.queue.erase x }

/-- The state after the channel has looked for a system. -/
def State.taken (s : State) : State :=
  if s.channel.isSome then s else
    match s.queue.find? (takeable s) with
    | none => s
    | some x => s.take x

theorem Ev.takeProof_s (w : Ev) : w.takeProof.s = w.s.taken := by
  unfold Ev.takeProof State.taken
  cases w.s.channel with
  | some pr => rfl
  | none => cases w.s.queue.find? (takeable w.s) <;> rfl

theorem State.taken_of_channel {s : State} (h : s.channel ≠ none) : s.taken = s :=
  if_pos (Option.isSome_iff_ne_none.mpr h)

theorem State.taken_of_nothing {s : State} (h : ∀ y ∈ s.queue, takeable s y = false) : s.taken = s := by
  unfold State.taken
  rw [List.find?_eq_none.mpr (by simpa using h)]
  exact ite_self s

/-- The channel takes the first system that may be taken. -/
theorem State.taken_of_first {s : State} {before after : List SystemId} {x : SystemId} (hc : s.channel = none)
    (hq : s.queue = before ++ x :: after) (hx : x ∉ before) (hb : ∀ y ∈ before, takeable s y = false)
    (ht : takeable s x = true) : s.taken = { s.take x with queue := before ++ after } := by
  have hfind : s.queue.find? (takeable s) = some x := by
    rw [List.find?_eq_some_iff_append]
    exact ⟨ht, before, after, hq, by simpa using hb⟩
  have herase : s.queue.erase x = before ++ after := by
    rw [hq, List.erase_append_right _ hx, List.erase_cons_head]
  unfold State.taken
  rw [if_neg (by simp [hc]), hfind]
  exact congrArg (fun q : List SystemId => ({ s.take x with queue := q } : State)) herase

theorem stagedReady_iff (s : State) :
    stagedReady s = true ↔ ∃ p q, (s.point p).staged = some q ∧ (s.point p).machine = .idle ∧
      underProof s p .a = false ∧ underProof s p .b = false := by
  unfold stagedReady pairApplicable pointUnderProof
  simp only [List.any_eq_true, Bool.and_eq_true, Option.isSome_iff_exists, beq_iff_eq, Bool.not_eq_true',
    Bool.or_eq_false_iff]
  constructor
  · rintro ⟨p, -, ⟨q, hq⟩, hm, hu⟩
    exact ⟨p, q, hq, hm, hu⟩
  · rintro ⟨p, q, hq, hm, hu⟩
    exact ⟨p, List.mem_finRange p, ⟨q, hq⟩, hm, hu⟩

theorem State.pairApplied_self {s : State} (h : stagedReady s = false) (p : PointId) :
    s.pairApplied p (s.point p) = s.point p := by
  unfold State.pairApplied
  split
  · rfl
  · rename_i q hq
    refine if_neg fun ⟨hm, hu⟩ => ?_
    rw [(stagedReady_iff s).mpr ⟨p, q, hq, hm, hu⟩] at h
    cases h

theorem State.pairsApplied_eq (s : State) :
    s.pairsApplied = { s with points := .ofFn (fun p => s.pairApplied p (s.point p)) } := rfl

theorem State.pairsApplied_self {s : State} (h : stagedReady s = false) : s.pairsApplied = s := by
  rw [State.pairsApplied_eq]
  refine congrArg (fun P : Table 16 Point => ({ s with points := P } : State)) (Table.ext_get fun p => ?_)
  rw [Table.get_ofFn]
  exact State.pairApplied_self h p

/-- No pair is ready where all have been applied. -/
theorem stagedReady_pairsApplied (s : State) : stagedReady s.pairsApplied = false := by
  rw [Bool.eq_false_iff, ne_eq, stagedReady_iff]
  rintro ⟨p, q, hq, hm, hu⟩
  rw [State.pairsApplied_point] at hq hm
  have hu' : underProof s p .a = false ∧ underProof s p .b = false := hu
  revert hq hm
  unfold State.pairApplied
  cases hs : (s.point p).staged with
  | none => intro hq; rw [hs] at hq; cases hq
  | some r =>
    dsimp only
    by_cases hidle : (s.point p).machine = .idle
    · rw [if_pos ⟨hidle, hu'⟩]; intro hq; cases hq
    · rw [if_neg fun h => hidle h.1]; exact fun _ hm => absurd hm hidle

/-- A system taken leaves the pairs to be applied as they are: no pair waits at its point. -/
theorem State.pairsApplied_take {s : State} {x : SystemId} (hc : s.channel = none) (ht : takeable s x = true) :
    (s.take x).pairsApplied = { s.take x with points := s.pairsApplied.points } := by
  have hstaged : (s.point x.point).staged = none := by
    unfold takeable at ht; simpa using (Bool.and_eq_true_iff.mp ht).2
  rw [State.pairsApplied_eq]
  refine congrArg (fun P : Table 16 Point => ({ s.take x with points := P } : State)) (Table.ext_get fun p => ?_)
  rw [Table.get_ofFn, show Table.get s.pairsApplied.points p = _ from State.pairsApplied_point s p]
  show (s.take x).pairApplied p (s.point p) = _
  unfold State.pairApplied
  by_cases hp : p = x.point
  · rw [hp, hstaged]
  · have hu : ∀ y, underProof (s.take x) p y = underProof s p y := fun y => by
      rw [underProof_of_channel hc]
      unfold underProof State.take
      simpa using fun h => hp (congrArg SystemId.point h).symm
    rw [hu, hu]

/-- The staged pairs and the channel when the work of an event is done. -/
theorem Ev.settleProofs_s (w : Ev) : w.settleProofs.s =
    if stagedReady w.s && w.s.channel.isNone && !w.s.queue.isEmpty then
      if Config.stagedFirst w.s.choices then ({ w.s with choices := w.s.choices + 1 } : State).pairsApplied.taken
      else ({ w.s with choices := w.s.choices + 1 } : State).taken.pairsApplied.taken
    else w.s.pairsApplied.taken := by
  unfold Ev.settleProofs
  split
  · split
    · rw [Ev.takeProof_s, Ev.applyStaged_s]; rfl
    · rw [Ev.takeProof_s, Ev.applyStaged_s, Ev.takeProof_s]; rfl
  · rw [Ev.takeProof_s, Ev.applyStaged_s]

theorem State.taken_frame (s : State) : s.taken = { s with channel := s.taken.channel, queue := s.taken.queue } := by
  unfold State.taken
  split
  · rfl
  · split <;> rfl

/-- A pair applied before or after the take is applied all the same. -/
theorem State.pairsApplied_taken_points (s : State) : s.taken.pairsApplied.points = s.pairsApplied.points := by
  unfold State.taken
  split
  · rfl
  · rename_i hc
    split
    · rfl
    · rename_i x hx
      rw [State.pairsApplied_take (by simpa using hc) (List.find?_some hx)]

theorem Ev.settleProofs_frame (w : Ev) : w.settleProofs.s = { w.s with
    points := w.s.pairsApplied.points, channel := w.settleProofs.s.channel, queue := w.settleProofs.s.queue
    choices := w.settleProofs.s.choices } := by
  rw [Ev.settleProofs_s]
  split
  · split
    · rw [State.taken_frame]; rfl
    · have hpoints := State.pairsApplied_taken_points { w.s with choices := w.s.choices + 1 }
      generalize ht : ({ w.s with choices := w.s.choices + 1 } : State).taken = t at hpoints ⊢
      have hframe := ht ▸ State.taken_frame { w.s with choices := w.s.choices + 1 }
      rw [State.taken_frame, State.pairsApplied_eq, 
        show Table.ofFn (fun p => t.pairApplied p (t.point p)) = _ from hpoints, hframe]
      rfl
  · rw [State.taken_frame]; rfl

/-! ## The end of an activity -/

/-- The activity has reached its end. -/
def State.activityComplete (s : State) : Prop :=
  match s.sequencer.activity with
  | .none => False
  | .powerOn => s.sequencer.nextTurn = none ∧ ∀ g, (s.group g).state ≠ .enabling ∧ (s.group g).state ≠ .settling
  | .powerOff => s.sequencer.nextTurn = none ∧ ∀ g, (s.group g).state ≠ .disabling
  | .recycle g => (s.group g).state = .ready ∨ (s.group g).state = .failed ∨ (s.group g).state = .manual

/-- The device state after an activity. -/
def Activity.deviceState (d : DeviceState) : Activity → DeviceState
  | .powerOn => .running
  | .powerOff => .configuring
  | _ => d

theorem GroupState.endsRecycle_iff (st : GroupState) : st.endsRecycle = true ↔ st = .ready ∨ st = .failed ∨ st = .manual := by
  cases st <;> simp [GroupState.endsRecycle]

theorem anyGroup_eq_false {s : State} {f : GroupState → Bool} :
    anyGroup s f = false ↔ ∀ g, f (s.group g).state = false := by
  unfold anyGroup
  rw [List.any_eq_false]
  simp only [Bool.not_eq_true]
  exact ⟨fun h g => h g (List.mem_finRange g), fun h g _ => h g⟩

theorem Outputs.followDevice_same (o : Outputs) (d : DeviceState) : o.followDevice d d = o := by
  unfold Outputs.followDevice
  cases d <;> rfl

theorem Ev.settleActivity_of_running {w : Ev} (h : ¬w.s.activityComplete) : w.settleActivity = w := by
  unfold State.activityComplete at h
  unfold Ev.settleActivity
  cases ha : w.s.sequencer.activity <;> rw [ha] at h <;> dsimp only
  case powerOn => exact if_neg fun hc => h (by simpa [anyGroup_eq_false] using hc)
  case powerOff => exact if_neg fun hc => h (by simpa [anyGroup_eq_false] using hc)
  case recycle g => exact if_neg fun hc => h ((GroupState.endsRecycle_iff _).mp hc)

theorem Ev.settleActivity_of_complete {w : Ev} (h : w.s.activityComplete) : w.settleActivity.s = { w.s with
    sequencer := { w.s.sequencer with activity := .none, nextTurn := none, turnTimer := none }
    device := { w.s.device with state := w.s.sequencer.activity.deviceState w.s.device.state }
    outputs := w.s.outputs.followDevice w.s.device.state (w.s.sequencer.activity.deviceState w.s.device.state) } := by
  unfold State.activityComplete at h
  unfold Ev.settleActivity
  cases ha : w.s.sequencer.activity <;> rw [ha] at h <;> dsimp only
  case none => exact h.elim
  case powerOn => rw [if_pos (by simpa [anyGroup_eq_false] using h), Ev.onDevice_s]; rfl
  case powerOff => rw [if_pos (by simpa [anyGroup_eq_false] using h), Ev.onDevice_s]; rfl
  case recycle g =>
    rw [if_pos ((GroupState.endsRecycle_iff _).mpr h)]
    rw [show (Activity.recycle g).deviceState w.s.device.state = w.s.device.state from rfl, Outputs.followDevice_same]
    rfl

theorem State.settled_of_running {s : State} (h : ¬s.activityComplete) :
    s.settled = (Ev.settleProofs ⟨s, [], []⟩).s := by
  have hcomplete : ¬(Ev.settleProofs ⟨s, [], []⟩).s.activityComplete := by rw [Ev.settleProofs_frame]; exact h
  exact congrArg Ev.s (Ev.settleActivity_of_running hcomplete)

theorem State.not_activityComplete {s : State} (h : s.sequencer.activity = .none) : ¬s.activityComplete := by
  unfold State.activityComplete
  rw [h]
  exact id

/-- With no pair to apply first, the channel looks for a system at once. -/
theorem State.settled_of_not_ready {s : State} (ha : s.sequencer.activity = .none) (hr : stagedReady s = false) :
    s.settled = s.taken := by
  rw [State.settled_of_running (State.not_activityComplete ha), Ev.settleProofs_s, if_neg (by rw [hr]; exact Bool.false_ne_true),
    State.pairsApplied_self hr]

/-- Where both may follow, the pairs come first or the take does. -/
theorem State.settled_of_ready {s : State} (ha : s.sequencer.activity = .none) (hr : stagedReady s = true)
    (hc : s.channel = none) (hq : s.queue ≠ []) :
    s.settled = ({ s with choices := s.choices + 1 } : State).pairsApplied.taken ∨
      s.settled = ({ s with choices := s.choices + 1 } : State).taken.pairsApplied.taken := by
  rw [State.settled_of_running (State.not_activityComplete ha), Ev.settleProofs_s,
    if_pos (by simpa [hr, hc] using hq)]
  split
  · exact .inl rfl
  · exact .inr rfl

/-- Settles O23. -/
theorem theFreeChannelTakesTheFirstTakeableSystem : Obligations.TheFreeChannelTakesTheFirstTakeableSystem := by
  unfold Obligations.TheFreeChannelTakesTheFirstTakeableSystem
  refine ⟨fun s before after x hc hr ha hq hx hb hm hs => ?_, fun s ha => ⟨stagedReady_iff s, ?_, ?_, ?_⟩, fun s => ?_⟩
  · have htake : takeable s x = true := by unfold takeable; rw [hm, hs]; rfl
    have hskip : ∀ y ∈ before, takeable s y = false := fun y hy => by
      unfold takeable
      rcases hb y hy with h | h
      · rw [beq_eq_false_iff_ne.mpr h]; rfl
      · rw [Option.isNone_eq_false_iff.mpr (Option.isSome_iff_ne_none.mpr h), Bool.and_false]
    have hsettled := (State.settled_of_not_ready ha hr).trans (State.taken_of_first hc hq hx hskip htake)
    refine ⟨hsettled, ?_⟩
    rw [hsettled]
    simp [testLine, phaseOf, State.take]
  · intro h
    rw [State.settled_of_running (State.not_activityComplete ha), Ev.settleProofs_s, if_neg]
    · rcases h with h | h
      · exact State.taken_of_channel h
      · exact State.taken_of_nothing fun y hy => by rw [show s.pairsApplied.queue = [] from h] at hy; cases hy
    · rcases h with h | h
      · rw [Option.isNone_eq_false_iff.mpr (Option.isSome_iff_ne_none.mpr h)]; simp
      · simp [h]
  · intro hr hc hq s'
    have hstill : s'.pairsApplied.settled = s'.pairsApplied.taken :=
      State.settled_of_not_ready ha (stagedReady_pairsApplied s')
    rcases State.settled_of_ready ha hr hc hq with h | h
    · exact .inl (h.trans hstill.symm)
    · cases hfind : s.queue.find? (takeable s) with
      | none =>
        have hnothing : s'.taken = s' :=
          State.taken_of_nothing (s := s') fun y hy => by
            show takeable s y = false
            simpa using List.find?_eq_none.mp hfind y hy
        rw [hnothing] at h
        exact .inl (h.trans hstill.symm)
      | some x =>
        obtain ⟨htake, before, after, hqueue, hskip⟩ := List.find?_eq_some_iff_append.mp hfind
        have hskip' : ∀ y ∈ before, takeable s y = false := by simpa using hskip
        have hx : x ∉ before := fun hmem => by rw [hskip' x hmem] at htake; cases htake
        refine .inr ⟨before, x, after, hqueue, hx, htake, hskip', ?_⟩
        have htaken : s'.taken = { s'.take x with queue := before ++ after } :=
          State.taken_of_first (s := s') hc hqueue hx hskip' htake
        have hpairs := State.pairsApplied_taken_points s'
        rw [h, State.taken_of_channel (by rw [htaken]; exact Option.some_ne_none _),
          show s'.taken.pairsApplied = { s'.taken with points := s'.taken.pairsApplied.points } from rfl, hpairs, htaken]
        rfl
  · intro hnone hr
    rw [State.settled_of_not_ready ha hr, State.taken_of_nothing hnone]
  · intro t ended state complete
    have hcomplete : complete ↔ s.activityComplete := Iff.rfl
    have hframe := Ev.settleProofs_frame ⟨s, [], []⟩
    have ht : t = (Ev.settleProofs ⟨s, [], []⟩).settleActivity.s := rfl
    generalize Ev.settleProofs ⟨s, [], []⟩ = w at hframe ht
    by_cases h : complete
    · have hw : w.s.activityComplete := by rw [hframe]; exact hcomplete.mp h
      rw [Ev.settleActivity_of_complete hw, hframe] at ht
      dsimp only at ht
      refine ⟨by rw [ht], by rw [ht], fun hn => absurd h hn, fun _ => ⟨by rw [ht], fun ha => ⟨by rw [ht, ha]; rfl, fun hd => ?_⟩,
        fun ha => ⟨by rw [ht, ha]; rfl, fun hd => ?_⟩, fun g ha => ⟨by rw [ht, ha]; rfl, ?_⟩⟩⟩
      · rw [ht, ha, hd]; rfl
      · rw [ht, ha, hd]; rfl
      · rw [ht, ha]; exact Outputs.followDevice_same _ _
    · have hw : ¬w.s.activityComplete := by rw [hframe]; exact fun hc => h (hcomplete.mpr hc)
      rw [Ev.settleActivity_of_running hw, hframe] at ht
      exact ⟨by rw [ht], by rw [ht], fun _ => ⟨by rw [ht], by rw [ht], by rw [ht]⟩, fun hc => absurd hc h⟩

/-! ## The changes of a point under proof -/

theorem proofAt_of_channel {s : State} {pr : Proof} (h : s.channel = some pr) : proofAt s pr.system.point = some pr := by
  unfold proofAt; rw [h]; exact if_pos rfl

theorem withChange_accepted_self (p : PointId) (x : Sys) (t : Time) (s : State) :
    (((s.withChange p x t).point p).line x).accepted = !((s.point p).line x).accepted := by
  rw [State.withChange_point, if_pos rfl]; cases x <;> rfl

theorem withChange_line_ne {p : PointId} {x y : Sys} (h : y ≠ x) (t : Time) (s : State) :
    ((s.withChange p x t).point p).line y = (s.point p).line y := by
  rw [State.withChange_point, if_pos rfl]
  match x, y with
  | .a, .b => rfl
  | .b, .a => rfl
  | .a, .a => exact absurd rfl h
  | .b, .b => exact absurd rfl h

section
variable {pr : Proof} {s : State} (hc : s.channel = some pr) (hl : lit s pr.system.point = true)
  (hu : inUse s pr.system.point = true)
include hc hl hu

/-- A change of one system at a point under proof goes to the proof controller. -/
theorem Ev.changeOne_underProof (x : Sys) (t : Time) (w : Ev) (hw : w.s = s) :
    w.changeOne pr.system.point x t =
      if pr.system.sys = x then (w.takeLine pr.system.point x t).testedChange pr
      else (w.takeLine pr.system.point x t).partnerChange pr t := by
  subst hw
  have hproof : proofAt (w.takeLine pr.system.point x t).s pr.system.point = some pr := by
    rw [Ev.takeLine_s, (State.withChange_around _ _ _ _).proofAt]; exact proofAt_of_channel hc
  unfold Ev.changeOne
  dsimp only
  rw [takeLine_lit_inUse, if_pos (by rw [hl, hu]; rfl)]
  unfold Ev.routeChange
  rw [hproof]

theorem Ev.changeOne_tested (t : Time) (w : Ev) (hw : w.s = s) :
    w.changeOne pr.system.point pr.system.sys t = (w.takeLine pr.system.point pr.system.sys t).testedChange pr := by
  rw [Ev.changeOne_underProof hc hl hu _ t w hw, if_pos rfl]

/-- The partner's arrival aborts a proof. -/
theorem Ev.changeOne_partner (hphase : pr.phase ≠ .abortWait)
    (hfree : ((s.point pr.system.point).line pr.system.sys.other).accepted = false) (t : Time) (w : Ev) (hw : w.s = s) :
    w.changeOne pr.system.point pr.system.sys.other t =
      (w.takeLine pr.system.point pr.system.sys.other t).abortProof pr t := by
  rw [Ev.changeOne_underProof hc hl hu _ t w hw, if_neg (by cases pr.system.sys <;> simp [Sys.other])]
  unfold Ev.partnerChange
  dsimp only
  rw [Ev.takeLine_s, withChange_accepted_self, hw, hfree, if_pos (by simpa using hphase)]
end

theorem Ev.testedChange_assert {pr : Proof} {w : Ev} (hp : pr.phase = .assert)
    (h : ((w.s.point pr.system.point).line pr.system.sys).accepted = true) : (w.testedChange pr).s = { w.s with
      channel := some { pr with
        phase := .release, responseTime := some w.s.now, window := ⟨w.s.now, 10 * w.s.params.response⟩ } } := by
  unfold Ev.testedChange
  rw [hp]
  dsimp only
  rw [if_pos h]
  rfl

theorem Ev.testedChange_release {pr : Proof} {w : Ev} (hp : pr.phase = .release)
    (h : ((w.s.point pr.system.point).line pr.system.sys).accepted = false) : w.testedChange pr = w.passProof pr := by
  unfold Ev.testedChange
  rw [hp]
  dsimp only
  rw [h]
  rfl

theorem Ev.testedChange_abortWait {pr : Proof} {w : Ev} (hp : pr.phase = .abortWait) : (w.testedChange pr).s =
    if ((w.s.point pr.system.point).line pr.system.sys).accepted then w.s
    else { w.s with channel := some { pr with readFree := true } } := by
  unfold Ev.testedChange
  rw [hp]
  dsimp only
  split <;> rfl

/-- The statuses of the tested system after its pass. -/
def State.passed (pr : Proof) (s : State) : State :=
  { s.setPoint pr.system.point ((s.point pr.system.point).onProof pr.system.sys (fun _ =>
      ProofStatus.passed s.now s.params.interval)) with channel := none }

theorem Ev.passProof_s (pr : Proof) (w : Ev) : (w.passProof pr).s =
    if (w.s.point pr.system.point).overdueIndication && !((w.s.point pr.system.point).proof pr.system.sys.other).overdue then
      (w.s.passed pr).sendCurrent pr.system.point
    else w.s.passed pr := by
  unfold Ev.passProof
  dsimp only
  rw [Ev.traceProof, Ev.trace_s, Ev.onProofStatus_s, Point.overdueIndication_onProof]
  show (if (!(w.s.point pr.system.point).overdueIndication && ((w.s.point pr.system.point).proof pr.system.sys.other).overdue) = true
    then _ else if ((w.s.point pr.system.point).overdueIndication &&
      !((w.s.point pr.system.point).proof pr.system.sys.other).overdue) = true then _ else _) = _
  rw [if_neg]
  · rfl
  · rw [Point.overdueIndication_eq pr.system.sys]
    cases ((w.s.point pr.system.point).proof pr.system.sys.other).overdue <;> simp

theorem Ev.passProof_traces (pr : Proof) (w : Ev) :
    (w.passProof pr).traces = w.traces ++ [.proof pr.system .pass pr.takeTime pr.responseTime w.s.now 0] := by
  let v := (w.onProofs none w.s.queue).onProofStatus pr.system.point (Point.onProof pr.system.sys
    (fun _ => ProofStatus.passed w.s.now w.s.params.interval))
  have hnow : v.s.now = w.s.now := (Ev.onProofStatus_around _ _ _).now
  have hfailures : ((v.s.point pr.system.point).proof pr.system.sys).failures = 0 := by
    rw [Ev.onProofStatus_point]; cases pr.system.sys <;> rfl
  show v.traces ++ [.proof _ _ _ _ v.s.now ((v.s.point pr.system.point).proof pr.system.sys).failures] = _
  rw [hnow, hfailures, Ev.onProofStatus_traces]
  rfl

theorem Ev.abortProof_s (pr : Proof) (t : Time) (w : Ev) : (w.abortProof pr t).s =
    ({ w.s.setPoint pr.system.point { w.s.point pr.system.point with
        machine := firstState pr.system.sys.other, passage := some (partialRecord pr.system.sys.other t)
        confusion := none, quietTimer := none } with
      channel := some { pr with
        phase := .abortWait, window := ⟨w.s.now, 10 * w.s.params.response⟩
        readFree := !((w.s.point pr.system.point).line pr.system.sys).accepted } } : State).sendActive pr.system.point :=
  Ev.openPassage_s _ _ _ _

theorem Ev.abortProof_point (pr : Proof) (t : Time) (w : Ev) : (w.abortProof pr t).s.point pr.system.point =
    { w.s.point pr.system.point with
      machine := firstState pr.system.sys.other, passage := some (partialRecord pr.system.sys.other t)
      confusion := none, quietTimer := none } := Ev.openPassage_point _ _ _ _

theorem Ev.abortProof_rest (pr : Proof) (t : Time) (w : Ev) : (w.abortProof pr t).s.channel = some { pr with
      phase := .abortWait, window := ⟨w.s.now, 10 * w.s.params.response⟩
      readFree := !((w.s.point pr.system.point).line pr.system.sys).accepted } ∧
    ∀ q, lit (w.abortProof pr t).s q = lit w.s q :=
  ⟨(Ev.openPassage_around _ _ _ _).channel, (Ev.openPassage_around pr.system.point _ _ (w.onProofs _ w.s.queue)).lit⟩

theorem partialRecord_eq (y : Sys) (t : Time) : partialRecord y t =
    { onset := t
      aOn := if y = .a then some t else none
      bOn := if y = .b then some t else none
      aOff := none, bOff := none, reversal := false, partly := true } := by cases y <;> rfl

theorem Ev.changeOne_eq (p : PointId) (x : Sys) (t : Time) (w : Ev) :
    w.changeOne p x t = w.acceptedChange p x.lines t := by cases x <;> rfl

theorem Ev.changeOne_changes (p : PointId) (x : Sys) (t : Time) (w : Ev) : Changes w.s (w.changeOne p x t).s := by
  rw [Ev.changeOne_eq]; exact Ev.acceptedChange_changes p x.lines t w

theorem execAcceptedChange_one (p : PointId) (x : Sys) (t : Time) (s : State) :
    exec (.acceptedChange p x.lines t) s = .next (runEvent (fun w => (w.changeOne p x t).settle) s) := by
  cases x <;> rfl

theorem execAcceptedChange_one_leaves {p : PointId} {x : Sys} {t : Time} {s v : State}
    (h : (Ev.changeOne p x t ⟨s, [], []⟩).s = v) :
    ∃ u, exec (.acceptedChange p x.lines t) s = .next u ∧ Leaves v.settled u :=
  execAcceptedChange_leaves (by cases x <;> exact h)

/-! ## Both changes at one sample -/

theorem State.settled_points (s : State) : s.settled.points = s.pairsApplied.points := by
  have h : s.settled.points = (Ev.settleProofs ⟨s, [], []⟩).s.points := Ev.settleActivity_points _
  rw [h, Ev.settleProofs_frame]

theorem State.settled_point_eq (s : State) (p : PointId) : s.settled.point p = s.pairApplied p (s.point p) := by
  rw [show s.settled.point p = s.pairsApplied.point p from congrArg (fun u => Table.get u p) s.settled_points,
    State.pairsApplied_point]

theorem Ev.settleActivity_channel (w : Ev) : w.settleActivity.s.channel = w.s.channel := by
  by_cases h : w.s.activityComplete
  · rw [Ev.settleActivity_of_complete h]
  · rw [Ev.settleActivity_of_running h]

/-- A channel in use stays as it is. -/
theorem State.settled_channel {s : State} (h : s.channel ≠ none) : s.settled.channel = s.channel := by
  refine (Ev.settleActivity_channel _).trans ?_
  rw [Ev.settleProofs_s, if_neg (by rw [Option.isNone_eq_false_iff.mpr (Option.isSome_iff_ne_none.mpr h)]; simp)]
  exact (congrArg State.channel (State.taken_of_channel (s := s.pairsApplied) h)).trans rfl

theorem Leaves.channel {s t : State} (h : Leaves s t) : t.channel = s.channel := by rw [h.1]

/-- The proof statuses and the parameters of a point stay. -/
def Point.SamePairs (a b : Point) : Prop :=
  b.proofA = a.proofA ∧ b.proofB = a.proofB ∧ b.params = a.params ∧ b.staged = a.staged

theorem Point.MovedTo.samePairs {a b : Point} (h : a.MovedTo b) : a.SamePairs b := by
  unfold Point.MovedTo at h; rw [h]; exact ⟨rfl, rfl, rfl, rfl⟩

theorem Point.SameButLines.samePairs {a b : Point} (h : a.SameButLines b) : a.SamePairs b := by
  unfold Point.SameButLines at h; rw [h]; exact ⟨rfl, rfl, rfl, rfl⟩

theorem Point.SamePairs.trans {a b c : Point} (h : a.SamePairs b) (h' : b.SamePairs c) : a.SamePairs c := by
  obtain ⟨h1, h2, h3, h4⟩ := h
  obtain ⟨h1', h2', h3', h4'⟩ := h'
  exact ⟨h1'.trans h1, h2'.trans h2, h3'.trans h3, h4'.trans h4⟩

theorem Point.SamePairs.proof {a b : Point} (h : a.SamePairs b) (x : Sys) : b.proof x = a.proof x := by
  cases x
  · exact h.1
  · exact h.2.1

theorem Point.SamePairs.overdueIndication {a b : Point} (h : a.SamePairs b) : b.overdueIndication = a.overdueIndication := by
  unfold Point.overdueIndication; rw [h.1, h.2.1]

/-- A change delivered to an IDLE machine completes no crossing. -/
theorem Ev.deliver_of_idle {p : PointId} {w : Ev} (h : (w.s.point p).machine = .idle) (chg : Lines) (t : Time) :
    w.deliver p chg t = w.deliverChange p chg (reads w.s p .a) (reads w.s p .b) t := by
  unfold Ev.deliver
  rw [h]
  cases reads w.s p .a <;> cases reads w.s p .b <;> rfl

/-- No proof is under way, or one that waits for its response. -/
def State.Unanswered (s : State) : Prop := ∀ pr, s.channel = some pr → pr.phase = .assert

theorem State.Unanswered.taken {s : State} (h : s.Unanswered) : s.taken.Unanswered := by
  unfold State.taken
  split
  · exact h
  · split
    · exact h
    · rintro pr hpr
      cases hpr
      rfl

theorem Ev.settleProofs_unanswered {w : Ev} (h : w.s.Unanswered) : w.settleProofs.s.Unanswered := by
  rw [Ev.settleProofs_s]
  split
  · split
    · exact State.Unanswered.taken h
    · exact State.Unanswered.taken (State.Unanswered.taken (s := { w.s with choices := w.s.choices + 1 }) h)
  · exact State.Unanswered.taken h

/-- A change at an IDLE machine whose proof, if any, waits for its response keeps statuses and parameters. -/
theorem Ev.changeOne_samePairs {p : PointId} {w : Ev} (hm : (w.s.point p).machine = .idle) (hc : w.s.Unanswered) (x : Sys)
    (t : Time) : (w.s.point p).SamePairs ((w.changeOne p x t).s.point p) := by
  have hline : (w.s.point p).SameButLines ((w.takeLine p x t).s.point p) := by
    rw [Ev.takeLine_s]; exact State.withChange_sameButLines _ _ _ _
  have hchannel : (w.takeLine p x t).s.channel = w.s.channel := by
    rw [Ev.takeLine_s]; exact (State.withChange_around _ _ _ _).channel
  have hmachine := hline.machine.trans hm
  unfold Ev.changeOne
  dsimp only
  generalize w.takeLine p x t = v at hline hchannel hmachine ⊢
  refine hline.samePairs.trans ?_
  have hdeliver : (v.s.point p).SamePairs ((v.deliver p x.lines t).s.point p) := by
    rw [Ev.deliver_of_idle hmachine]; exact (Ev.deliverChange_movedTo _ _ _ _ _ _).samePairs
  split
  · unfold Ev.routeChange
    cases hp : proofAt v.s p with
    | none => exact hdeliver
    | some pr =>
      obtain ⟨hpr, rfl⟩ := proofAt_eq_some hp
      have hphase : pr.phase = .assert := hc pr (hchannel ▸ hpr)
      dsimp only
      split
      · unfold Ev.testedChange
        rw [hphase]
        dsimp only
        split <;> exact ⟨rfl, rfl, rfl, rfl⟩
      · rename_i hne
        unfold Ev.partnerChange
        dsimp only
        split
        · rw [Ev.abortProof_point]; exact ⟨rfl, rfl, rfl, rfl⟩
        · rw [show pr.system.sys.other = x by revert hne; cases pr.system.sys <;> cases x <;> simp [Sys.other]]
          exact hdeliver
  · exact ⟨rfl, rfl, rfl, rfl⟩

theorem Ev.betweenChanges_point (p : PointId) (w : Ev) :
    w.betweenChanges.s.point p = w.s.pairApplied p (w.s.point p) := by
  unfold Ev.betweenChanges
  split
  · rw [Ev.settleProofs_frame]; exact State.pairsApplied_point w.choose.s p
  · rw [Ev.applyStaged_s]; exact State.pairsApplied_point w.choose.s p

theorem Ev.betweenChanges_unanswered {w : Ev} (h : w.s.Unanswered) : w.betweenChanges.s.Unanswered := by
  unfold Ev.betweenChanges
  split
  · exact Ev.settleProofs_unanswered (w := w.choose) h
  · rw [Ev.applyStaged_s]; exact h

theorem State.pairApplied_of_none {s : State} {p : PointId} {pt : Point} (h : pt.staged = none) : s.pairApplied p pt = pt := by
  unfold State.pairApplied; rw [h]

theorem State.pairApplied_of_active {s : State} {p : PointId} {pt : Point} (h : pt.machine ≠ .idle) :
    s.pairApplied p pt = pt := by
  unfold State.pairApplied
  split
  · rfl
  · exact if_neg fun hm => h hm.1

theorem State.pairApplied_applies {s : State} {p : PointId} {pt : Point} {q : PointParams} (hs : pt.staged = some q)
    (hm : pt.machine = .idle) (hc : s.channel = none) : s.pairApplied p pt = { pt with params := q, staged := none } := by
  unfold State.pairApplied
  rw [hs]
  exact if_pos ⟨hm, underProof_of_channel hc p .a, underProof_of_channel hc p .b⟩

theorem Point.onProof_staged (x : Sys) (f : ProofStatus → ProofStatus) (pt : Point) :
    (pt.onProof x f).staged = pt.staged := by cases x <;> rfl

theorem Point.onProof_machine (x : Sys) (f : ProofStatus → ProofStatus) (pt : Point) :
    (pt.onProof x f).machine = pt.machine := by cases x <;> rfl

theorem Ev.passProof_point (pr : Proof) (w : Ev) : (w.passProof pr).s.point pr.system.point =
    (w.s.point pr.system.point).onProof pr.system.sys (fun _ => ProofStatus.passed w.s.now w.s.params.interval) := by
  unfold Ev.passProof
  dsimp only
  rw [Ev.traceProof, Ev.trace_s, Ev.onProofStatus_point]
  rfl

theorem Ev.passProof_channel (pr : Proof) (w : Ev) : (w.passProof pr).s.channel = none := by
  unfold Ev.passProof
  dsimp only
  rw [Ev.traceProof, Ev.trace_s, (Ev.onProofStatus_around _ _ _).channel]
  rfl

section
variable {pr : Proof} {q : PointParams} {s : State} (hc : s.channel = some pr) (hphase : pr.phase = .release)
  (hl : lit s pr.system.point = true) (hu : inUse s pr.system.point = true)
  (hm : (s.point pr.system.point).machine = .idle) (hs : (s.point pr.system.point).staged = some q)
  (hx : ((s.point pr.system.point).line pr.system.sys).accepted = true)
include hc hphase hl hu hm hs hx

/-- The tested system's change first: the proof passes and the staged pair is applied. -/
theorem Ev.passed_then_partner (t : Time) (w : Ev) (hw : w.s = s) :
    let pt := (((w.changeOne pr.system.point pr.system.sys t).betweenChanges).changeOne pr.system.point
      pr.system.sys.other t).s.point pr.system.point
    (pt.proof pr.system.sys).proven = true ∧ (pt.proof pr.system.sys).lastPass = some s.now ∧ pt.params = q ∧
      pt.staged = none := by
  have haround := s.withChange_around pr.system.point pr.system.sys t
  have hsame := s.withChange_sameButLines pr.system.point pr.system.sys t
  have hpass : w.changeOne pr.system.point pr.system.sys t = (w.takeLine pr.system.point pr.system.sys t).passProof pr := by
    rw [Ev.changeOne_tested hc hl hu t w hw,
      Ev.testedChange_release hphase (by rw [Ev.takeLine_s, hw, withChange_accepted_self, hx]; rfl)]
  have hpoint := Ev.passProof_point pr (w.takeLine pr.system.point pr.system.sys t)
  have hchannel := Ev.passProof_channel pr (w.takeLine pr.system.point pr.system.sys t)
  rw [Ev.takeLine_s, hw] at hpoint
  rw [hpass]
  generalize (w.takeLine pr.system.point pr.system.sys t).passProof pr = v at hpoint hchannel
  have hbetween := v.betweenChanges_point pr.system.point
  rw [State.pairApplied_applies (q := q)
    (by rw [hpoint, Point.onProof_staged]; exact hsame.samePairs.2.2.2.trans hs)
    (by rw [hpoint, Point.onProof_machine]; exact hsame.machine.trans hm) hchannel] at hbetween
  have hpairs := Ev.changeOne_samePairs (p := pr.system.point) (w := v.betweenChanges)
    (by rw [hbetween]; show (v.s.point _).machine = _; rw [hpoint, Point.onProof_machine]; exact hsame.machine.trans hm)
    (Ev.betweenChanges_unanswered fun _ h => by rw [hchannel] at h; cases h) pr.system.sys.other t
  intro pt
  have hproof : pt.proof pr.system.sys = ProofStatus.passed s.now s.params.interval := by
    rw [hpairs.proof, hbetween]
    show (v.s.point _).proof _ = _
    rw [hpoint, Point.onProof_proof, if_pos rfl, haround.now, haround.params]
  rw [hproof]
  refine ⟨rfl, rfl, ?_, ?_⟩
  · rw [hpairs.2.2.1, hbetween]
  · rw [hpairs.2.2.2, hbetween]

/-- The partner's arrival first: the proof is aborted, and the tested system then reads free. -/
theorem Ev.aborted_then_tested (hy : ((s.point pr.system.point).line pr.system.sys.other).accepted = false) (t : Time)
    (w : Ev) (hw : w.s = s) :
    let u := ((w.changeOne pr.system.point pr.system.sys.other t).changeOne pr.system.point pr.system.sys t).s
    (u.point pr.system.point).machine = firstState pr.system.sys.other ∧ (u.point pr.system.point).staged = some q ∧
      u.channel = some { pr with
        phase := .abortWait, window := ⟨s.now, 10 * s.params.response⟩, readFree := true } := by
  subst hw
  have haround := w.s.withChange_around pr.system.point pr.system.sys.other t
  have hsame := w.s.withChange_sameButLines pr.system.point pr.system.sys.other t
  have hlines : (((w.s.withChange pr.system.point pr.system.sys.other t).point pr.system.point).line
      pr.system.sys).accepted = true := by
    rw [withChange_line_ne (by cases pr.system.sys <;> simp [Sys.other])]; exact hx
  rw [Ev.changeOne_partner hc hl hu (by rw [hphase]; exact Phase.noConfusion) hy t w rfl]
  have hpoint := Ev.abortProof_point pr t (w.takeLine pr.system.point pr.system.sys.other t)
  obtain ⟨hchannel, hlit⟩ := Ev.abortProof_rest pr t (w.takeLine pr.system.point pr.system.sys.other t)
  rw [Ev.takeLine_s, haround.now, haround.params, hlines] at hchannel
  rw [Ev.takeLine_s] at hpoint hlit
  generalize (w.takeLine pr.system.point pr.system.sys.other t).abortProof pr t = v at hpoint hchannel hlit ⊢
  have hinUse : inUse v.s pr.system.point = true :=
    (inUse_of_mode (by rw [hpoint]; exact hsame.mode)).trans hu
  have hfree : ((v.s.point pr.system.point).line pr.system.sys).accepted = true := by
    rw [hpoint]; cases hsys : pr.system.sys <;> rw [hsys] at hlines <;> exact hlines
  have htested := Ev.changeOne_tested hchannel ((hlit _).trans ((haround.lit _).trans hl)) hinUse t v rfl
  have hafter := v.s.withChange_sameButLines pr.system.point pr.system.sys t
  intro u
  have hu : u = { v.s.withChange pr.system.point pr.system.sys t with channel := some { pr with
      phase := .abortWait, window := ⟨w.s.now, 10 * w.s.params.response⟩, readFree := true } } := by
    refine (congrArg Ev.s htested).trans ?_
    rw [Ev.testedChange_abortWait rfl, Ev.takeLine_s, withChange_accepted_self, hfree]
    rfl
  rw [hu]
  refine ⟨hafter.machine.trans ?_, hafter.samePairs.2.2.2.trans ?_, rfl⟩
  · rw [hpoint]
  · rw [hpoint]; exact hsame.samePairs.2.2.2.trans hs
end

theorem firstState_ne_idle (x : Sys) : firstState x ≠ .idle := by cases x <;> exact DirectionMachine.noConfusion

/-- Settles O24. -/
theorem aProofTakesTheChangesOfItsPoint : Obligations.AProofTakesTheChangesOfItsPoint := by
  unfold Obligations.AProofTakesTheChangesOfItsPoint
  refine ⟨fun pr t s hc hl hu => ?_, fun pr t s hc hphase hl hu hfree => ?_,
    fun pr t q s hc hphase => ?_⟩
  · intro p x s'
    have hwork : Ev.changeOne p x t ⟨s, [], []⟩ = (Ev.takeLine p x t ⟨s, [], []⟩).testedChange pr :=
      Ev.changeOne_tested hc hl hu t _ rfl
    have hs' : (Ev.takeLine p x t ⟨s, [], []⟩).s = s' := Ev.takeLine_s p x t _
    have haccepted : ((s'.point p).line x).accepted = !((s.point p).line x).accepted := withChange_accepted_self p x t s
    have haround : Around p s s' := s.withChange_around p x t
    refine ⟨fun hp ha => ?_, fun hp ha => ?_, fun hp => ⟨fun ha => ?_, fun ha => ?_⟩⟩
    · refine execAcceptedChange_one_leaves ?_
      rw [hwork, Ev.testedChange_assert hp (by rw [hs', haccepted, ha]; rfl), hs', haround.now, haround.params]
      rfl
    · intro passed
      have hpass : Ev.changeOne p x t ⟨s, [], []⟩ = (Ev.takeLine p x t ⟨s, [], []⟩).passProof pr := by
        rw [hwork, Ev.testedChange_release hp (by rw [hs', haccepted, ha]; rfl)]
      have hpairs : (s.point p).SamePairs (s'.point p) := (s.withChange_sameButLines p x t).samePairs
      have hpassed : s'.passed pr = passed := by
        unfold State.passed
        rw [haround.now, haround.params]
        rfl
      refine ⟨runEvent (fun w => (w.changeOne p x t).settle) s, execAcceptedChange_one p x t s, ?_, ?_⟩
      · refine settled_traces (f := Ev.changeOne p x t) (by simp [TraceRecord.point])
          (Ev.changeOne_changes p x t ⟨s, [], []⟩) ?_
        rw [hpass, Ev.passProof_traces, Ev.takeLine_traces, hs', haround.now]
        rfl
      · have hleaves := runEvent_settled (Ev.changeOne p x t) s
        rw [hpass, Ev.passProof_s, hs', hpassed, hpairs.overdueIndication, hpairs.proof] at hleaves
        exact hleaves
    · refine execAcceptedChange_one_leaves ?_
      rw [hwork, Ev.testedChange_abortWait hp, hs', haccepted, ha]
      rfl
    · refine execAcceptedChange_one_leaves ?_
      rw [hwork, Ev.testedChange_abortWait hp, hs', haccepted, ha]
      rfl
  · intro p y s'
    have haround : Around p s s' := s.withChange_around p y t
    refine execAcceptedChange_one_leaves ?_
    rw [Ev.changeOne_partner hc hl hu hphase hfree t _ rfl, Ev.abortProof_s, Ev.takeLine_s, partialRecord_eq,
      show (State.withChange pr.system.point pr.system.sys.other t s).now = s.now from haround.now,
      show (State.withChange pr.system.point pr.system.sys.other t s).params = s.params from haround.params,
      withChange_line_ne (by cases pr.system.sys <;> simp [Sys.other])]
  · intro p x hl hu hm hs hx hy
    refine ⟨_, rfl, ?_⟩
    have hleaves := runEvent_settled (Ev.changeBoth p t) s
    have hboth : Ev.changeBoth p t ⟨s, [], []⟩ =
        if Config.testedFirst s.choices then
          ((Ev.changeOne p x t (Ev.choose ⟨s, [], []⟩)).betweenChanges).changeOne p x.other t
        else (Ev.changeOne p x.other t (Ev.choose ⟨s, [], []⟩)).changeOne p x t := by
      unfold Ev.changeBoth
      rw [hl, hu, proofAt_of_channel hc]
      rfl
    rw [hboth] at hleaves
    have hpoint := hleaves.point p
    have hchannel := hleaves.channel
    rw [State.settled_point_eq] at hpoint
    by_cases hfirst : Config.testedFirst s.choices = true
    · rw [if_pos hfirst] at hpoint
      obtain ⟨hproven, hpass, hparams, hstaged⟩ := Ev.passed_then_partner (s := (Ev.choose ⟨s, [], []⟩).s) hc hphase hl hu hm
        hs hx t _ rfl
      have hsettled := hpoint.trans (State.pairApplied_of_none hstaged)
      rw [← hsettled] at hproven hpass hparams hstaged
      exact .inl ⟨hproven, hpass, hparams, hstaged⟩
    · rw [if_neg hfirst] at hpoint hchannel
      obtain ⟨hmachine, hstaged, hwait⟩ := Ev.aborted_then_tested (s := (Ev.choose ⟨s, [], []⟩).s) hc hphase hl hu hm hs
        hx hy t _ rfl
      have hsettled := hpoint.trans (State.pairApplied_of_active (by rw [hmachine]; exact firstState_ne_idle _))
      rw [State.settled_channel (by rw [hwait]; exact Option.some_ne_none _), hwait] at hchannel
      rw [← hsettled] at hmachine hstaged
      exact .inr ⟨hmachine, hstaged, hchannel⟩

end Sys2Proof.Machine
end

section
/-! The failed proof (O25) and the decision after an abort (O26). -/

namespace Sys2Proof.Machine

/-! ## A failed proof -/

/-- A failed proof reported to the engine, and the system queued again (R61). -/
def Ev.reportFailure (pr : Proof) (result : ProofResult) (failures : Nat) (w : Ev) : Ev :=
  let w := w.proofFailure pr.system.point failures
  let w := if eligible w.s pr.system.point then w.join pr.system else w
  w.trace (.proof pr.system result pr.takeTime pr.responseTime pr.window.expiry failures)

/-- The failure recorded at its system and reported. -/
def Ev.failDelivered (pr : Proof) (result : ProofResult) (w : Ev) : Ev :=
  let w := w.onPoint pr.system.point (Point.onProof pr.system.sys (ProofStatus.failed result))
  w.reportFailure pr result ((w.s.point pr.system.point).proof pr.system.sys).failures

/-- The failure recorded and tallied. -/
def Point.failed (x : Sys) (result : ProofResult) (pt : Point) : Point :=
  { pt.onProof x (ProofStatus.failed result) with proofFailTally := raise pt.proofFailTally }

theorem Ev.proofFailure_faults {p : PointId} {w : Ev} (failures : Nat)
    (h : (w.s.point p).faults w.s.params w.s.params.wProof) :
    (w.proofFailure p failures).s = (w.s.setPoint p
      (({ w.s.point p with proofFailTally := raise (w.s.point p).proofFailTally } : Point).raised
        w.s.params.wProof)).fault p .level := by
  have hs := Ev.addWeight_faults_s tallying_proofFail h
  unfold Ev.proofFailure
  dsimp only
  rw [if_neg]
  · exact hs
  · rw [hs, (State.fault_standing p .level _).1.1]
    simp

theorem Ev.proofFailure_s {p : PointId} {w : Ev} (failures : Nat)
    (h : ¬(w.s.point p).faults w.s.params w.s.params.wProof) (hh : (w.s.point p).health ≠ .fault) :
    (w.proofFailure p failures).s =
      let u := w.s.setPoint p
        (({ w.s.point p with proofFailTally := raise (w.s.point p).proofFailTally } : Point).weighed w.s.params
          w.s.params.wProof)
      if 2 ≤ failures then u.fault p .proofFailures else u := by
  have hs := (Ev.addWeight_s tallying_proofFail h).1
  have hok : ((w.addWeight p w.s.params.wProof (fun pt => { pt with proofFailTally := raise pt.proofFailTally })).s.point
      p).health ≠ .fault := by
    rw [hs, State.setPoint_self]
    exact fun he => hh ((Point.weighed_fault_iff h).mp he)
  unfold Ev.proofFailure
  dsimp only
  by_cases h2 : 2 ≤ failures
  · rw [if_pos (by simp [hok, h2]), if_pos h2, Ev.enterFault_s, hs]
  · rw [if_neg (by simp [h2]), if_neg h2, hs]

theorem Ev.proofFailure_traces {p : PointId} {w : Ev} (h : w.s.channel = none) (failures : Nat) :
    (w.proofFailure p failures).traces = w.traces := by
  have hnone : ∀ v : Ev, v.s.channel = none → proofAt v.s p = none := fun v hv => by unfold proofAt; rw [hv]
  have ht := Ev.addWeight_traces (weight := w.s.params.wProof) tallying_proofFail (.inl (hnone w h))
  unfold Ev.proofFailure
  dsimp only
  split
  · rename_i hf
    have hc : (w.addWeight p w.s.params.wProof (fun pt => { pt with proofFailTally := raise pt.proofFailTally })).s.channel =
        none := by
      have hfaults : ¬(w.s.point p).faults w.s.params w.s.params.wProof := fun hfaults => by
        rw [Ev.addWeight_faults_s tallying_proofFail hfaults, (State.fault_standing p .level _).1.1] at hf
        simp at hf
      rw [(Ev.addWeight_s tallying_proofFail hfaults).1]
      exact h
    rw [Ev.enterFault_traces (hnone _ hc), ht]
  · exact ht

theorem eligible_of_fault {s : State} {p : PointId} (h : (s.point p).health = .fault) : eligible s p = false := by
  unfold eligible; rw [h]; simp

/-- The failure tallied. -/
def Point.proofFailed (pt : Point) : Point := { pt with proofFailTally := raise pt.proofFailTally }

section
variable {pr : Proof} {w : Ev}

theorem Ev.reportFailure_traces (hc : w.s.channel = none) (result : ProofResult) (failures : Nat) :
    (w.reportFailure pr result failures).traces =
      w.traces ++ [.proof pr.system result pr.takeTime pr.responseTime pr.window.expiry failures] := by
  have ht := Ev.proofFailure_traces (p := pr.system.point) hc failures
  unfold Ev.reportFailure
  dsimp only
  generalize w.proofFailure pr.system.point failures = v at ht ⊢
  rw [← ht]
  split <;> rfl

/-- A failure after which the point is not eligible queues nothing. -/
theorem Ev.reportFailure_of_fault {s : State} {c : FaultCause} {failures : Nat}
    (h : (w.proofFailure pr.system.point failures).s = s.fault pr.system.point c) (result : ProofResult) :
    (w.reportFailure pr result failures).s = s.fault pr.system.point c := by
  have hne : eligible (s.fault pr.system.point c) pr.system.point = false := eligible_of_fault (State.fault_standing _ _ _).1.1
  unfold Ev.reportFailure
  dsimp only
  generalize w.proofFailure pr.system.point failures = v at h ⊢
  rw [Ev.trace_s, h, hne]
  exact h

theorem Ev.reportFailure_of_eligible {s : State} {failures : Nat}
    (h : (w.proofFailure pr.system.point failures).s = s) (he : eligible s pr.system.point = true) (hc : s.channel = none)
    (hq : pr.system ∉ s.queue) (result : ProofResult) :
    (w.reportFailure pr result failures).s = { s with queue := s.queue ++ [pr.system] } := by
  unfold Ev.reportFailure
  dsimp only
  generalize w.proofFailure pr.system.point failures = v at h ⊢
  rw [Ev.trace_s, if_pos (by rw [h]; exact he), Ev.join_s, h, joinTail_eq, if_neg]
  exact not_or_intro hq (by rw [underProof_of_channel hc]; exact Bool.false_ne_true)

theorem eligible_of_setPoint {s : State} {p : PointId} {a : Point} (hm : a.mode = (s.point p).mode)
    (hf : a.health = .fault ↔ (s.point p).health = .fault) : eligible (s.setPoint p a) p = eligible s p := by
  have hhealth : (a.health != .fault) = ((s.point p).health != .fault) := by
    rw [Bool.eq_iff_iff]; simpa using not_congr hf
  unfold eligible inUse
  rw [State.setPoint_self, hm, hhealth]
  rfl

/-- What a recorded failure leaves: the weight taken, and FAULT, or the system at the tail of the queue. -/
theorem Ev.reportFailure_s (hc : w.s.channel = none) (he : eligible w.s pr.system.point = true) (hq : pr.system ∉ w.s.queue)
    (result : ProofResult) (failures : Nat) {p : PointId} (hp : pr.system.point = p) {pt : Point} (hpt : w.s.point p = pt)
    {d : DeviceParams} (hd : w.s.params = d) :
    (pt.faults d d.wProof → (w.reportFailure pr result failures).s =
      (w.s.setPoint p (pt.proofFailed.raised d.wProof)).fault p .level) ∧
    (¬pt.faults d d.wProof → 2 ≤ failures → (w.reportFailure pr result failures).s =
      (w.s.setPoint p (pt.proofFailed.weighed d d.wProof)).fault p .proofFailures) ∧
    (¬pt.faults d d.wProof → failures < 2 → (w.reportFailure pr result failures).s =
      { w.s.setPoint p (pt.proofFailed.weighed d d.wProof) with queue := w.s.queue ++ [pr.system] }) := by
  subst hp hpt hd
  have hhealth : (w.s.point pr.system.point).health ≠ .fault := fun h => by
    rw [eligible_of_fault h] at he; cases he
  refine ⟨fun hf => Ev.reportFailure_of_fault (Ev.proofFailure_faults failures hf) result, fun hf h2 => ?_, fun hf h2 => ?_⟩
  · have hs := Ev.proofFailure_s failures hf hhealth
    dsimp only at hs
    rw [if_pos h2] at hs
    exact Ev.reportFailure_of_fault hs result
  · have hs := Ev.proofFailure_s failures hf hhealth
    dsimp only at hs
    rw [if_neg (by omega)] at hs
    refine Ev.reportFailure_of_eligible hs ?_ hc hq result
    exact (eligible_of_setPoint (s := w.s)
      (a := (w.s.point pr.system.point).proofFailed.weighed w.s.params w.s.params.wProof) rfl
      (Point.weighed_fault_iff (a := (w.s.point pr.system.point).proofFailed) hf)).trans he
end

theorem execAssertWindowExpiry_fails {pr : Proof} {s : State} (hc : s.channel = some pr)
    (hr : pr.window.reached s.now = true) (hp : pr.phase = .assert) :
    exec .assertWindowExpiry s = .next (runEvent (fun w => (w.failProof pr .noResponse).settle) s) := by
  show execAssertWindowExpiry s = _
  unfold execAssertWindowExpiry
  rw [hc]
  dsimp only
  rw [hp, hr]
  rfl

theorem execReleaseWindowExpiry_fails {pr : Proof} {s : State} (hc : s.channel = some pr)
    (hr : pr.window.reached s.now = true) (hp : pr.phase = .release) :
    exec .releaseWindowExpiry s = .next (runEvent (fun w => (w.failProof pr .noRelease).settle) s) := by
  show execReleaseWindowExpiry s = _
  unfold execReleaseWindowExpiry
  rw [hc]
  dsimp only
  rw [hp, hr]
  rfl

theorem Point.onProof_congr {x : Sys} {f g : ProofStatus → ProofStatus} {pt : Point} (h : f (pt.proof x) = g (pt.proof x)) :
    pt.onProof x f = pt.onProof x g := by
  cases x
  · exact congrArg (fun st => ({ pt with proofA := st } : Point)) h
  · exact congrArg (fun st => ({ pt with proofB := st } : Point)) h

theorem Point.onProof_proofFailTally (x : Sys) (f : ProofStatus → ProofStatus) (pt : Point) :
    (pt.onProof x f).proofFailTally = pt.proofFailTally := by cases x <;> rfl

section
variable {a b : Point} (h : a.MovedTo b)
include h
theorem Point.MovedTo.proofFailTally : b.proofFailTally = a.proofFailTally := by unfold Point.MovedTo at h; rw [h]
theorem Point.MovedTo.health : b.health = a.health := by unfold Point.MovedTo at h; rw [h]
theorem Point.MovedTo.level : b.level = a.level := by unfold Point.MovedTo at h; rw [h]
theorem Point.MovedTo.standing : a.SameStanding b := by unfold Point.MovedTo at h; rw [h]; exact ⟨rfl, rfl, rfl, rfl⟩
end

/-- Settles O25. -/
theorem aProofThatIsNotAnsweredFails : Obligations.AProofThatIsNotAnsweredFails := by
  unfold Obligations.AProofThatIsNotAnsweredFails
  intro pr s hc hr hm he hother hq p x before failures finish freed placed v failed weighed ends
  let w : Ev := Ev.deliverEnd pr.system finish ⟨freed, [], []⟩
  have hw : w.s = v ∧ w.traces = [] := by
    by_cases ha : ((s.point p).line x).accepted = true
    · have h := Ev.deliverEnd_onset (x := pr.system) (w := ⟨freed, [], []⟩) ha hother hm rfl finish
      refine ⟨?_, (congrArg Ev.traces h).trans (Ev.openPassage_traces _ _ _ _)⟩
      rw [show w = _ from h, Ev.openPassage_s, show v = placed from if_pos ha]
      rfl
    · have h := Ev.deliverEnd_of_free (x := pr.system) (w := ⟨freed, [], []⟩) (Bool.not_eq_true _ ▸ ha) finish
      exact ⟨(congrArg Ev.s h).trans (show freed = v from (if_neg ha).symm), congrArg Ev.traces h⟩
  obtain ⟨hw, hwt⟩ := hw
  have hmoved : (s.point p).MovedTo (v.point p) := by
    rw [← hw]; exact Ev.deliverEnd_movedTo pr.system finish ⟨freed, [], []⟩
  have haround : Around p freed v := by
    rw [← hw]; exact Ev.deliverEnd_around pr.system finish ⟨freed, [], []⟩
  have hends : ∀ (c : Instr) (result : ProofResult),
      exec c s = .next (runEvent (fun w => (w.failProof pr result).settle) s) → ends c result := by
    intro c result hexec
    let recorded : Point := (v.point p).onProof x (ProofStatus.failed result)
    let w' : Ev := w.onPoint p (Point.onProof x (ProofStatus.failed result))
    have hw' : w'.s = v.setPoint p recorded := (Ev.onPoint_setPoint p _ w).trans (by rw [hw])
    have hpoint : w'.s.point p = recorded := by rw [hw', State.setPoint_self]
    have hfields := Point.onProof_fields x (ProofStatus.failed result) (v.point p)
    have hfailures : (recorded.proof x).failures = failures := by
      rw [Point.onProof_proof, if_pos rfl, hmoved.proof]; rfl
    have hwork : Ev.failProof pr result ⟨s, [], []⟩ = w'.reportFailure pr result failures := by
      rw [← hfailures, ← hpoint]; rfl
    have hrecorded : recorded.proofFailed = failed result := by
      have hstatus : recorded = (v.point p).onProof x (fun st => { st with failures := failures, lastResult := some result }) :=
        Point.onProof_congr (by rw [hmoved.proof]; rfl)
      have htally : recorded.proofFailTally = (s.point p).proofFailTally := by
        rw [Point.onProof_proofFailTally, hmoved.proofFailTally]
      unfold Point.proofFailed
      rw [htally, hstatus]
    have hfaults : recorded.faults s.params s.params.wProof ↔ (s.point p).faults s.params s.params.wProof :=
      Point.faults_congr (hfields.2.1.trans hmoved.health) (hfields.2.2.1.trans hmoved.level) _ _
    have hchannel : w'.s.channel = none := by rw [hw']; exact haround.channel
    have heligible : eligible w'.s p = true := by
      rw [hw', eligible_of_setPoint hfields.1 (by rw [hfields.2.1]), haround.eligible hmoved.standing]
      exact he
    have hqueue : w'.s.queue = s.queue := by rw [hw']; exact haround.queue
    have hparams : w'.s.params = s.params := by rw [hw']; exact haround.params
    obtain ⟨hlevel, hsecond, hfirst⟩ := Ev.reportFailure_s hchannel heligible (by rw [hqueue]; exact hq) result failures
      (p := p) rfl hpoint hparams
    rw [hfaults, hrecorded, hw', State.setPoint_setPoint] at hlevel hsecond
    rw [hfaults, hrecorded, hqueue, hw', State.setPoint_setPoint] at hfirst
    have hleaves : ∀ {u : State}, (w'.reportFailure pr result failures).s = u →
        Leaves u.settled (runEvent (fun w => (w.failProof pr result).settle) s) := fun h => by
      rw [← h, ← hwork]; exact runEvent_settled (Ev.failProof pr result) s
    refine ⟨_, hexec, ?_, fun hf => hleaves (hlevel hf), fun hf h1 => hleaves (hsecond hf ?_),
      fun hf h0 => hleaves (hfirst hf ?_)⟩
    · refine settled_traces (f := Ev.failProof pr result) (by simp [TraceRecord.point])
        (Ev.failProof_changes pr result ⟨s, [], []⟩) ?_
      rw [hwork, Ev.reportFailure_traces hchannel]
      rw [show w'.traces = w.traces from Ev.onPoint_traces _ _ _, hwt]
      rfl
    · omega
    · omega
  exact ⟨fun hp => hends _ _ (execAssertWindowExpiry_fails hc hr hp),
    fun hp => hends _ _ (execReleaseWindowExpiry_fails hc hr hp)⟩

/-! ## The decision after an abort -/

/-- The decision works on the machine of its point alone. -/
theorem Ev.abortPlace_moves (pr : Proof) (w : Ev) : Around pr.system.point w.s (w.abortPlace pr).s ∧
    (w.s.point pr.system.point).MovedTo ((w.abortPlace pr).s.point pr.system.point) := by
  have hown : ∀ v : Ev, Around pr.system.point v.s (v.deliverOwn pr.system).s ∧
      (v.s.point pr.system.point).MovedTo ((v.deliverOwn pr.system).s.point pr.system.point) := fun v =>
    ⟨Ev.deliverEnd_around _ _ _, Ev.deliverEnd_movedTo _ _ _⟩
  have hpoint : ∀ (f : Point → Point) (v : Ev), (∀ pt, Point.MovedTo pt (f pt)) →
      Around pr.system.point v.s (v.onPoint pr.system.point f).s ∧
        (v.s.point pr.system.point).MovedTo ((v.onPoint pr.system.point f).s.point pr.system.point) := fun f v hf =>
    ⟨Ev.onPoint_around _ _ _, by rw [Ev.onPoint_point]; exact hf _⟩
  unfold Ev.abortPlace
  dsimp only
  split
  · have hpart := hpoint (fun pt => { pt with passage := pt.passage.map (Passage.partlyFor pr.system.sys) }) w fun _ => rfl
    generalize w.onPoint pr.system.point (fun pt =>
      { pt with passage := pt.passage.map (Passage.partlyFor pr.system.sys) }) = v at hpart ⊢
    split
    · exact ⟨hpart.1.trans (hown v).1, hpart.2.trans (hown v).2⟩
    · have h := hpoint (fun pt => { pt with machine := overlapState pr.system.sys }) v fun _ => rfl
      exact ⟨hpart.1.trans h.1, hpart.2.trans h.2⟩
  · split
    · split
      · exact hown w
      · exact ⟨Ev.openPassage_around _ _ _ _, by rw [Ev.openPassage_point]; rfl⟩
    · exact ⟨Around.refl _ _, Point.MovedTo.refl _⟩

/-- The abort recorded and the system queued again, the machine being placed (R64). -/
def Ev.abortRecorded (pr : Proof) (w : Ev) : Ev :=
  let w := w.onPoint pr.system.point (Point.withResult pr.system.sys .aborted)
  let w := if eligible w.s pr.system.point then w.onProofs none (joinHead pr.system w.s) else w
  w.traceProof pr .aborted pr.window.expiry

theorem Ev.decideAbort_eq (pr : Proof) (w : Ev) :
    w.decideAbort pr = ((w.onProofs none w.s.queue).abortPlace pr).abortRecorded pr := rfl

theorem Ev.abortRecorded_s {pr : Proof} {w : Ev} (he : eligible w.s pr.system.point = true) (hc : w.s.channel = none) :
    (w.abortRecorded pr).s =
        { w.s.setPoint pr.system.point ((w.s.point pr.system.point).withResult pr.system.sys .aborted) with
          queue := pr.system :: w.s.queue.filter (fun y => y != pr.system) } ∧
      (w.abortRecorded pr).traces = w.traces ++ [.proof pr.system .aborted pr.takeTime pr.responseTime pr.window.expiry
        ((w.s.point pr.system.point).proof pr.system.sys).failures] := by
  let v := w.onPoint pr.system.point (Point.withResult pr.system.sys .aborted)
  have hv : v.s = w.s.setPoint pr.system.point ((w.s.point pr.system.point).withResult pr.system.sys .aborted) :=
    Ev.onPoint_setPoint _ _ _
  obtain ⟨hmode, hhealth, -, -⟩ : ((w.s.point pr.system.point).withResult pr.system.sys .aborted).mode = _ ∧
      ((w.s.point pr.system.point).withResult pr.system.sys .aborted).health = _ ∧ _ := Point.onProof_fields _ _ _
  have hev : eligible v.s pr.system.point = true := by
    rw [hv, eligible_of_setPoint hmode (by rw [hhealth])]
    exact he
  have hshape : w.abortRecorded pr = (v.onProofs none (joinHead pr.system v.s)).traceProof pr .aborted pr.window.expiry := by
    show Ev.traceProof _ _ _ (if eligible v.s pr.system.point then _ else _) = _
    rw [if_pos hev]
  rw [hshape]
  constructor
  · have hvc : v.s.channel = none := by rw [hv]; exact hc
    show ({ v.s with channel := none, queue := joinHead pr.system v.s } : State) = _
    rw [← hvc, hv]
    rfl
  · show v.traces ++ [.proof _ _ _ _ _ ((v.s.point pr.system.point).proof pr.system.sys).failures] = _
    rw [Ev.onPoint_traces, hv, State.setPoint_self, Point.withResult_proof, if_pos rfl]

theorem execAbortWaitExpiry_decides {pr : Proof} {s : State} (hc : s.channel = some pr)
    (hr : pr.window.reached s.now = true) (hp : pr.phase = .abortWait) :
    exec .abortWaitExpiry s = .next (runEvent (fun w => (w.decideAbort pr).settle) s) := by
  show execAbortWaitExpiry s = _
  unfold execAbortWaitExpiry
  rw [hc]
  dsimp only
  rw [hp, hr]
  rfl

theorem Passage.partlyFor_eq (x : Sys) (r : Passage) : r.partlyFor x =
    { r with aOn := if x = .a then none else r.aOn, bOn := if x = .b then none else r.bOn, partly := true } := by
  cases x <;> rfl

theorem recordChange_partlyFor (x : Sys) (t : Time) (r : Passage) :
    (r.partlyFor x).recordChange x.lines true true t = { r.partlyFor x with
      aOn := if x = .a then some t else r.aOn, bOn := if x = .b then some t else r.bOn
      aOff := if x = .a then none else r.aOff, bOff := if x = .b then none else r.bOff } := by
  cases x <;> rfl

theorem transition_firstState_both (x : Sys) : transition (firstState x) true true = some (overlapState x, .plain) := by
  cases x <;> rfl

section
variable {pr : Proof} {w : Ev}

theorem Ev.abortPlace_of_arriving (h : (w.s.point pr.system.point).machine = firstState pr.system.sys.other) :
    w.abortPlace pr =
      let v := w.onPoint pr.system.point (fun pt => { pt with passage := pt.passage.map (Passage.partlyFor pr.system.sys) })
      if pr.readFree then v.deliverOwn pr.system
      else v.onPoint pr.system.point (fun pt => { pt with machine := overlapState pr.system.sys }) := by
  unfold Ev.abortPlace
  dsimp only
  rw [if_pos (beq_iff_eq.mpr h)]

theorem Ev.abortPlace_of_idle (h : (w.s.point pr.system.point).machine = .idle) :
    w.abortPlace pr = if pr.readFree then w.deliverOwn pr.system
      else w.openPassage pr.system.point (firstState pr.system.sys)
        { Passage.opened pr.window.expiry with partly := true } := by
  unfold Ev.abortPlace
  dsimp only
  rw [if_neg (by rw [h, beq_iff_eq]; exact (firstState_ne_idle _).symm), if_pos (beq_iff_eq.mpr h)]

theorem Ev.abortPlace_of_other (h : (w.s.point pr.system.point).machine ≠ firstState pr.system.sys.other)
    (hi : (w.s.point pr.system.point).machine ≠ .idle) : w.abortPlace pr = w := by
  unfold Ev.abortPlace
  dsimp only
  rw [if_neg (by rwa [beq_iff_eq]), if_neg (by rwa [beq_iff_eq])]
end

/-- A tested system occupied again in the arriving direction's first state moves the machine to the overlap. -/
theorem Ev.deliverEnd_overlap {x : SystemId} {w : Ev} (h : ((w.s.point x.point).line x.sys).accepted = true)
    (ho : ((w.s.point x.point).line x.sys.other).accepted = true)
    (hm : (w.s.point x.point).machine = firstState x.sys.other) (hc : w.s.channel = none) (t : Time) :
    w.deliverEnd x t = w.onPoint x.point (fun pt => { pt with
      machine := overlapState x.sys.other, passage := pt.passage.map (Passage.recordChange x.sys.lines true true t) }) := by
  have hreads : ∀ y, reads w.s x.point y = true := fun y => by
    rw [reads_of_free (underProof_of_channel hc x.point y)]
    revert h ho
    cases x.sys <;> cases y <;> intro h ho <;> assumption
  unfold Ev.deliverEnd
  rw [if_pos h, hreads, hreads,
    Ev.deliverChange_of_transition (by rw [hm]; exact transition_firstState_both x.sys.other)]
  rfl

theorem partialOnset_eq (x : Sys) (t : Time) : ({ Passage.opened t with partly := true } : Passage) =
    { onset := t, aOn := if x = .a then none else none, bOn := if x = .b then none else none
      aOff := none, bOff := none, reversal := false, partly := true } := by cases x <;> rfl

/-- Settles O26. -/
theorem theAbortWaitEndsInItsDecision : Obligations.TheAbortWaitEndsInItsDecision := by
  unfold Obligations.TheAbortWaitEndsInItsDecision
  intro pr s hc hphase hr he p x pt occupied own finish freed partly onset ends
  let w : Ev := ⟨freed, [], []⟩
  obtain ⟨haround, hmoved⟩ := Ev.abortPlace_moves pr w
  have hends : ∀ v : State, (w.abortPlace pr).s = v → (w.abortPlace pr).traces = [] → ends v := fun v hv ht => by
    have heligible : eligible (w.abortPlace pr).s p = true := (haround.eligible hmoved.standing).trans he
    obtain ⟨hs, htraces⟩ := Ev.abortRecorded_s heligible haround.channel
    have hwork : Ev.decideAbort pr ⟨s, [], []⟩ = (w.abortPlace pr).abortRecorded pr := Ev.decideAbort_eq pr _
    rw [← hwork] at hs htraces
    refine ⟨_, execAbortWaitExpiry_decides hc hr hphase, ?_, ?_⟩
    · refine settled_traces (f := Ev.decideAbort pr) (by simp [TraceRecord.point])
        (Ev.decideAbort_changes pr ⟨s, [], []⟩) ?_
      rw [htraces, ht, hmoved.proof]
      rfl
    · have hleaves := runEvent_settled (Ev.decideAbort pr) s
      rw [hs, haround.queue, hv] at hleaves
      exact hleaves
  refine ⟨fun hm => ?_, fun hm => ?_, fun hm hi => ?_⟩
  · have hplace := Ev.abortPlace_of_arriving (pr := pr) (w := w) hm
    let v := w.onPoint p (fun pt => { pt with passage := pt.passage.map (Passage.partlyFor x) })
    have hv : v.s = freed.setPoint p { pt with passage := pt.passage.map partly } := by
      refine (Ev.onPoint_setPoint _ _ _).trans ?_
      rw [show Passage.partlyFor x = partly from funext (Passage.partlyFor_eq x)]
      rfl
    have hvt : v.traces = [] := Ev.onPoint_traces _ _ _
    have hvpoint : v.s.point p = { pt with passage := pt.passage.map partly } := by rw [hv, State.setPoint_self]
    have hvline : ∀ y, (v.s.point p).line y = pt.line y := fun y => by rw [hvpoint]; cases y <;> rfl
    have hown : pr.readFree = true → w.abortPlace pr = v.deliverEnd pr.system own := fun hf => by
      have hchange : ((v.s.point p).line x).changeTime = own := by rw [hvline]
      rw [hplace, hf]
      exact congrArg (fun t => v.deliverEnd pr.system t) hchange
    refine ⟨fun hf => ?_, fun hf ho => ?_, fun hf ho hother => ?_⟩
    · have hwork : w.abortPlace pr = v.onPoint p (fun pt => { pt with machine := overlapState x }) := by
        rw [hplace, hf]; rfl
      refine hends _ ?_ (by rw [hwork, Ev.onPoint_traces, hvt])
      rw [hwork, Ev.onPoint_setPoint, hvpoint, hv, State.setPoint_setPoint]
    · have hfree : ((v.s.point p).line x).accepted = false := by rw [hvline]; exact Bool.not_eq_true _ ▸ ho
      have hwork : w.abortPlace pr = v := (hown hf).trans (Ev.deliverEnd_of_free hfree own)
      exact hends _ (by rw [hwork, hv]) (by rw [hwork, hvt])
    · have hself : ((v.s.point p).line x).accepted = true := by rw [hvline]; exact ho
      have hpartner : ((v.s.point p).line x.other).accepted = true := by rw [hvline]; exact hother
      have hwork := (hown hf).trans (Ev.deliverEnd_overlap hself hpartner (by rw [hvpoint]; exact hm) (by rw [hv]; rfl) own)
      refine hends _ ?_ (by rw [hwork, Ev.onPoint_traces, hvt])
      rw [hwork, Ev.onPoint_setPoint, hvpoint, hv, State.setPoint_setPoint]
      refine congrArg (fun q => freed.setPoint p { pt with machine := overlapState x.other, passage := q }) ?_
      rw [Option.map_map]
      refine congrArg (fun f => pt.passage.map f) (funext fun r => ?_)
      show (partly r).recordChange x.lines true true own = _
      rw [show partly r = r.partlyFor x from (Passage.partlyFor_eq x r).symm, recordChange_partlyFor]
  · have hplace := Ev.abortPlace_of_idle (pr := pr) (w := w) hm
    have hown : pr.readFree = true → w.abortPlace pr = w.deliverEnd pr.system own := fun hf => by rw [hplace, hf]; rfl
    refine ⟨fun hf => ?_, fun hf ho => ?_, fun hf ho hother => ?_⟩
    · have hwork : w.abortPlace pr = w.openPassage p (firstState x) { Passage.opened finish with partly := true } := by
        rw [hplace, hf]; rfl
      refine hends _ ?_ (by rw [hwork, Ev.openPassage_traces])
      rw [hwork, Ev.openPassage_s, partialOnset_eq x finish]
      rfl
    · have hwork : w.abortPlace pr = w := (hown hf).trans (Ev.deliverEnd_of_free (Bool.not_eq_true _ ▸ ho) own)
      exact hends _ (congrArg Ev.s hwork) (congrArg Ev.traces hwork)
    · have hwork := (hown hf).trans (Ev.deliverEnd_onset ho hother hm rfl own)
      exact hends _ (by rw [hwork, Ev.openPassage_s]; rfl) (by rw [hwork, Ev.openPassage_traces])
  · have hplace := Ev.abortPlace_of_other (pr := pr) (w := w) hm hi
    exact hends _ (congrArg Ev.s hplace) (congrArg Ev.traces hplace)

end Sys2Proof.Machine
end

section
/-! The timers of sections (O30) and the detector supplies (O32 to O37). -/

namespace Sys2Proof.Machine

/-! ## One change of a section or of a group -/

theorem Ev.onSection_setSection (n : SectionId) (f : SectionRecord → SectionRecord) (w : Ev) :
    (w.onSection n f).s = w.s.setSection n ((w.s.sec n).stamped w.s.now (f (w.s.sec n)))
      ((w.s.outputs.clr.get n).follow (w.s.sec n).state (f (w.s.sec n)).state) := Ev.onSection_s n f w

theorem Ev.onGroup_setGroup (g : GroupId) (f : Group → Group) (w : Ev) :
    (w.onGroup g f).s = w.s.setGroup g ((w.s.group g).stamped w.s.now (f (w.s.group g))) := Ev.onGroup_s g f w

theorem Ev.onSection_posts (n : SectionId) (f : SectionRecord → SectionRecord) (w : Ev) : (w.onSection n f).posts =
    if (f (w.s.sec n)).content ≠ (w.s.sec n).content then w.posts ++ [.sec n] else w.posts := by
  unfold Ev.onSection Ev.postIf
  by_cases h : (f (w.s.sec n)).content = (w.s.sec n).content
  · rw [if_neg (by simp [h]), if_neg (not_not_intro h)]
  · rw [if_pos (by simpa using h), if_pos h]

/-- A section whose state and count stay keeps its time of last change, and its output. -/
theorem Ev.onSection_kept {n : SectionId} {f : SectionRecord → SectionRecord} {w : Ev}
    (hs : (f (w.s.sec n)).state = (w.s.sec n).state) (hc : (f (w.s.sec n)).count = (w.s.sec n).count) :
    (w.onSection n f).s = w.s.setSection n (f (w.s.sec n)) (w.s.outputs.clr.get n) := by
  rw [Ev.onSection_setSection, hs]
  unfold SectionRecord.stamped Drive.follow
  rw [if_neg (by simp [hs, hc])]
  cases (w.s.sec n).state <;> rfl

theorem SectionRecord.stamped_of_state {now : Time} {a b : SectionRecord} (h : b.state ≠ a.state) :
    a.stamped now b = { b with lastChange := now } := if_pos (by simp [h])

theorem Group.stamped_of_state {now : Time} {a b : Group} (h : b.state ≠ a.state) :
    a.stamped now b = { b with lastChange := now } := if_pos (by simp [h])

theorem Group.stamped_of_same {now : Time} {a b : Group} (hs : b.state = a.state) (hf : b.forced = a.forced) :
    a.stamped now b = b := if_neg (by simp [hs, hf])

/-! ## The timers of a section -/

theorem execClearDelayExpiry_checks {n : SectionId} {s : State} (hs : (s.sec n).state = .clearing)
    (ht : timerReached s.now (s.sec n).clearTimer = true) : exec (.clearDelayExpiry n) s =
      .next (runEvent (fun w => w.onSection n (SectionRecord.expiryCheck (anyOverdue w.s n))) s) := by
  show execClearDelayExpiry n s = _
  unfold execClearDelayExpiry
  rw [hs, ht]
  rfl

section
variable {n : SectionId} {f : Ev → Ev} {g : SectionRecord → SectionRecord} {s : State}
  (hf : f ⟨s, [], []⟩ = Ev.onSection n g ⟨s, [], []⟩)
include hf

theorem runEvent_posts_section : Reports (if (g (s.sec n)).content ≠ (s.sec n).content then [.sec n] else []) s
    (runEvent f s) := by
  refine runEvent_reports ?_ ?_
  · rw [hf, Ev.onSection_posts]; rfl
  · intro i; rw [hf, Ev.onSection_s]; cases i <;> rfl

/-- A change of reportable content is the one report. -/
theorem runEvent_reports_section (h : (g (s.sec n)).content ≠ (s.sec n).content) : Reports [.sec n] s (runEvent f s) := by
  have hposts := runEvent_posts_section hf
  rw [if_pos h] at hposts
  exact hposts

theorem runEvent_reports_nothing (h : (g (s.sec n)).content = (s.sec n).content) : Reports [] s (runEvent f s) := by
  have hposts := runEvent_posts_section hf
  rw [if_neg (not_not_intro h)] at hposts
  exact hposts
end

/-- Settles O30. -/
theorem theClearDelayEndsInClearOrHold : Obligations.TheClearDelayEndsInClearOrHold := by
  unfold Obligations.TheClearDelayEndsInClearOrHold
  refine fun n s => ⟨fun hs ht => ⟨fun ho => ?_, fun ho => ?_⟩, fun ht => ?_⟩
  · let f : Ev → Ev := fun w => w.onSection n (SectionRecord.expiryCheck (anyOverdue w.s n))
    have hchecked : (s.sec n).expiryCheck (anyOverdue s n) =
        { s.sec n with state := .clear, clearTimer := none, hold := false } := by rw [ho]; rfl
    have hreports : Reports [.sec n] s (runEvent f s) := by
      refine runEvent_reports_section (g := SectionRecord.expiryCheck (anyOverdue s n)) rfl fun h => ?_
      rw [hchecked] at h
      have hstate : SectionState.clear = (s.sec n).state := congrArg SectionContent.state h
      rw [hs] at hstate
      cases hstate
    refine ⟨_, execClearDelayExpiry_checks hs ht, hreports, ?_⟩
    have hleaves := runEvent_leaves f s
    have hwork : (f ⟨s, [], []⟩).s = _ := Ev.onSection_setSection n (SectionRecord.expiryCheck (anyOverdue s n)) ⟨s, [], []⟩
    rw [hwork, hchecked, SectionRecord.stamped_of_state (by rw [hs]; exact SectionState.noConfusion), hs] at hleaves
    exact hleaves
  · let f : Ev → Ev := fun w => w.onSection n (SectionRecord.expiryCheck (anyOverdue w.s n))
    have hchecked : (s.sec n).expiryCheck (anyOverdue s n) = { s.sec n with clearTimer := none, hold := true } := by
      rw [ho]
      unfold SectionRecord.expiryCheck
      rw [if_pos rfl, ← hs]
    refine ⟨_, execClearDelayExpiry_checks hs ht, fun hh => ?_, ?_⟩
    · refine runEvent_reports_section (g := SectionRecord.expiryCheck (anyOverdue s n)) rfl fun h => ?_
      rw [hchecked] at h
      have hold : true = (s.sec n).hold := congrArg SectionContent.hold h
      rw [hh] at hold
      cases hold
    · have hleaves := runEvent_leaves f s
      have hwork : (f ⟨s, [], []⟩).s = _ := Ev.onSection_kept (n := n) (f := SectionRecord.expiryCheck (anyOverdue s n))
        (w := ⟨s, [], []⟩) (by rw [hchecked]) (by rw [hchecked])
      rw [hwork, hchecked] at hleaves
      exact hleaves
  · let f : Ev → Ev := fun w => w.onSection n (fun r => { r with holdoffTimer := none })
    have hexec : exec (.holdoffTimerExpiry n) s = .next (runEvent f s) := by
      show execHoldoffTimerExpiry n s = _
      unfold execHoldoffTimerExpiry
      rw [ht]
      rfl
    refine ⟨_, hexec, runEvent_reports_nothing (g := fun r => { r with holdoffTimer := none }) rfl rfl, ?_⟩
    have hleaves := runEvent_leaves f s
    rw [show (f ⟨s, [], []⟩).s = _ from Ev.onSection_kept rfl rfl] at hleaves
    exact hleaves

/-! ## Groups -/

theorem State.setGroup_self (g : GroupId) (r : Group) (s : State) : (s.setGroup g r).group g = r :=
  Table.get_set_self ..

theorem State.setGroup_setGroup (g : GroupId) (a b : Group) (s : State) : (s.setGroup g a).setGroup g b = s.setGroup g b := by
  simp [State.setGroup]

theorem foldl_states {α : Type} {f : Ev → α → Ev} {g : State → α → State} (h : ∀ w a, (f w a).s = g w.s a) (l : List α)
    (w : Ev) : (l.foldl f w).s = l.foldl g w.s := by
  induction l generalizing w with
  | nil => rfl
  | cons a l ih => rw [List.foldl_cons, ih, h, List.foldl_cons]

theorem Ev.darkenAll_s (c : Cause) (g : GroupId) (w : Ev) :
    ((pointsOf g).foldl (fun w p => w.darkenPoint c p) w).s = w.s.darkenGroup c g :=
  foldl_states (g := State.darken c) (fun w p => Ev.darkenPoint_s c p w) _ w

theorem Ev.lightAll_s (g : GroupId) (w : Ev) : ((pointsOf g).foldl (fun w p => w.lightPoint p) w).s = w.s.lightGroup g :=
  foldl_states (g := State.light) (fun w p => Ev.lightPoint_s p w) _ w

/-- A change of a group's state, stamped. -/
theorem Ev.onGroup_moves {g : GroupId} {f : Group → Group} {w : Ev} (h : (f (w.s.group g)).state ≠ (w.s.group g).state) :
    (w.onGroup g f).s = w.s.setGroup g { f (w.s.group g) with lastChange := w.s.now } := by
  rw [Ev.onGroup_setGroup, Group.stamped_of_state h]

theorem Ev.leaveGroup_s (g : GroupId) (c : Cause) (f : Group → Group) (w : Ev) : (w.leaveGroup g c f).s =
    if (w.s.group g).state = .ready then (w.onGroup g f).s.darkenGroup c g else (w.onGroup g f).s := by
  unfold Ev.leaveGroup
  dsimp only
  by_cases h : (w.s.group g).state = .ready
  · rw [if_pos (beq_iff_eq.mpr h), if_pos h, Ev.darkenAll_s]
  · rw [if_neg (by rwa [beq_iff_eq]), if_neg h]

/-- A change of a group that keeps its state and its forced level keeps its time of last change. -/
theorem Ev.onGroup_kept {g : GroupId} {f : Group → Group} {w : Ev} (hs : (f (w.s.group g)).state = (w.s.group g).state)
    (hf : (f (w.s.group g)).forced = (w.s.group g).forced) : (w.onGroup g f).s = w.s.setGroup g (f (w.s.group g)) := by
  rw [Ev.onGroup_setGroup, Group.stamped_of_same hs hf]

/-! ## SUPPLY_GOOD_CHANGE -/

/-- What the new level does to the group. -/
def Ev.goodActs (g : GroupId) (good : Bool) (w : Ev) : Ev :=
  match (w.s.group g).state with
  | .enabling => if good then w.enterSettling g else w
  | .settling => if good then w else w.onGroup g (Group.toFailed .settleDrop)
  | .ready => if good then w else w.leaveGroup g .supplyLoss (Group.toFailed .supplyLoss)
  | _ => w

theorem Ev.supplyGoodChange_eq (g : GroupId) (w : Ev) : w.supplyGoodChange g =
    (w.onGroup g (fun r => { r with good := !(w.s.group g).good, pinHigh := !(w.s.group g).good, run := 0 })).goodActs g
      (!(w.s.group g).good) := by
  unfold Ev.supplyGoodChange Ev.goodActs
  dsimp only
  cases ((w.onGroup g (fun r => { r with good := !(w.s.group g).good, pinHigh := !(w.s.group g).good, run := 0 })).s.group
    g).state <;> rfl

theorem Ev.goodActs_good {g : GroupId} {w : Ev} (h : (w.s.group g).state ≠ .enabling) : w.goodActs g true = w := by
  unfold Ev.goodActs
  split
  · rename_i he; exact absurd he h
  · rfl
  · rfl
  · rfl

theorem Ev.goodActs_lost {g : GroupId} {w : Ev} (h : (w.s.group g).state ≠ .settling) (h' : (w.s.group g).state ≠ .ready) :
    w.goodActs g false = w := by
  unfold Ev.goodActs
  split
  · rfl
  · rename_i he; exact absurd he h
  · rename_i he; exact absurd he h'
  · rfl

theorem Ev.goodActs_enabling {g : GroupId} {w : Ev} (h : (w.s.group g).state = .enabling) :
    w.goodActs g true = w.enterSettling g := by unfold Ev.goodActs; rw [h]; rfl

theorem Ev.goodActs_settling {g : GroupId} {w : Ev} (h : (w.s.group g).state = .settling) :
    w.goodActs g false = w.onGroup g (Group.toFailed .settleDrop) := by unfold Ev.goodActs; rw [h]; rfl

theorem Ev.goodActs_ready {g : GroupId} {w : Ev} (h : (w.s.group g).state = .ready) :
    w.goodActs g false = w.leaveGroup g .supplyLoss (Group.toFailed .supplyLoss) := by unfold Ev.goodActs; rw [h]; rfl

/-- Settles O32. -/
theorem aSupplyGoodChangeActsByTheGroupState : Obligations.ASupplyGoodChangeActsByTheGroupState := by
  unfold Obligations.ASupplyGoodChangeActsByTheGroupState
  intro g s good r failed after
  let w : Ev := Ev.onGroup g (fun r => { r with good := good, pinHigh := good, run := 0 }) ⟨s, [], []⟩
  have hw : w.s = s.setGroup g r := Ev.onGroup_kept rfl rfl
  have hwg : w.s.group g = r := by rw [hw, State.setGroup_self]
  have hwnow : w.s.now = s.now := by rw [hw]; rfl
  have hwork : ∀ {u : State}, (w.goodActs g good).s = u → after u := fun h => by
    refine ⟨_, rfl, ?_⟩
    have hleaves := runEvent_settled (Ev.supplyGoodChange g) s
    rw [Ev.supplyGoodChange_eq] at hleaves
    exact h ▸ hleaves
  have hfailed : ∀ reason, r.state ≠ .failed → (w.onGroup g (Group.toFailed reason)).s = s.setGroup g (failed reason) :=
    fun reason hne => by
      rw [Ev.onGroup_moves (by rw [hwg]; exact hne.symm), hwg, hwnow, hw, State.setGroup_setGroup]
      rfl
  refine ⟨fun hs hg => hwork ?_, fun hs hg => hwork ?_, fun hs hg => hwork ?_, fun hs hg => hwork ?_,
    fun hs hs' hg => hwork ?_⟩
  · rw [hg, Ev.goodActs_enabling (by rw [hwg]; exact hs)]
    show (w.onGroup g _).s = _
    rw [Ev.onGroup_moves (by rw [hwg, hs]; exact GroupState.noConfusion), hwg, hwnow, hw, State.setGroup_setGroup]
    rfl
  · rw [hg, Ev.goodActs_settling (by rw [hwg]; exact hs)]
    exact hfailed _ (by rw [hs]; exact GroupState.noConfusion)
  · rw [hg, Ev.goodActs_ready (by rw [hwg]; exact hs), Ev.leaveGroup_s, hwg, if_pos hs,
      hfailed _ (by rw [hs]; exact GroupState.noConfusion)]
  · rw [hg, Ev.goodActs_good (by rw [hwg]; exact hs), hw]
  · rw [hg, Ev.goodActs_lost (by rw [hwg]; exact hs) (by rw [hwg]; exact hs'), hw]

/-! ## The timers of a group -/

section
variable {g : GroupId} {w : Ev}

theorem Ev.enterSettling_s (h : (w.s.group g).state ≠ .settling) : (w.enterSettling g).s = w.s.setGroup g
    { w.s.group g with
      state := .settling, timer := some ⟨w.s.now, 100 * w.s.sequencer.params.settle⟩, failReason := none, forced := none
      lastChange := w.s.now } := Ev.onGroup_moves h.symm

/-- ENABLING of a group whose supply does not read good. -/
theorem Ev.enterEnabling_s_of_lost (h : (w.s.group g).state ≠ .enabling) (hg : (w.s.group g).good = false) :
    (w.enterEnabling g).s = w.s.setGroup g { w.s.group g with
      state := .enabling, timer := some ⟨w.s.now, 10000⟩, failReason := none, forced := none, lastChange := w.s.now } := by
  have hs : (w.onGroup g (Group.toTimed .enabling (startTimer w.s.now supplyTimeout))).s = _ := Ev.onGroup_moves h.symm
  unfold Ev.enterEnabling
  dsimp only
  rw [if_neg, hs]
  · rfl
  · rw [hs, State.setGroup_self]
    exact Bool.eq_false_iff.mp hg

/-- A supply that reads good already takes the group on to SETTLING. -/
theorem Ev.enterEnabling_s_of_good (hg : (w.s.group g).good = true) (h : (w.s.group g).state ≠ .enabling) :
    (w.enterEnabling g).s = w.s.setGroup g { w.s.group g with
      state := .settling, timer := some ⟨w.s.now, 100 * w.s.sequencer.params.settle⟩, failReason := none, forced := none
      lastChange := w.s.now } := by
  have hs : (w.onGroup g (Group.toTimed .enabling (startTimer w.s.now supplyTimeout))).s = _ := Ev.onGroup_moves h.symm
  unfold Ev.enterEnabling
  dsimp only
  generalize w.onGroup g (Group.toTimed .enabling (startTimer w.s.now supplyTimeout)) = v at hs ⊢
  rw [if_pos (by rw [hs, State.setGroup_self]; exact hg),
    Ev.enterSettling_s (by rw [hs, State.setGroup_self]; exact GroupState.noConfusion), hs, State.setGroup_self,
    State.setGroup_setGroup]
  rfl

theorem Ev.enterDisabling_s (h : (w.s.group g).state ≠ .disabling) : (w.enterDisabling g).s = w.s.setGroup g
    { w.s.group g with
      state := .disabling, timer := some ⟨w.s.now, 10000⟩, failReason := none, forced := none, lastChange := w.s.now } :=
  Ev.onGroup_moves h.symm

theorem Ev.enterReady_s (h : (w.s.group g).state ≠ .ready) : (w.enterReady g).s = (w.s.setGroup g
    { w.s.group g with
      state := .ready, timer := none, failReason := none, forced := none, lastChange := w.s.now }).lightGroup g := by
  unfold Ev.enterReady
  rw [Ev.lightAll_s, Ev.onGroup_moves (by exact h.symm)]
  rfl
end

/-! ## A point lit -/

theorem Ev.initialise_s {p : PointId} {w : Ev} (hm : (w.s.point p).machine = .idle)
    (hu : ∀ x, underProof w.s p x = false) : (w.initialise p).s =
      if (w.s.point p).lineA.accepted || (w.s.point p).lineB.accepted then
        (w.s.confuse p .startUp w.s.now none).sendActive p else w.s := by
  unfold Ev.initialise
  rw [reads_of_free (hu .a), reads_of_free (hu .b)]
  show (if ((w.s.point p).lineA.accepted || (w.s.point p).lineB.accepted) = true then _ else _ : Ev).s = _
  split
  · rw [Ev.enterConfused_s, if_pos hm]
  · rfl

theorem Ev.initialise_movedTo (p : PointId) (w : Ev) : (w.s.point p).MovedTo ((w.initialise p).s.point p) := by
  rw [Ev.initialise_point]; split <;> rfl

/-- The start of an epoch at an overdue system that is not queued. -/
theorem Ev.startEpoch_s {p : PointId} {x : Sys} {w : Ev} (ho : ((w.s.point p).proof x).overdue = true)
    (hq : ⟨p, x⟩ ∉ w.s.queue) (hu : underProof w.s p x = false) : (w.startEpoch p x).s =
      { w.s.setPoint p ((w.s.point p).onProof x ProofStatus.epochStart) with queue := w.s.queue ++ [⟨p, x⟩] } := by
  have hs : (w.onProofStatus p (Point.onProof x ProofStatus.epochStart)).s = _ := Ev.onProofStatus_s_of_overdue ho.symm
  have hj : joinTail ⟨p, x⟩ (w.s.setPoint p ((w.s.point p).onProof x ProofStatus.epochStart)) = w.s.queue ++ [⟨p, x⟩] := by
    rw [joinTail_eq]
    exact if_neg (not_or_intro hq (Bool.eq_false_iff.mp hu))
  unfold Ev.startEpoch
  rw [Ev.join_s, hs, hj]

theorem Ev.gainEligibility_s {p : PointId} {w : Ev}
    (h : ∀ x, ((w.s.point p).proof x).overdue = true ∧ ⟨p, x⟩ ∉ w.s.queue ∧ underProof w.s p x = false) :
    (w.gainEligibility p).s = { w.s.setPoint p (((w.s.point p).onProof .a ProofStatus.epochStart).onProof .b
      ProofStatus.epochStart) with queue := w.s.queue ++ [⟨p, .a⟩, ⟨p, .b⟩] } := by
  have ha := Ev.startEpoch_s (h .a).1 (h .a).2.1 (h .a).2.2
  have hpoint : (w.startEpoch p .a).s.point p = (w.s.point p).onProof .a ProofStatus.epochStart := by
    rw [ha]; exact State.setPoint_self _ _ _
  unfold Ev.gainEligibility
  rw [Ev.startEpoch_s (by rw [hpoint]; exact (h .b).1)
    (by rw [ha]; simp [(h .b).2.1]) (by rw [ha]; exact (h .b).2.2), hpoint, ha]
  simp [State.setPoint]

theorem execGroupTimer {g : GroupId} {st : GroupState} {s : State} (hs : (s.group g).state = st)
    (ht : timerReached s.now (s.group g).timer = true) : groupDue s g st = true := by
  unfold groupDue; rw [hs, ht]; simp

/-- Settles O33. -/
theorem groupTimersActByTheirStates : Obligations.GroupTimersActByTheirStates := by
  unfold Obligations.GroupTimersActByTheirStates
  refine ⟨fun g s ht => ?_, fun p s hl hm hq => ?_, by decide⟩
  · intro moved
    refine ⟨fun hs => ?_, fun hs => ?_, fun hs => ?_⟩
    · have hleaves := runEvent_settled (Ev.onGroup g (Group.toFailed .enableTimeout)) s
      rw [Ev.onGroup_moves (w := ⟨s, [], []⟩) (show GroupState.failed ≠ (s.group g).state by
        rw [hs]; exact GroupState.noConfusion)] at hleaves
      refine ⟨_, ?_, hleaves⟩
      show execSupplyGoodTimeout g s = _
      unfold execSupplyGoodTimeout
      rw [execGroupTimer hs ht]
      rfl
    · have hleaves := runEvent_settled (Ev.enterReady g) s
      rw [Ev.enterReady_s (w := ⟨s, [], []⟩) (show (s.group g).state ≠ .ready by rw [hs]; exact GroupState.noConfusion)]
        at hleaves
      refine ⟨_, ?_, hleaves⟩
      show execSettleTimerExpiry g s = _
      unfold execSettleTimerExpiry
      rw [execGroupTimer hs ht]
      rfl
    · have hleaves := runEvent_settled (Ev.offTimeExpiry g) s
      have hne : ∀ st, st ≠ GroupState.disabling → st ≠ (s.group g).state := fun st h => by rw [hs]; exact h
      have hwork : (Ev.offTimeExpiry g ⟨s, [], []⟩).s = if (s.group g).good then moved .failed none (some .notOff)
          else if s.sequencer.activity = .recycle g then moved .enabling (some ⟨s.now, 10000⟩) none
          else moved .off none none := by
        unfold Ev.offTimeExpiry
        dsimp only
        split
        · exact Ev.onGroup_moves (w := ⟨s, [], []⟩) (hne .failed GroupState.noConfusion)
        · rename_i hg
          split
          · exact Ev.enterEnabling_s_of_lost (w := ⟨s, [], []⟩) (hne .enabling GroupState.noConfusion).symm
              (Bool.eq_false_iff.mpr hg)
          · exact Ev.onGroup_moves (w := ⟨s, [], []⟩) (hne .off GroupState.noConfusion)
      rw [hwork] at hleaves
      refine ⟨_, ?_, hleaves⟩
      show execOffTimeExpiry g s = _
      unfold execOffTimeExpiry
      rw [execGroupTimer hs ht]
      rfl
  · intro begun initialised pt
    let w : Ev := Ev.initialise p ⟨s, [], []⟩
    have hw : w.s = initialised := Ev.initialise_s hm fun x => (hq x).2.2
    have hmoved : (s.point p).MovedTo (w.s.point p) := Ev.initialise_movedTo p ⟨s, [], []⟩
    have haround : Around p s w.s := Ev.initialise_around p ⟨s, [], []⟩
    have helig : eligible w.s p = eligible s p := haround.eligible hmoved.standing
    refine ⟨fun hu => ?_, fun hu hf => ?_, fun hu hf => ?_⟩
    · show (Ev.lightPoint p ⟨s, [], []⟩).s = s
      unfold Ev.lightPoint
      have hne : eligible s p = false := by unfold eligible; rw [hu]; rfl
      dsimp only
      rw [hu, if_neg Bool.false_ne_true, hne]
      rfl
    · show (Ev.lightPoint p ⟨s, [], []⟩).s = initialised
      unfold Ev.lightPoint
      dsimp only
      rw [if_pos hu, show eligible w.s p = false from helig.trans (eligible_of_fault hf)]
      exact hw
    · have he : eligible s p = true := by
        unfold eligible; rw [hu, hl, bne_iff_ne.mpr hf]; rfl
      show (Ev.lightPoint p ⟨s, [], []⟩).s = _
      unfold Ev.lightPoint
      dsimp only
      rw [if_pos hu, if_pos (helig.trans he), Ev.gainEligibility_s fun x =>
        ⟨by rw [hmoved.proof]; exact (hq x).1, by rw [haround.queue]; exact (hq x).2.1,
          (haround.underProof p x).trans (hq x).2.2⟩, haround.queue, show (Ev.initialise p ⟨s, [], []⟩).s = _ from hw]
      rfl

/-! ## Turns -/

theorem turnsAfter_on (q : SupplyParams) (g : GroupId) : (turnsAfter true q g).head? =
    if h : g.val < 3 then some (⟨g.val + 1, by omega⟩, q.delay g.val) else none := by
  match g with
  | 0 => rfl
  | 1 => rfl
  | 2 => rfl
  | 3 => rfl

theorem turnsAfter_off (q : SupplyParams) (g : GroupId) : (turnsAfter false q g).head? =
    if 0 < g.val then some (⟨g.val - 1, by omega⟩, q.delay (g.val - 1)) else none := by
  match g with
  | 0 => rfl
  | 1 => rfl
  | 2 => rfl
  | 3 => rfl

/-- A turn whose next turn does not come at the same event. -/
theorem Ev.giveTurns_eq {on : Bool} {g : GroupId} {l : List (GroupId × Nat)} {w : Ev}
    (h : ∀ n ∈ l.head?, n.2 ≠ 0) : w.giveTurns on g l =
      let v := if on then w.turnOn g else w.turnOff g
      v.onSequencer (fun q => { q with
        nextTurn := l.head?.map Prod.fst, turnTimer := l.head?.map (fun n => startTimer v.s.now (ms n.2)) }) := by
  cases l with
  | nil => cases on <;> rfl
  | cons n rest =>
    have hn : n.2 ≠ 0 := h n rfl
    unfold Ev.giveTurns
    dsimp only
    rw [if_neg hn]
    cases on <;> rfl

/-- A group with its timer running from now. -/
def State.groupTimed (g : GroupId) (st : GroupState) (length : Nat) (s : State) : State :=
  s.setGroup g { s.group g with
    state := st, timer := some ⟨s.now, length⟩, failReason := none, forced := none, lastChange := s.now }

theorem Ev.turnOn_s (g : GroupId) (w : Ev) : (w.turnOn g).s =
    if (w.s.group g).state = .off then
      if (w.s.group g).good then w.s.groupTimed g .settling (100 * w.s.sequencer.params.settle)
      else w.s.groupTimed g .enabling 10000
    else w.s := by
  unfold Ev.turnOn
  cases hs : (w.s.group g).state
  case off =>
    have hne : (w.s.group g).state ≠ .enabling := by rw [hs]; exact GroupState.noConfusion
    dsimp only
    rw [if_pos rfl]
    by_cases hg : (w.s.group g).good = true
    · rw [Ev.enterEnabling_s_of_good hg hne, if_pos hg]; rfl
    · rw [Ev.enterEnabling_s_of_lost hne (Bool.eq_false_iff.mpr hg), if_neg hg]; rfl
  all_goals rfl

theorem Ev.turnOff_s (g : GroupId) (w : Ev) : (w.turnOff g).s =
    if (w.s.group g).state = .ready then (w.s.groupTimed g .disabling 10000).darkenGroup .supplyOff g
    else if (w.s.group g).state = .enabling ∨ (w.s.group g).state = .settling then w.s.groupTimed g .disabling 10000
    else w.s := by
  unfold Ev.turnOff
  cases hs : (w.s.group g).state
  case ready =>
    dsimp only
    rw [Ev.leaveGroup_s, if_pos hs, if_pos rfl, Ev.onGroup_moves (by rw [hs]; exact GroupState.noConfusion)]
    rfl
  case enabling => exact Ev.enterDisabling_s (by rw [hs]; exact GroupState.noConfusion)
  case settling => exact Ev.enterDisabling_s (by rw [hs]; exact GroupState.noConfusion)
  all_goals rfl

/-- The state apart from points, sections, the channel and the queue stays when a point goes dark. -/
theorem State.darken_around (c : Cause) (p : PointId) (s : State) :
    Around p { s with channel := (s.darken c p).channel, queue := (s.darken c p).queue } (s.darken c p) := by
  let u : Ev := if wasCounting s p then Ev.disturbAll p c ⟨s, [], []⟩ else ⟨s, [], []⟩
  have hdark : s.darken c p = ((u.resetMachine p).loseEligibility p false).s := rfl
  have haround : Around p s (u.resetMachine p).s :=
    (Ev.disturbIf_around (wasCounting s p) p c ⟨s, [], []⟩).trans (Ev.resetMachine_around p u)
  have hlose := Ev.loseEligibility_around p false (u.resetMachine p)
  rw [← hdark] at hlose
  rw [hlose.channel, hlose.queue]
  exact (haround.withProofs _ _).trans hlose

theorem State.darkenGroup_rest (c : Cause) (g : GroupId) (s : State) :
    (s.darkenGroup c g).sequencer = s.sequencer ∧ (s.darkenGroup c g).now = s.now := by
  unfold State.darkenGroup
  induction pointsOf g generalizing s with
  | nil => exact ⟨rfl, rfl⟩
  | cons p l ih =>
    obtain ⟨hq, hn⟩ := ih (s.darken c p)
    exact ⟨hq.trans (s.darken_around c p).sequencer, hn.trans (s.darken_around c p).now⟩

/-- The turn of a group leaves the sequencer and the time. -/
theorem Ev.turn_rest (on : Bool) (g : GroupId) (w : Ev) :
    (if on then w.turnOn g else w.turnOff g).s.sequencer = w.s.sequencer ∧
      (if on then w.turnOn g else w.turnOff g).s.now = w.s.now := by
  cases on
  · show (w.turnOff g).s.sequencer = _ ∧ (w.turnOff g).s.now = _
    rw [Ev.turnOff_s]
    split
    · exact State.darkenGroup_rest _ _ _
    · split <;> exact ⟨rfl, rfl⟩
  · show (w.turnOn g).s.sequencer = _ ∧ (w.turnOn g).s.now = _
    rw [Ev.turnOn_s]
    split
    · split <;> exact ⟨rfl, rfl⟩
    · exact ⟨rfl, rfl⟩

/-- The state after a turn whose next turn does not come at the same event. -/
theorem Ev.turn_s {on : Bool} {g : GroupId} {w : Ev} {next : Option (GroupId × Nat)}
    (hnext : (turnsAfter on w.s.sequencer.params g).head? = next) (h : ∀ n ∈ next, n.2 ≠ 0) :
    (w.turn on g).s = { (if on then w.turnOn g else w.turnOff g).s with
      sequencer := { w.s.sequencer with
        nextTurn := next.map Prod.fst, turnTimer := next.map (fun n => ⟨w.s.now, 100 * n.2⟩) } } := by
  obtain ⟨hq, hn⟩ := Ev.turn_rest on g w
  unfold Ev.turn
  rw [Ev.giveTurns_eq (by rw [hnext]; exact h), hnext]
  dsimp only
  generalize (if on then w.turnOn g else w.turnOff g) = v at hq hn ⊢
  have htimer : (fun n : GroupId × Nat => startTimer v.s.now (ms n.2)) = fun n => ⟨w.s.now, 100 * n.2⟩ := by rw [hn]; rfl
  rw [Ev.onSequencer_s, hq, htimer]

/-- Settles O34. -/
theorem theTurnTimerGivesTheNextTurn : Obligations.TheTurnTimerGivesTheNextTurn := by
  unfold Obligations.TheTurnTimerGivesTheNextTurn
  intro g s hg ht q moved turned
  have hexec : ∀ on : Bool, q.activity = (if on then .powerOn else .powerOff) →
      exec .turnTimerExpiry s = .next (runEvent (fun w => (w.turn on g).settle) s) := fun on ha => by
    show execTurnTimerExpiry s = _
    unfold execTurnTimerExpiry
    cases on
    · rw [show s.sequencer.activity = .powerOff from ha, hg, ht]; rfl
    · rw [show s.sequencer.activity = .powerOn from ha, hg, ht]; rfl
  have hturn : ∀ (on : Bool) (next : Option (GroupId × Nat)), q.activity = (if on then .powerOn else .powerOff) →
      (turnsAfter on q.params g).head? = next → (∀ h ∈ next, h.2 ≠ 0) →
      ∃ u, exec .turnTimerExpiry s = .next u ∧
        Leaves (turned next (if on then Ev.turnOn g ⟨s, [], []⟩ else Ev.turnOff g ⟨s, [], []⟩).s).settled u :=
    fun on next ha hnext h0 => by
      have hleaves := runEvent_settled (Ev.turn on g) s
      rw [Ev.turn_s (w := ⟨s, [], []⟩) hnext h0] at hleaves
      exact ⟨_, hexec on ha, hleaves⟩
  refine ⟨fun ha next hnext h0 => ?_, fun ha next hnext h0 => ?_⟩
  · have h := hturn true next ha ((turnsAfter_on _ _).trans hnext.symm) h0
    rw [if_pos rfl, Ev.turnOn_s] at h
    exact h
  · have h := hturn false next ha ((turnsAfter_off _ _).trans hnext.symm) h0
    rw [if_neg Bool.false_ne_true, Ev.turnOff_s] at h
    exact h

end Sys2Proof.Machine
end

section
/-! Commands to the detector supplies (O35 to O37). -/

namespace Sys2Proof.Machine

/-! ## Checks -/

@[simp] theorem require_true (c : RefusalCode) (d : List Byte) (a : Answer) : require true c d a = a := rfl
@[simp] theorem withArgument_some {α : Type} (x : α) (f : α → Answer) : withArgument (some x) f = f x := rfl

theorem clamp_zero (hi v : Nat) : clamp 0 hi v = min hi v := Nat.zero_max _

/-! ## SET SUPPLY PARAMETERS -/

/-- No settle timer runs where no group is in SETTLING. -/
theorem Ev.retimeSettle_of_still {g : GroupId} {w : Ev} (h : (w.s.group g).state ≠ .settling) (settle : Nat) :
    w.retimeSettle settle g = w := by
  unfold Ev.retimeSettle
  split
  · rename_i hs _; exact absurd hs h
  · rfl

theorem foldl_still {α : Type} {f : Ev → α → Ev} {w : Ev} (h : ∀ a, f w a = w) (l : List α) : l.foldl f w = w := by
  induction l with
  | nil => rfl
  | cons a l ih => rw [List.foldl_cons, h, ih]

theorem Ev.setSupplyParams_of_still {w : Ev} (h : ∀ g, (w.s.group g).state ≠ .settling) (q : SupplyParams) :
    w.setSupplyParams q = w.onSequencer (fun r => { r with params := q }) := by
  have hv : ∀ g, ((w.onSequencer (fun r => { r with params := q })).s.group g).state ≠ .settling := h
  unfold Ev.setSupplyParams
  dsimp only
  generalize w.onSequencer (fun r => { r with params := q }) = v at hv ⊢
  exact foldl_still (fun g => Ev.retimeSettle_of_still (hv g) q.settle) allGroups

theorem SupplyParams.clamped_eq (r : SupplyParams) : r.clamped =
    ⟨min 4095 r.delay01, min 4095 r.delay12, min 4095 r.delay23, max 50 (min 5000 r.settle)⟩ := by
  show SupplyParams.mk (clamp 0 4095 _) (clamp 0 4095 _) (clamp 0 4095 _) (clamp 50 5000 _) = _
  rw [clamp_zero, clamp_zero, clamp_zero]
  rfl

/-- Settles O35. -/
theorem setSupplyParametersReplacesTheFour : Obligations.SetSupplyParametersReplacesTheFour := by
  unfold Obligations.SetSupplyParametersReplacesTheFour
  intro tag a1 a0 b1 b0 c1 c0 d1 d0 s h4 hstate hstill s' raw q
  have hq : raw.clamped = q := SupplyParams.clamped_eq raw
  have hconfiguring : (s'.device.state == .configuring) = true := beq_iff_eq.mpr hstate
  refine ⟨_, rfl, takeCommand_settled h4 rfl rfl ⟨(Ev.mk s' [] []).setSupplyParams raw.clamped, ?_, ?_⟩ rfl⟩
  · rw [← hq]
    show require (s'.device.state == .configuring) _ _ _ = _
    rw [hconfiguring]
    rfl
  · rw [Ev.setSupplyParams_of_still (w := ⟨s', [], []⟩) hstill, hq]
    rfl

/-! ## RECYCLE GROUP and FORCE SUPPLY -/

theorem State.darken_port (c : Cause) (p : PointId) (i : PortId) (s : State) : (s.darken c p).port i = s.port i := by
  have h := s.darken_around c p
  unfold Around at h
  rw [h]
  cases i <;> rfl

theorem State.darkenGroup_port (c : Cause) (g : GroupId) (i : PortId) (s : State) :
    (s.darkenGroup c g).port i = s.port i := by
  unfold State.darkenGroup
  induction pointsOf g generalizing s with
  | nil => rfl
  | cons p l ih => exact (ih (s.darken c p)).trans (s.darken_port c p i)

theorem forceLevel_of (on : Bool) : forceLevel (if on then 1 else 0) = some on := by cases on <;> rfl

/-- A forced group: the time of last change is that of the force, unless the group stood so already. -/
theorem Group.stamped_manual (now : Time) (on : Bool) (r : Group) : r.stamped now (r.toManual on) = { r with
    state := .manual, timer := none, failReason := none, forced := some on
    lastChange := if r.state = .manual ∧ r.forced = some on then r.lastChange else now } := by
  by_cases h : r.state = .manual ∧ r.forced = some on
  · rw [Group.stamped_of_same h.1.symm h.2.symm, if_pos h]
    rfl
  · rw [if_neg h]
    refine if_pos ?_
    rw [Bool.or_eq_true, bne_iff_ne, bne_iff_ne]
    by_cases hs : r.state = .manual
    · exact .inr fun hf => h ⟨hs, hf.symm⟩
    · exact .inl fun hm => hs hm.symm

/-- Settles O36. -/
theorem recycleAndForceDarkenTheGroup : Obligations.RecycleAndForceDarkenTheGroup := by
  unfold Obligations.RecycleAndForceDarkenTheGroup
  refine ⟨fun tag g s h4 hd ha hg => ?_, fun tag g on s h4 hd => ?_⟩
  · intro s' off
    let w : Ev := Ev.onSequencer (fun q => { q with activity := .recycle g }) ⟨s', [], []⟩
    have hrunning : (s'.device.state == .running) = true := beq_iff_eq.mpr hd
    have hidle : (s'.sequencer.activity == .none) = true := beq_iff_eq.mpr ha
    have hstate : ((s'.group g).state == .ready || (s'.group g).state == .failed) = true := by
      rw [Bool.or_eq_true, beq_iff_eq, beq_iff_eq]; exact hg
    have hoff : (w.onGroup g (Group.toTimed .disabling (startTimer s'.now offTime))).s = off :=
      Ev.onGroup_moves (w := w) (show GroupState.disabling ≠ (s.group g).state by
        rcases hg with hg | hg <;> rw [hg] <;> exact GroupState.noConfusion)
    refine ⟨_, rfl, takeCommand_settled h4 rfl rfl
      ⟨w.leaveGroup g .supplyOff (Group.toTimed .disabling (startTimer s'.now offTime)), ?_, ?_⟩ ?_⟩
    · show require (s'.device.state == .running) _ _ (withArgument (groupIndex (BitVec.ofNat 8 g.val)) fun g =>
        require (s'.sequencer.activity == .none) _ _ (require ((s'.group g).state == .ready || (s'.group g).state == .failed)
          _ _ _)) = _
      rw [hrunning, groupIndex_ofNat, require_true, withArgument_some, hidle, hstate]
      rfl
    · rw [Ev.leaveGroup_s, hoff]
      rfl
    · split
      · exact State.darkenGroup_port _ _ _ _
      · rfl
  · intro s' forced
    have hforced : (Ev.onGroup g (Group.toManual on) ⟨s', [], []⟩).s = forced := by
      rw [Ev.onGroup_setGroup, Group.stamped_manual]
      rfl
    refine ⟨_, rfl, takeCommand_settled h4 rfl rfl
      ⟨Ev.leaveGroup g .supplyOff (Group.toManual on) ⟨s', [], []⟩, ?_, ?_⟩ ?_⟩
    · show require s'.device.state.live _ _ (withArgument (groupIndex (BitVec.ofNat 8 g.val)) fun g =>
        withArgument (forceLevel (if on then 1 else 0)) _) = _
      rw [show s'.device.state.live = true from hd, groupIndex_ofNat, forceLevel_of]
      cases on <;> rfl
    · rw [Ev.leaveGroup_s, hforced]
      rfl
    · split
      · exact State.darkenGroup_port _ _ _ _
      · rfl

/-! ## RELEASE SUPPLY -/

theorem turnToCome_starting {s : State} {g next : GroupId} (hd : s.device.state = .starting)
    (hn : s.sequencer.nextTurn = some next) : turnToCome s g = decide (next.val ≤ g.val) := by
  unfold turnToCome; rw [hd, hn]

section
variable {g : GroupId} {w : Ev}

/-- A group forced on is released by its supply-good level. -/
theorem Ev.releaseGroup_of_on (h : (w.s.group g).forced = some true) : w.releaseGroup g =
    if (w.s.group g).good then w.enterSettling g else w.onGroup g (Group.toFailed .releasedUnpowered) := if_pos h

theorem Ev.releaseGroup_of_off (h : (w.s.group g).forced = some false)
    (ht : (w.s.device.state = .configuring || turnToCome w.s g) = true) :
    w.releaseGroup g = w.onGroup g (Group.toState .off) := by
  unfold Ev.releaseGroup
  dsimp only
  rw [if_neg (by rw [h]; simp), if_pos ht]

theorem Ev.releaseGroup_of_failed (h : (w.s.group g).forced = some false)
    (ht : (w.s.device.state = .configuring || turnToCome w.s g) = false) :
    w.releaseGroup g = w.onGroup g (Group.toFailed .releasedOff) := by
  unfold Ev.releaseGroup
  dsimp only
  rw [if_neg (by rw [h]; simp), if_neg (by rw [ht]; exact Bool.false_ne_true)]
end

/-- Settles O37. -/
theorem releaseSupplyFollowsItsTable : Obligations.ReleaseSupplyFollowsItsTable := by
  unfold Obligations.ReleaseSupplyFollowsItsTable
  intro tag g s h4 hlive hm s' released
  have hrelease : ∀ (st : GroupState) (t : Option Timer) (reason : Option FailReason),
      (Ev.releaseGroup g ⟨s', [], []⟩).s = s'.setGroup g { s.group g with
        state := st, timer := t, failReason := reason, forced := none, lastChange := s.now } → released st t reason := by
    intro st t reason h
    have hmanual : ((s'.group g).state == .manual) = true := beq_iff_eq.mpr hm
    refine ⟨_, rfl, takeCommand_settled h4 rfl rfl ⟨Ev.releaseGroup g ⟨s', [], []⟩, ?_, h⟩ rfl⟩
    show require s'.device.state.live _ _ (withArgument (groupIndex (BitVec.ofNat 8 g.val)) fun g =>
      require ((s'.group g).state == .manual) _ _ _) = _
    rw [show s'.device.state.live = true from hlive, groupIndex_ofNat, require_true, withArgument_some, hmanual, require_true]
    show accept _ [_, byte ((Ev.releaseGroup g ⟨s', [], []⟩).s.group g).state.code] = _
    rw [h, State.setGroup_self]
    rfl
  have hmoves : ∀ (f : Group → Group), (f (s.group g)).state ≠ .manual →
      (Ev.onGroup g f ⟨s', [], []⟩).s = s'.setGroup g { f (s.group g) with lastChange := s.now } := fun f hf =>
    Ev.onGroup_moves (w := ⟨s', [], []⟩) (show (f (s.group g)).state ≠ (s.group g).state by rw [hm]; exact hf)
  have hoff : (s.group g).forced = some false → (s.device.state = .configuring || turnToCome s g) = true →
      released .off none none := fun hf hturn => hrelease _ _ _ (by
    rw [Ev.releaseGroup_of_off (w := ⟨s', [], []⟩) hf hturn]
    exact hmoves _ GroupState.noConfusion)
  have hfailed : (s.group g).forced = some false → (s.device.state = .configuring || turnToCome s g) = false →
      released .failed none (some .releasedOff) := fun hf hturn => hrelease _ _ _ (by
    rw [Ev.releaseGroup_of_failed (w := ⟨s', [], []⟩) hf hturn]
    exact hmoves _ GroupState.noConfusion)
  refine ⟨fun hf hg => hrelease _ _ _ ?_, fun hf hg => hrelease _ _ _ ?_, fun hf hd => hoff hf (by rw [hd]; rfl),
    fun hf hd hnext => hoff hf ?_, fun hf hd hnext => hfailed hf ?_, fun hf hd => hfailed hf ?_⟩
  · rw [Ev.releaseGroup_of_on (w := ⟨s', [], []⟩) hf, show (s'.group g).good = true from hg]
    exact Ev.enterSettling_s (w := ⟨s', [], []⟩) (show (s.group g).state ≠ .settling by rw [hm]; exact GroupState.noConfusion)
  · rw [Ev.releaseGroup_of_on (w := ⟨s', [], []⟩) hf, show (s'.group g).good = false from hg]
    exact hmoves _ GroupState.noConfusion
  · obtain ⟨next, hn, hle⟩ := hnext
    rw [turnToCome_starting hd hn, decide_eq_true (Fin.le_def.mp hle), Bool.or_true]
  · rw [hd]
    cases hn : s.sequencer.nextTurn with
    | none => unfold turnToCome; rw [hd, hn]; rfl
    | some next => rw [turnToCome_starting hd hn, decide_eq_false (Nat.not_le_of_lt (hnext next hn))]; rfl
  · unfold turnToCome; rw [hd]; rfl

end Sys2Proof.Machine
end

section
/-! The outputs and the message ports: the phase edge (O38), the port timers (O39), the transmitter (O40), the receive
assembly (O41), valid frames (O42) and the port checks (O43). -/

namespace Sys2Proof.Machine

/-! ## The phase edge -/

theorem Drive.rise_eq (d : Drive) : d.rise = if d = .low then .low else .toggling := by cases d <;> rfl

/-- Settles O38. -/
theorem thePhaseEdgeActsOnTheOutputs : Obligations.ThePhaseEdgeActsOnTheOutputs := by
  unfold Obligations.ThePhaseEdgeActsOnTheOutputs
  intro s hr o timer
  have hexec : exec .phaseTimerExpiry s = .next { s with outputs := o.phaseEdge } := if_pos hr
  refine ⟨fun hh => ?_, fun hh => ⟨o.clr.map Drive.rise, ?_, fun n => ?_⟩⟩
  · rw [hexec]
    unfold Outputs.phaseEdge
    dsimp only
    rw [hh]
    rfl
  · rw [hexec, ← Drive.rise_eq]
    unfold Outputs.phaseEdge
    dsimp only
    rw [hh]
    cases hd : o.run <;> rfl
  · rw [Table.get_map, Drive.rise_eq]

/-! ## What the transmitters send -/

theorem Port.postAll_nil (q : Port) : q.postAll [] = q := by
  unfold Port.postAll
  induction allSubjects with
  | nil => rfl
  | cons x l ih => exact ih

/-- The end of an event that posts nothing: the transmitters choose. -/
theorem Ev.finish_quiet (s : State) : (Ev.mk s [] []).finish = s.transmitBoth := by
  unfold Ev.finish
  dsimp only
  rw [Port.postAll_nil, Port.postAll_nil, traceOrder_nil]
  rfl

/-- The control port's transmitter works on its port and the link alone. -/
theorem State.transmit_control (s : State) :
    s.transmit .control = { s with control := (s.transmit .control).control, link := (s.transmit .control).link } := by
  unfold State.transmit
  split
  · rfl
  · split
    · rfl
    · split
      · rfl
      · split
        · unfold State.sendReport
          split <;> rfl
        · rfl

/-- The service port's transmitter works on its port and the trace alone. -/
theorem State.transmit_service (s : State) :
    s.transmit .service = { s with service := (s.transmit .service).service, trace := (s.transmit .service).trace } := by
  unfold State.transmit
  split
  · rfl
  · split
    · rfl
    · split
      · rename_i h; cases h
      · split
        · unfold State.sendReport
          split <;> rfl
        · unfold State.sendTrace
          split <;> rfl

theorem State.transmitBoth_control (s : State) : s.transmitBoth.control = (s.transmit .control).control ∧
    s.transmitBoth.link = (s.transmit .control).link := by
  unfold State.transmitBoth
  rw [State.transmit_service]
  exact ⟨rfl, rfl⟩

/-- A free transmitter with no reply waiting sends the status image that is due. -/
theorem State.transmit_image {s : State} (h : s.control.sending = none) (hr : s.control.replies = [])
    (hd : s.link.imageDue = true) : s.transmit .control = s.sendStatus := by
  unfold State.transmit
  rw [show (s.port .control).sending = none from h, show (s.port .control).replies = [] from hr, hd]
  rfl

/-! ## The port timers -/

theorem runEvent_quiet (f : State → State) (s : State) : runEvent (fun w => { w with s := f w.s }) s = (f s).transmitBoth :=
  Ev.finish_quiet (f s)

theorem quiet_leaves (f : State → State) (s : State) : Leaves (f s) (f s).transmitBoth := by
  rw [← runEvent_quiet f s]; exact runEvent_leaves (fun w => { w with s := f w.s }) s

/-- Settles O39. -/
theorem portTimersRefillAndSupervise : Obligations.PortTimersRefillAndSupervise := by
  unfold Obligations.PortTimersRefillAndSupervise
  intro i s again
  refine ⟨fun hr => ?_, fun hr => ?_, fun hr => if_pos hr⟩
  · refine ⟨(s.onPort i Port.refill).transmitBoth, ?_, quiet_leaves (State.onPort i Port.refill) s, fun hb => ?_⟩
    · show execRefillTimerExpiry i s = _
      unfold execRefillTimerExpiry
      rw [if_pos hr, runEvent_quiet (State.onPort i Port.refill)]
    · have hport : (s.onPort i Port.refill).port i = (s.port i).refill := by cases i <;> rfl
      rw [State.transmitBoth_busy (by rw [hport]; exact hb), hport]
      exact ⟨rfl, rfl⟩
  · let due : State := { s with link := { s.link with imageDue := true, imageTimer := again s.link.imageTimer } }
    refine ⟨due.transmitBoth, ?_, quiet_leaves (fun s => { s with link := s.link.imageExpiry }) s, fun hb => ?_,
      fun hf hreplies => ?_⟩
    · show execImageTimerExpiry s = _
      unfold execImageTimerExpiry
      rw [if_pos hr, runEvent_quiet (fun s => { s with link := s.link.imageExpiry })]
      rfl
    · obtain ⟨hcontrol, hlink⟩ := due.transmitBoth_control
      rw [hlink, hcontrol, State.transmit_busy (i := .control) (s := due) hb]
      exact ⟨rfl, rfl⟩
    · obtain ⟨hcontrol, hlink⟩ := due.transmitBoth_control
      rw [hlink, hcontrol, State.transmit_image (s := due) hf hreplies rfl]
      exact ⟨rfl, rfl, rfl⟩

/-! ## The receive assembly -/

theorem execCharacterReceived_waits {i : PortId} {c : Character} {s : State} {a : Assembly}
    (h : (s.port i).assembly.take c = .wait a) :
    exec (.characterReceived i c) s = .next (s.onPort i (Port.await s.now a)) := by
  show execCharacterReceived i c s = _
  unfold execCharacterReceived
  rw [h]

theorem execCharacterReceived_discards {i : PortId} {c : Character} {s : State}
    (h : (s.port i).assembly.take c = .discard) :
    exec (.characterReceived i c) s = .next (s.onPort i Port.discardFrame) := by
  show execCharacterReceived i c s = _
  unfold execCharacterReceived
  rw [h]

theorem Port.await_of_ne (now : Time) {a : Assembly} (h : a ≠ .hunting) :
    Port.await now a = fun q => { q with assembly := a, gapTimer := some ⟨now, 500⟩ } := by
  funext q; unfold Port.await; rw [if_neg h]; rfl

theorem judgeFrame_discards {len : Byte} {kept : List Byte}
    (h : kept.drop len.toNat ≠ crcBytes (len :: kept.take len.toNat)) : judgeFrame len kept = .discard := if_neg h

/-- Settles O41. -/
theorem theAssemblyFollowsItsTable : Obligations.TheAssemblyFollowsItsTable := by
  unfold Obligations.TheAssemblyFollowsItsTable
  refine ⟨fun i b s => ?_, fun i reason s => ⟨fun ht => if_pos ht, rfl⟩⟩
  intro awaiting hunting discarded
  have hawait : ∀ {c : Character} {a : Assembly}, a ≠ .hunting → (s.port i).assembly.take c = .wait a →
      exec (.characterReceived i c) s = .next (awaiting a) := fun ha h => by
    rw [execCharacterReceived_waits h, Port.await_of_ne _ ha]
  have hhunt : ∀ {c : Character}, (s.port i).assembly.take c = .wait .hunting →
      exec (.characterReceived i c) s = .next hunting := fun h => execCharacterReceived_waits h
  have hdiscard : ∀ {c : Character}, (s.port i).assembly.take c = .discard →
      exec (.characterReceived i c) s = .next discarded := fun h => execCharacterReceived_discards h
  refine ⟨fun ha => ⟨fun hb => hawait Assembly.noConfusion ?_, fun hb => hhunt ?_, hhunt ?_⟩,
    fun ha => ⟨fun h2 h242 => hawait Assembly.noConfusion ?_, fun hb => hdiscard ?_, hdiscard ?_⟩,
    fun len kept ha => ⟨fun hk => hawait Assembly.noConfusion ?_, fun hk hcrc => hdiscard ?_, hdiscard ?_⟩⟩
  · rw [ha]; exact if_pos hb
  · rw [ha]; exact if_neg hb
  · rw [ha]; rfl
  · rw [ha]; exact if_pos ⟨h2, h242⟩
  · rw [ha]; exact if_neg (by omega)
  · rw [ha]; rfl
  · rw [ha]; exact if_pos hk
  · rw [ha]; exact (if_neg (by omega)).trans (judgeFrame_discards hcrc)
  · rw [ha]; rfl

/-! ## Valid frames -/

theorem takeFrame_eq (i : PortId) (kind tag : Byte) (body : List Byte) (s : State) :
    takeFrame i kind tag body s = exec (commandOf i kind tag body) s := by
  unfold takeFrame commandOf
  generalize kind.toNat = k
  -- the codes 0 to 23, and every code above them
  iterate 24
    obtain _ | k := k
    · rfl
  rfl

theorem judgeFrame_completes {kind tag : Byte} {body : List Byte} (h : body.length ≤ 240) :
    let len : Byte := BitVec.ofNat 8 (body.length + 2)
    judgeFrame len (kind :: tag :: body ++ crcBytes (len :: kind :: tag :: body)) = .complete kind tag body := by
  intro len
  have hlen : len.toNat = (kind :: tag :: body).length := by
    show (body.length + 2) % 256 = body.length + 2
    omega
  have htake : (kind :: tag :: body ++ crcBytes (len :: kind :: tag :: body)).take len.toNat = kind :: tag :: body := by
    rw [hlen]; exact List.take_left
  have hdrop : (kind :: tag :: body ++ crcBytes (len :: kind :: tag :: body)).drop len.toNat =
      crcBytes (len :: kind :: tag :: body) := by rw [hlen]; exact List.drop_left
  unfold judgeFrame
  dsimp only
  rw [htake, hdrop, if_pos rfl]

/-- Settles O42. -/
theorem aValidFrameIsTakenAsItsCommand : Obligations.AValidFrameIsTakenAsItsCommand := by
  unfold Obligations.AValidFrameIsTakenAsItsCommand
  intro i kind tag b body kept s hbody len hkept ha
  have hlen : len.toNat = body.length + 2 := by
    show (body.length + 2) % 256 = _
    omega
  have hlength : kept.length + 1 = body.length + 4 := by
    have h := congrArg List.length hkept
    simpa [crcBytes, bytes2] using h
  have htaken : (s.port i).assembly.take (.byte b) = .complete kind tag body := by
    rw [ha]
    show (if kept.length + 1 < len.toNat + 2 then _ else judgeFrame len (kept ++ [b])) = _
    rw [if_neg (by omega), hkept]
    exact judgeFrame_completes hbody
  show execCharacterReceived i (.byte b) s = _
  unfold execCharacterReceived
  rw [htaken, ← takeFrame_eq]

/-! ## The port checks -/

/-- A body length that a command's kind has (R201). -/
def commandLength (kind length : Nat) : Prop :=
  match kind with
  | 0x01 | 0x0B => length = 4
  | 0x02 | 0x07 | 0x08 | 0x0C | 0x14 | 0x15 | 0x17 => length = 1
  | 0x03 | 0x04 | 0x12 | 0x13 => length = 0
  | 0x05 | 0x06 | 0x0A | 0x16 => length = 2
  | 0x09 | 0x0E => length % 3 = 0
  | 0x0D => length = 3 ∨ length = 4
  | 0x0F | 0x10 => length = 8
  | 0x11 => length = 5
  | _ => False

/-- Every command kind is taken by the port checks of its own row. -/
theorem commandOf_taken (i : PortId) {kind : Byte} (h1 : 1 ≤ kind.toNat) (h23 : kind.toNat ≤ 0x17) :
    ∃ (pm : Permitted) (fits : Nat → Bool) (act : List Byte → Ev → Answer),
      (∀ tag body s, exec (commandOf i kind tag body) s = .next (takeCommand kind pm fits act i tag body s)) ∧
      pm.on .control = decide (kind.toNat ≤ 8) ∧ pm.on .service = decide (3 ≤ kind.toNat) ∧
      ∀ n, fits n = true ↔ commandLength kind.toNat n := by
  have hkind : kind = BitVec.ofNat 8 kind.toNat := by simp
  generalize kind.toNat = k at hkind h1 h23
  subst hkind
  interval_cases k
  all_goals exact ⟨_, _, _, fun _ _ _ => rfl, rfl, rfl, fun n => by simp [commandLength]⟩

theorem execUnknownCommand_refuses {i : PortId} {s : State} (h4 : (s.port i).replies.length < 4) (kind tag : Byte)
    (body : List Byte) : ∃ u, exec (.unknownCommand i kind tag body) s = .next u ∧
      Runs i kind tag (.refused .unknownCommand []) (s.frameTaken i) (s.frameTaken i) u := by
  refine ⟨_, ?_, Answer.conclude_refuses i kind tag (s.frameTaken i) .unknownCommand []⟩
  show execUnknownCommand i kind tag body s = _
  unfold execUnknownCommand
  dsimp only
  rw [State.frameTaken_replies, if_neg (by omega)]

theorem commandOf_unknown (i : PortId) {kind : Byte} (h : kind.toNat = 0 ∨ 0x17 < kind.toNat) (tag : Byte)
    (body : List Byte) : commandOf i kind tag body = .unknownCommand i kind tag body := by
  unfold commandOf
  split
  case h_24 => rfl
  all_goals omega

/-- A full reply FIFO discards the frame, whatever its kind. -/
theorem commandOf_overrun {i : PortId} {s : State} (h4 : 4 ≤ (s.port i).replies.length) (kind tag : Byte)
    (body : List Byte) : exec (commandOf i kind tag body) s = .next ((s.frameTaken i).overrun i).transmitBoth := by
  have hfull : 4 ≤ ((s.frameTaken i).port i).replies.length := by rw [State.frameTaken_replies]; exact h4
  by_cases h : kind.toNat = 0 ∨ 0x17 < kind.toNat
  · rw [commandOf_unknown i h]
    show execUnknownCommand i kind tag body s = _
    unfold execUnknownCommand
    dsimp only
    rw [if_pos hfull]
    exact congrArg Host.Outcome.next (runEvent_quiet id _)
  · obtain ⟨pm, fits, act, hexec, -⟩ := commandOf_taken i (kind := kind) (by omega) (by omega)
    rw [hexec]
    unfold takeCommand
    dsimp only
    rw [if_pos hfull]
    exact congrArg Host.Outcome.next (runEvent_quiet id _)

theorem State.overrun_port (i : PortId) (s : State) : (s.overrun i).port i = { s.port i with
    overruns := min 65535 ((s.port i).overruns + 1) } := by cases i <;> rfl

/-- Settles O43. -/
theorem thePortChecksComeFirst : Obligations.ThePortChecksComeFirst := by
  unfold Obligations.ThePortChecksComeFirst
  refine ⟨fun s => ⟨rfl, rfl⟩, fun i kind tag body s => ?_, fun i kind tag body s h4 => execUnknownCommand_refuses h4 _ _ _⟩
  intro s' hasLength refused
  refine ⟨fun h4 => ?_, fun h4 => ⟨fun hk => ?_, fun hi hk => ?_, fun hi h9 h23 => ?_, fun hc hs h1 h23 hl => ?_⟩⟩
  · refine ⟨_, commandOf_overrun h4 kind tag body, quiet_leaves (State.overrun i) s', fun hb => ?_⟩
    have hsending : (s'.port i).sending = (s.port i).sending := (s.frameTaken_line i).2
    have hreplies : (s'.port i).replies = (s.port i).replies := (s.frameTaken_line i).1
    rw [State.transmitBoth_busy (by rw [State.overrun_port]; exact hsending ▸ hb), State.overrun_port]
    exact ⟨hreplies, hsending⟩
  · have h := execUnknownCommand_refuses h4 kind tag body
    rw [← commandOf_unknown i hk] at h
    exact h
  · have hnat : kind.toNat = 1 ∨ kind.toNat = 2 := by rcases hk with rfl | rfl <;> simp
    obtain ⟨pm, fits, act, hexec, -, hservice, -⟩ := commandOf_taken i (kind := kind) (by omega) (by omega)
    refine ⟨_, hexec tag body s, takeCommand_wrongPort h4 ?_⟩
    rw [hi, hservice]
    exact decide_eq_false (by omega)
  · obtain ⟨pm, fits, act, hexec, hcontrol, -, -⟩ := commandOf_taken i (kind := kind) (by omega) (by omega)
    refine ⟨_, hexec tag body s, takeCommand_wrongPort h4 ?_⟩
    rw [hi, hcontrol]
    exact decide_eq_false (by omega)
  · obtain ⟨pm, fits, act, hexec, hcontrol, hservice, hfits⟩ := commandOf_taken i h1 h23
    refine ⟨_, hexec tag body s, takeCommand_badLength h4 ?_ ?_⟩
    · cases i
      · rw [hcontrol]; exact decide_eq_true (hc rfl)
      · rw [hservice]; exact decide_eq_true (hs rfl)
    · exact Bool.eq_false_iff.mpr fun h => hl ((hfits _).mp h)

end Sys2Proof.Machine
end

section
/-! The transmitter's sources and the layouts of what it sends (O40). -/

namespace Sys2Proof.Machine

/-! ## A free transmitter -/

section
variable {i : PortId} {s : State} (hf : (s.port i).sending = none)
include hf

theorem State.transmit_reply {r : Reply} {rest : List Reply} (hr : (s.port i).replies = r :: rest) :
    s.transmit i = s.onPort i (fun q => { q with replies := rest, sending := some (frame 0x80 r.tag r.body) }) := by
  unfold State.transmit
  rw [hf, hr]
  rfl

variable (hr : (s.port i).replies = [])
include hr

/-- With no reply and no image to send, a report goes if one is ready. -/
theorem State.transmit_rest (hi : ¬(i = .control ∧ s.link.imageDue = true)) :
    s.transmit i = if reportReady s i then s.sendReport i else s.sendTrace i := by
  unfold State.transmit
  rw [hf, hr]
  exact if_neg (by simpa using hi)
end

theorem reportReady_iff (s : State) (i : PortId) : reportReady s i = true ↔
    (s.port i).queue ≠ [] ∧ 0 < (s.port i).tokens ∧ (i = .control → s.link.up = true) := by
  unfold reportReady
  cases i <;> simp [and_assoc]

theorem State.sendReport_of {i : PortId} {s : State} {e : ReportEntry} {rest : List ReportEntry}
    (h : (s.port i).queue = e :: rest) : s.sendReport i = s.onPort i (fun q =>
      { q with
        queue := rest, tokens := q.tokens - 1, sending := some (frame 0x81 q.sendSequence (reportBody s e))
        sendSequence := q.sendSequence + 1 }) := by
  unfold State.sendReport
  rw [h]
  rfl

theorem State.sendTrace_of {s : State} {r : TraceRecord} {rest : List TraceRecord} (h : s.trace.buffer = r :: rest) :
    s.sendTrace .service = { s with
      service := { s.service with
        sending := some (frame 0x83 s.service.sendSequence (traceBody r)), sendSequence := s.service.sendSequence + 1 }
      trace := { s.trace with buffer := rest } } := by
  unfold State.sendTrace
  rw [h]
  rfl

theorem State.sendTrace_nothing {i : PortId} {s : State} (h : i = .control ∨ s.trace.buffer = []) : s.sendTrace i = s := by
  unfold State.sendTrace
  rcases h with rfl | h
  · rfl
  · rw [h]; cases i <;> rfl

/-- The state in which the transmitter of a port chooses. -/
def State.choosing (s : State) (i : PortId) : State :=
  match i with
  | .control => s
  | .service => s.transmit .control

theorem State.choosing_reads (s : State) (i : PortId) : (s.choosing i).port i = s.port i ∧ (s.choosing i).trace = s.trace ∧
    (i = .control → s.choosing i = s) ∧ ∀ e, reportBody (s.choosing i) e = reportBody s e := by
  cases i
  · exact ⟨rfl, rfl, fun _ => rfl, fun _ => rfl⟩
  · show (s.transmit .control).port .service = _ ∧ (s.transmit .control).trace = _ ∧ _ ∧ ∀ e, reportBody (s.transmit .control) e = _
    rw [s.transmit_control]
    exact ⟨rfl, rfl, nofun, fun _ => rfl⟩

theorem State.transmitBoth_own (s : State) (i : PortId) : s.transmitBoth.port i = ((s.choosing i).transmit i).port i ∧
    (i = .control → s.transmitBoth.link = ((s.choosing i).transmit i).link) ∧
    (i = .service → s.transmitBoth.trace = ((s.choosing i).transmit i).trace) := by
  cases i
  · exact ⟨s.transmitBoth_control.1, fun _ => s.transmitBoth_control.2, nofun⟩
  · exact ⟨rfl, nofun, fun _ => rfl⟩

theorem State.onPort_self (i : PortId) (f : Port → Port) (s : State) : (s.onPort i f).port i = f (s.port i) := by
  cases i <;> rfl

/-- The first clause of O40: a completed transmission frees the transmitter, which chooses. -/
theorem transmitComplete_chooses {i : PortId} {s : State} (h : (s.port i).sending ≠ none) :
    exec (.transmitComplete i) s = .next (s.onPort i (fun q => { q with sending := none })).transmitBoth := by
  show execTransmitComplete i s = _
  unfold execTransmitComplete
  rw [if_pos (Option.isSome_iff_ne_none.mpr h), runEvent_quiet (State.onPort i (fun q => { q with sending := none }))]

/-! ## The line -/

theorem characterLevels_length (b : Byte) : (characterLevels b).length = 10 := rfl

/-- A start bit, the data bits from the least significant, and a stop bit. -/
theorem characterLevels_get (b : Byte) {k : Nat} (h : k < 10) : (characterLevels b).getD k true =
    if k = 0 then false else if k = 9 then true else b.getLsbD (k - 1) := by
  interval_cases k <;> rfl

/-- An element of blocks of one length, by its block and its place in it. -/
theorem flatMap_getD {α β : Type} {f : α → List β} {m : Nat} (hf : ∀ a, (f a).length = m) {l : List α} {j k : Nat} (d : β)
    (hj : j < l.length) (hk : k < m) : (l.flatMap f).getD (m * j + k) d = (f l[j]).getD k d := by
  induction l generalizing j with
  | nil => cases hj
  | cons b l ih =>
    rw [List.flatMap_cons]
    cases j with
    | zero => rw [List.getD_append _ _ _ _ (by rw [hf]; omega)]; simp
    | succ j =>
      have hplace : m * (j + 1) + k - m = m * j + k := by rw [Nat.mul_succ]; omega
      rw [List.getD_append_right _ _ _ _ (by rw [hf, Nat.mul_succ]; omega), hf, hplace, ih (Nat.lt_of_succ_lt_succ hj)]
      rfl

theorem Port.lineLevel_sends {q : Port} {f : List Byte} {j k : Nat} (hj : j < f.length) (hs : q.sending = some f)
    (hk : k < 10) :
    q.lineLevel (10 * j + k) = if k = 0 then false else if k = 9 then true else (f[j]).getLsbD (k - 1) := by
  unfold Port.lineLevel
  rw [hs]
  exact (flatMap_getD characterLevels_length true hj hk).trans (characterLevels_get _ hk)

/-! ## Layouts -/

theorem DeviceState.code_eq (d : DeviceState) :
    byte d.code = BitVec.ofNat 8 ([DeviceState.loading, .configuring, .starting, .running, .halting].idxOf d) := by
  cases d <;> rfl

theorem LoadResult.byte_eq (r : Option LoadResult) : byteOr (r.map LoadResult.code) =
    r.elim 0xFF (fun r => BitVec.ofNat 8 ([LoadResult.none, .corrupt, .loaded].idxOf r)) := by
  cases r with
  | none => rfl
  | some r => cases r <;> rfl

theorem StoreResult.byte_eq (r : Option StoreResult) : byteOr (r.map StoreResult.code) =
    r.elim 0xFF (fun r => BitVec.ofNat 8 ([StoreResult.done, .failed].idxOf r)) := by
  cases r with
  | none => rfl
  | some r => cases r <;> rfl

theorem Plausibility.byte_eq (r : Option Plausibility) : byteOr (r.map Plausibility.code) =
    r.elim 0xFF (fun r => BitVec.ofNat 8 ([Plausibility.pass, .irregular].idxOf r)) := by
  cases r with
  | none => rfl
  | some r => cases r <;> rfl

/-- The device report about an autostart of given bytes. -/
theorem deviceReport_of {s : State} {item index result : Byte} (h : autostartBytes s.device = [result, item, index]) :
    deviceReport s = [BitVec.ofNat 8 ([DeviceState.loading, .configuring, .starting, .running, .halting].idxOf s.device.state),
      s.device.loadResult.elim 0xFF (fun r => BitVec.ofNat 8 ([LoadResult.none, .corrupt, .loaded].idxOf r)),
      result, item, index, if s.device.store.isSome then 1 else 0,
      s.device.lastStore.elim 0xFF (fun r => BitVec.ofNat 8 ([StoreResult.done, .failed].idxOf r))] ++ bytes4 s.now := by
  unfold deviceReport
  rw [h, DeviceState.code_eq, LoadResult.byte_eq, StoreResult.byte_eq]
  rfl

theorem reportBody_sec {s : State} {e : ReportEntry} {n : SectionId} (h : e.subject = .sec n) :
    reportBody s e = 0 :: BitVec.ofNat 8 n.val :: BitVec.ofNat 8 e.changes :: sectionRecord s n := by
  unfold reportBody
  rw [h]
  dsimp only
  generalize sectionRecord s n = l
  rfl

theorem reportBody_point {s : State} {e : ReportEntry} {p : PointId} (h : e.subject = .point p) :
    reportBody s e = 1 :: BitVec.ofNat 8 p.val :: BitVec.ofNat 8 e.changes :: pointRecord s p := by
  unfold reportBody
  rw [h]
  dsimp only
  generalize pointRecord s p = l
  rfl

theorem reportBody_group {s : State} {e : ReportEntry} {g : GroupId} (h : e.subject = .group g) :
    reportBody s e = 2 :: BitVec.ofNat 8 g.val :: BitVec.ofNat 8 e.changes :: groupRecord s g := by
  unfold reportBody
  rw [h]
  dsimp only
  generalize groupRecord s g = l
  rfl

theorem reportBody_device {s : State} {e : ReportEntry} (h : e.subject = .device) :
    reportBody s e = 3 :: Config.deviceReportIndex :: BitVec.ofNat 8 e.changes :: deviceReport s := by
  unfold reportBody; rw [h]; rfl

theorem statusBody_eq (s : State) : statusBody s =
    BitVec.ofNat 8 ([DeviceState.loading, .configuring, .starting, .running, .halting].idxOf s.device.state) ::
      (if s.link.up then 0 else 1) ::
      (List.finRange 12).flatMap (fun n => BitVec.ofNat 8 (s.sec n).state.code :: bytes2 (s.sec n).count) := by
  unfold statusBody
  rw [DeviceState.code_eq]
  cases s.link.up <;> rfl

theorem countBytes_eq (e : CountEvent) : countBytes e =
    BitVec.ofNat 8 e.point.val :: byte e.direction.code :: (bytes4 e.time ++ e.speed.elim [0xFF, 0xFF] bytes2 ++
      [e.plausibility.elim 0xFF (fun r => BitVec.ofNat 8 ([Plausibility.pass, .irregular].idxOf r)),
        e.left.elim 0xFF (fun n => BitVec.ofNat 8 n.val), e.entered.elim 0xFF (fun n => BitVec.ofNat 8 n.val)]) := by
  unfold countBytes
  rw [Plausibility.byte_eq]
  cases e.speed <;> cases e.left <;> cases e.entered <;> rfl

theorem presentTime_eq (t : Option Time) : presentTime t = t.elim [0, 0, 0, 0, 0] (fun r => 1 :: bytes4 r) := by
  cases t <;> rfl

theorem ConfusionCause.code_eq (c : ConfusionCause) : byte c.code =
    BitVec.ofNat 8 ([ConfusionCause.simultaneousOnset, .jump, .startUp].idxOf c) := by cases c <;> rfl

theorem ProofResult.code_eq (r : ProofResult) : byte r.code =
    BitVec.ofNat 8 ([ProofResult.pass, .noResponse, .noRelease, .aborted, .unfinished].idxOf r) := by cases r <;> rfl

/-! ## The obligation -/

/-- The transmitter that has completed a frame begins the first ready source. -/
theorem transmitter_takes {i : PortId} {s : State} (h : (s.port i).sending ≠ none) :
    let q := s.port i
    let imageReady : Prop := i = .control ∧ s.link.imageDue = true
    let reportsReady : Prop := q.queue ≠ [] ∧ 0 < q.tokens ∧ (i = .control → s.link.up = true)
    let u := (s.onPort i (fun q => { q with sending := none })).transmitBoth
    (∀ r rest, q.replies = r :: rest →
      (u.port i).sending = some (frame 0x80 r.tag r.body) ∧ (u.port i).replies = rest ∧
      (u.port i).sendSequence = q.sendSequence) ∧
    (q.replies = [] → imageReady →
      (u.port i).sending = some (frame 0x82 q.sendSequence (statusBody s)) ∧ u.link.imageDue = false ∧
      (u.port i).sendSequence = q.sendSequence + 1) ∧
    (q.replies = [] → ¬imageReady → reportsReady → ∀ e rest, q.queue = e :: rest →
      (u.port i).sending = some (frame 0x81 q.sendSequence (reportBody s e)) ∧ (u.port i).queue = rest ∧
      (u.port i).tokens = q.tokens - 1 ∧ (u.port i).sendSequence = q.sendSequence + 1) ∧
    (q.replies = [] → ¬imageReady → ¬reportsReady → i = .service → ∀ r rest, s.trace.buffer = r :: rest →
      (u.port i).sending = some (frame 0x83 q.sendSequence (traceBody r)) ∧ u.trace.buffer = rest ∧
      (u.port i).sendSequence = q.sendSequence + 1) ∧
    (q.replies = [] → ¬imageReady → ¬reportsReady → (i = .control ∨ s.trace.buffer = []) →
      (u.port i).sending = none ∧ (u.port i).sendSequence = q.sendSequence) := by
  intro q imageReady reportsReady u
  let s' := s.onPort i (fun q => { q with sending := none })
  have hs' : s'.port i = { q with sending := none } := s.onPort_self i _
  have hlink : s'.link = s.link ∧ s'.trace = s.trace ∧ statusBody s' = statusBody s ∧ ∀ e, reportBody s' e = reportBody s e := by
    cases i <;> exact ⟨rfl, rfl, rfl, fun _ => rfl⟩
  obtain ⟨hlink, htrace, hstatus, hreport⟩ := hlink
  obtain ⟨hport, htr, hsame, hbody⟩ := s'.choosing_reads i
  obtain ⟨huport, hulink, hutrace⟩ := s'.transmitBoth_own i
  have hvlink : i = .control → (s'.choosing i).link = s.link := fun hi => by rw [hsame hi]; exact hlink
  have hvbody : ∀ e, reportBody (s'.choosing i) e = reportBody s e := fun e => (hbody e).trans (hreport e)
  have hvstatus : i = .control → statusBody (s'.choosing i) = statusBody s := fun hi => by rw [hsame hi]; exact hstatus
  have hvport : (s'.choosing i).port i = { q with sending := none } := hport.trans hs'
  have hvtrace : (s'.choosing i).trace = s.trace := htr.trans htrace
  rw [show u.port i = _ from huport]
  have hulink : i = .control → u.link = _ := hulink
  have hutrace : i = .service → u.trace = _ := hutrace
  generalize s'.choosing i = v at hvlink hvbody hvstatus hvport hvtrace hulink hutrace ⊢
  have hfree : (v.port i).sending = none := by rw [hvport]
  have hreplies : (v.port i).replies = q.replies := by rw [hvport]
  have hready : reportReady v i = true ↔ reportsReady := by
    rw [reportReady_iff, hvport]
    exact and_congr_right' (and_congr_right' (forall_congr' fun hi => by rw [hvlink hi]))
  have hnoImage : ¬imageReady → ¬(i = .control ∧ v.link.imageDue = true) := fun hn hi => hn ⟨hi.1, hvlink hi.1 ▸ hi.2⟩
  refine ⟨fun r rest hr => ?_, fun hr hi => ?_, fun hr hi hrep e rest hq => ?_, fun hr hi hrep hs r rest ht => ?_,
    fun hr hi hrep hs => ?_⟩
  · rw [State.transmit_reply hfree (hreplies.trans hr), State.onPort_self, hvport]
    exact ⟨rfl, rfl, rfl⟩
  · obtain ⟨rfl, hdue⟩ := hi
    rw [hulink rfl, State.transmit_image hfree (hreplies.trans hr) (by rw [hvlink rfl]; exact hdue)]
    have hcontrol : v.control = { q with sending := none } := hvport
    unfold State.sendStatus
    rw [hcontrol, hvstatus rfl]
    exact ⟨rfl, rfl, rfl⟩
  · have hqueue : (v.port i).queue = e :: rest := by rw [hvport]; exact hq
    rw [State.transmit_rest hfree (hreplies.trans hr) (hnoImage hi), if_pos (hready.mpr hrep), State.sendReport_of hqueue,
      State.onPort_self, hvport, hvbody]
    exact ⟨rfl, rfl, rfl, rfl⟩
  · rw [State.transmit_rest hfree (hreplies.trans hr) (hnoImage hi), if_neg (mt hready.mp hrep)] at hutrace ⊢
    subst hs
    rw [State.sendTrace_of (by rw [hvtrace]; exact ht)] at hutrace ⊢
    rw [hutrace rfl]
    have hservice : v.service = { q with sending := none } := hvport
    rw [hservice]
    exact ⟨rfl, rfl, rfl⟩
  · rw [State.transmit_rest hfree (hreplies.trans hr) (hnoImage hi), if_neg (mt hready.mp hrep),
      State.sendTrace_nothing (by rw [hvtrace]; exact hs), hvport]
    exact ⟨rfl, rfl⟩

/-- Settles O40. -/
theorem theTransmitterTakesTheFirstReadySource : Obligations.TheTransmitterTakesTheFirstReadySource := by
  unfold Obligations.TheTransmitterTakesTheFirstReadySource
  refine ⟨fun i s h => ?_, fun q k h => Port.lineLevel_idle h k, fun q f j k hj hs hk => Port.lineLevel_sends hj hs hk,
    fun kind tag body => rfl, fun s e => ?_, statusBody_eq, fun p t t' d e cause x length result response failures drops => ?_⟩
  · exact ⟨_, transmitComplete_chooses h, quiet_leaves (State.onPort i (fun q => { q with sending := none })) s,
      transmitter_takes h⟩
  · intro code changes
    refine ⟨fun n he => ?_, fun p he => ?_, fun g he => ?_, fun he => ?_⟩
    · exact reportBody_sec he
    · exact reportBody_point he
    · exact reportBody_group he
    · rw [reportBody_device he]
      refine ⟨fun ha => ?_, fun ha => ?_, fun ha => ?_, fun item ha => ?_⟩
      all_goals
        rw [deviceReport_of (by unfold autostartBytes; rw [ha])]
        rfl
  · intro point dir sys side counted why outcome
    have hdir : ∀ d, byte (Direction.code d) = dir d := fun d => by cases d <;> rfl
    have hcounted : countBytes e = counted := by rw [countBytes_eq, hdir]
    refine ⟨congrArg (List.cons 0) hcounted, congrArg (List.cons 1) hcounted, ?_, ?_, ?_, ?_, rfl⟩
    · show _ :: ([byte p.val, byte d.code] ++ bytes4 t ++ bytes4 t') = _
      rw [hdir]
      rfl
    · show _ :: ([byte p.val, byte cause.code] ++ bytes4 t ++ bytes4 t' ++ [flagByte (cause == .startUp)]) = _
      rw [ConfusionCause.code_eq]
      cases cause <;> rfl
    · cases x <;> rfl
    · show _ :: ([byte p.val, byte x.code, byte result.code] ++ bytes4 t ++ presentTime response ++ bytes4 t' ++
        [byte failures]) = _
      rw [ProofResult.code_eq, presentTime_eq]
      cases x <;> cases response <;> rfl

end Sys2Proof.Machine
end

section
/-! The commands to the sections (O47 to O50). -/

namespace Sys2Proof.Machine

/-! ## The first of an ascending list -/

/-- The first element of an ascending list that passes a test. -/
theorem find?_of_first {α : Type} [LT α] {l : List α} (hl : l.Pairwise (· < ·)) {f : α → Bool} {a : α} (ha : a ∈ l)
    (hf : f a = true) (hfirst : ∀ b ∈ l, b < a → f b = false) : l.find? f = some a := by
  obtain ⟨before, after, rfl⟩ := List.append_of_mem ha
  refine List.find?_eq_some_iff_append.mpr ⟨hf, before, after, rfl, fun b hb => ?_⟩
  have hlt : b < a := (List.pairwise_append.mp hl).2.2 b hb a List.mem_cons_self
  rw [hfirst b (List.mem_append_left _ hb) hlt]
  rfl

theorem find?_of_none {α : Type} {l : List α} {f : α → Bool} (h : ∀ a ∈ l, f a = false) : l.find? f = none :=
  List.find?_eq_none.mpr fun a ha => by simp [h a ha]

theorem members_ascending (s : State) (n : SectionId) : (members s n).Pairwise (· < ·) := by
  unfold members membersIn
  exact (List.pairwise_lt_finRange 16).filter _

/-! ## The checks of RESTORE SECTION -/

theorem word_eq (hi lo : Byte) : word hi lo = (hi ++ lo).toNat := by
  rw [BitVec.toNat_append, ← Nat.shiftLeft_add_eq_or_of_lt lo.isLt, Nat.shiftLeft_eq]
  rfl

theorem word_eq_iff (hi lo : Byte) (w : Word16) : word hi lo = w.toNat ↔ hi ++ lo = w := by
  rw [word_eq]
  exact BitVec.toNat_inj

theorem memberReady_eq {s : State} (h : s.device.state = .running) (p : PointId) : memberReady s p = counting s p := by
  unfold memberReady counting
  rw [h, show (DeviceState.running == .running) = true from rfl, Bool.and_true]

theorem notReadyData_eq {s : State} {p : PointId} (hd : s.device.state = .running) (h : counting s p = false) :
    notReadyData s p = [BitVec.ofNat 8 p.val,
      if (s.point p).mode ≠ .counting then 1 else if (s.point p).health = .fault then 2 else 3] := by
  rw [← memberReady_eq hd] at h
  unfold notReadyData notCountingByte notCountingBecause
  by_cases hm : (s.point p).mode = .counting
  · by_cases hf : (s.point p).health = .fault
    · rw [hm, hf]; rfl
    · have hdark : lit s p = false := by simpa [memberReady, hm, hf] using h
      rw [if_neg (by simp [hm]), if_neg (by simp [hf]), hdark, if_neg (not_not_intro hm), if_neg hf]
      rfl
  · rw [if_pos (by simp [hm]), if_pos hm]
    rfl

section
variable {n : SectionId} {k : RestoreKind} {rc : Nat} {w : Ev}

theorem restoreChecked_of_state (h : (w.s.sec n).state ≠ .disturbed) :
    restoreChecked n k rc w = refuse .sectionState (sectionStateData (w.s.sec n)) := by
  unfold restoreChecked
  dsimp only
  rw [beq_eq_false_iff_ne.mpr h]
  rfl

variable (h : (w.s.sec n).state = .disturbed)
include h

theorem restoreChecked_of_stale (hrc : rc ≠ (w.s.sec n).rc.toNat) :
    restoreChecked n k rc w = refuse .stale (bytes2 (w.s.sec n).rc.toNat) := by
  unfold restoreChecked
  dsimp only
  rw [h, decide_eq_false hrc]
  rfl

variable (hrc : rc = (w.s.sec n).rc.toNat)
include hrc

theorem restoreChecked_of_holdoff {t : Timer} (ht : (w.s.sec n).holdoffTimer = some t) :
    restoreChecked n k rc w = refuse .holdoff (bytes4 t.expiry) := by
  unfold restoreChecked
  dsimp only
  rw [h, decide_eq_true hrc, ht]
  rfl

variable (ht : (w.s.sec n).holdoffTimer = none)
include ht

theorem restoreChecked_of_notReady {p : PointId} (hp : (members w.s n).find? (fun p => !memberReady w.s p) = some p) :
    restoreChecked n k rc w = refuse .pointNotReady (notReadyData w.s p) := by
  unfold restoreChecked
  dsimp only
  rw [h, decide_eq_true hrc, ht, hp]
  rfl

variable (hready : (members w.s n).find? (fun p => !memberReady w.s p) = none)
include hready

theorem restoreChecked_of_active {p : PointId}
    (hp : (members w.s n).find? (fun p => (w.s.point p).machine != .idle) = some p) :
    restoreChecked n k rc w = refuse .pointActive [byte p.val] := by
  unfold restoreChecked
  dsimp only
  rw [h, decide_eq_true hrc, ht, hready, hp]
  rfl

variable (hidle : (members w.s n).find? (fun p => (w.s.point p).machine != .idle) = none)
include hidle

theorem restoreChecked_of_permission (hk : (k == .sweep || (w.s.sec n).directPermitted) = false) :
    restoreChecked n k rc w = refuse .directNotPermitted [] := by
  unfold restoreChecked
  dsimp only
  rw [h, decide_eq_true hrc, ht, hready, hidle, hk]
  rfl

theorem restoreChecked_of_passed (hk : (k == .sweep || (w.s.sec n).directPermitted) = true) :
    restoreChecked n k rc w =
      let v := w.onSection n (SectionRecord.restore w.s.now (anyOverdue w.s n) k)
      accept v ([byte n.val, byte k.code] ++ bytes2 (v.s.sec n).rc.toNat ++ [byte (v.s.sec n).state.code]) := by
  unfold restoreChecked
  dsimp only
  rw [h, decide_eq_true hrc, ht, hready, hidle, hk]
  rfl
end

theorem RestoreKind.ofCode_code (k : RestoreKind) : RestoreKind.ofCode (byte k.code) = some k := by cases k <;> rfl

theorem RestoreKind.exists_of_lt {kind : Byte} (h : kind.toNat < 2) : ∃ k : RestoreKind, kind = byte k.code := by
  have hkind : kind = 0 ∨ kind = 1 := by bv_omega
  rcases hkind with rfl | rfl
  · exact ⟨.sweep, rfl⟩
  · exact ⟨.direct, rfl⟩

/-- The checks of the device and of the index, passed. -/
theorem actRestoreSection_checks {w : Ev} (hd : w.s.device.state = .running) (n : SectionId) (k : RestoreKind) (hi lo : Byte) :
    actRestoreSection [byte n.val, byte k.code, hi, lo] w = restoreChecked n k (word hi lo) w := by
  show require (w.s.device.state == .running) _ _ (withArgument (sectionIndex (byte n.val)) fun n =>
    withArgument (RestoreKind.ofCode (byte k.code)) fun k => _) = _
  rw [hd, show sectionIndex (byte n.val) = some n from sectionIndex_ofNat n, RestoreKind.ofCode_code]
  rfl

/-- A number above 11 names no section. -/
theorem sectionIndex_out {b : Byte} (h : 12 ≤ b.toNat) : sectionIndex b = none := dif_neg (Nat.not_lt.mpr h)

theorem RestoreKind.ofCode_out {b : Byte} (h : 2 ≤ b.toNat) : RestoreKind.ofCode b = none := by
  unfold RestoreKind.ofCode
  rw [if_neg (by bv_omega), if_neg (by bv_omega)]

/-- Settles O48. -/
theorem restoreSectionIsRefusedByItsFirstFailingCheck : Obligations.RestoreSectionIsRefusedByItsFirstFailingCheck := by
  unfold Obligations.RestoreSectionIsRefusedByItsFirstFailingCheck
  intro tag sec kind hi lo s h4 s' refused
  have hrefused : ∀ {c d}, actRestoreSection [sec, kind, hi, lo] ⟨s', [], []⟩ = refuse c d → refused c d :=
    fun ha => ⟨_, rfl, takeCommand_refuses h4 rfl rfl ha⟩
  refine ⟨fun hd => hrefused ?_, fun hd hout => hrefused ?_, fun hd hkind n hsec => ?_⟩
  · show require (s'.device.state == .running) _ _ _ = _
    rw [show (s'.device.state == .running) = false from beq_eq_false_iff_ne.mpr hd]
    rfl
  · show require (s'.device.state == .running) _ _ (withArgument (sectionIndex sec) fun n =>
      withArgument (RestoreKind.ofCode kind) _) = _
    rw [show (s'.device.state == .running) = true from beq_iff_eq.mpr hd, require_true]
    rcases hout with hsec | hkind
    · rw [sectionIndex_out hsec]; rfl
    · rw [RestoreKind.ofCode_out hkind]
      cases sectionIndex sec <;> rfl
  · intro r
    obtain ⟨k, rfl⟩ := RestoreKind.exists_of_lt hkind
    subst hsec
    have hchecked : ∀ {c d}, restoreChecked n k (word hi lo) ⟨s', [], []⟩ = refuse c d → refused c d := fun ha =>
      hrefused ((actRestoreSection_checks (w := ⟨s', [], []⟩) hd n k hi lo).trans ha)
    refine ⟨fun hs => hchecked (restoreChecked_of_state (w := ⟨s', [], []⟩) hs), fun hs hrc => hchecked ?_,
      fun hs hrc t ht => hchecked ?_, fun hs hrc ht => ⟨fun p hp hc hfirst => hchecked ?_, fun hready => ?_⟩⟩
    · exact restoreChecked_of_stale (w := ⟨s', [], []⟩) hs (mt (word_eq_iff hi lo r.rc).mp hrc)
    · exact restoreChecked_of_holdoff (w := ⟨s', [], []⟩) hs ((word_eq_iff hi lo r.rc).mpr hrc) ht
    · rw [restoreChecked_of_notReady (w := ⟨s', [], []⟩) (p := p) hs ((word_eq_iff hi lo r.rc).mpr hrc) ht]
      · exact congrArg (refuse _) (notReadyData_eq (s := s') hd hc)
      · refine find?_of_first (members_ascending s' n) hp ?_ fun q hq hlt => ?_
        · rw [memberReady_eq (s := s') hd, show counting s' p = false from hc]; rfl
        · rw [memberReady_eq (s := s') hd, show counting s' q = true from hfirst q hq hlt]; rfl
    · have hnone : (members s' n).find? (fun p => !memberReady s' p) = none := find?_of_none fun p hp => by
        rw [memberReady_eq (s := s') hd, show counting s' p = true from hready p hp]; rfl
      refine ⟨fun p hp hm hfirst => hchecked ?_, fun hidle hk hpermitted => hchecked ?_⟩
      · refine restoreChecked_of_active (w := ⟨s', [], []⟩) hs ((word_eq_iff hi lo r.rc).mpr hrc) ht hnone
          (find?_of_first (members_ascending s' n) hp (bne_iff_ne.mpr hm) fun q hq hlt => ?_)
        exact bne_eq_false_iff_eq.mpr (hfirst q hq hlt)
      · refine restoreChecked_of_permission (w := ⟨s', [], []⟩) hs ((word_eq_iff hi lo r.rc).mpr hrc) ht hnone
          (find?_of_none fun q hq => bne_eq_false_iff_eq.mpr (hidle q hq)) ?_
        cases k
        · exact absurd hk (by decide)
        · exact hpermitted

/-! ## RESTORE SECTION accepted -/

theorem Drive.follow_disturbed (st : SectionState) (d : Drive) :
    d.follow .disturbed st = if st = .clear then .armed else d := by cases st <;> rfl

/-- Settles O47. -/
theorem restoreSectionTrustsTheCountAgain : Obligations.RestoreSectionTrustsTheCountAgain := by
  unfold Obligations.RestoreSectionTrustsTheCountAgain
  intro tag hi lo n s h4 hd r hs hrc ht hmembers s' trusted data restored drive
  have hready : (members s' n).find? (fun p => !memberReady s' p) = none := find?_of_none fun p hp => by
    rw [memberReady_eq (s := s') hd, show counting s' p = true from (hmembers p hp).1]; rfl
  have hidle : (members s' n).find? (fun p => (s'.point p).machine != .idle) = none :=
    find?_of_none fun p hp => bne_eq_false_iff_eq.mpr (hmembers p hp).2
  have hrestored : ∀ (k : RestoreKind) (r' : SectionRecord), (k == .sweep || r.directPermitted) = true →
      { r.restore s.now (anyOverdue s n) k with lastChange := s.now } = r' → r'.state ≠ .disturbed → r'.rc = r.rc + 1 →
      restored (byte k.code) r' (if r'.state = .clear then .armed else drive) := by
    intro k r' hk hr' hstate hcount
    have hsame : (r.restore s.now (anyOverdue s n) k).state = r'.state := by rw [← hr']
    have hset : (Ev.onSection n (SectionRecord.restore s'.now (anyOverdue s' n) k) ⟨s', [], []⟩).s =
        s'.setSection n r' (if r'.state = .clear then .armed else drive) := by
      rw [Ev.onSection_setSection]
      show s'.setSection n (r.stamped s.now (r.restore s.now (anyOverdue s n) k))
        (drive.follow r.state (r.restore s.now (anyOverdue s n) k).state) = _
      rw [hsame, hs, Drive.follow_disturbed, SectionRecord.stamped_of_state (by rw [hsame, hs]; exact hstate), hr']
    refine ⟨_, rfl, takeCommand_runs h4 rfl rfl ⟨_, ?_, hset⟩ rfl rfl⟩
    refine ((actRestoreSection_checks (w := ⟨s', [], []⟩) hd n k hi lo).trans
      (restoreChecked_of_passed (w := ⟨s', [], []⟩) hs ((word_eq_iff hi lo r.rc).mpr hrc) ht hready hidle hk)).trans ?_
    dsimp only
    rw [hset, State.setSection_sec, if_pos rfl, hcount]
    rfl
  refine ⟨hrestored .sweep _ rfl rfl SectionState.noConfusion rfl, fun hp => ⟨fun h0 => ?_, fun h0 ho => ?_, fun h0 ho => ?_⟩⟩
  · refine hrestored .direct { trusted with state := .clearing, clearTimer := some ⟨s.now, 10000 * r.clearDelay⟩ } hp ?_
      SectionState.noConfusion rfl
    unfold SectionRecord.restore
    dsimp only
    rw [SectionRecord.enterClearing_eq, if_neg h0]
    rfl
  · refine hrestored .direct { trusted with state := .clearing, clearTimer := none, hold := true } hp ?_
      SectionState.noConfusion rfl
    unfold SectionRecord.restore
    dsimp only
    rw [SectionRecord.enterClearing_eq, if_pos h0, ho]
    rfl
  · refine hrestored .direct { trusted with state := .clear, clearTimer := none } hp ?_ SectionState.noConfusion rfl
    unfold SectionRecord.restore
    dsimp only
    rw [SectionRecord.enterClearing_eq, if_pos h0, ho]
    rfl

/-! ## What an accepted command reports -/

/-- The reportable changes of an accepted command that touches no port before its reply. -/
theorem takeCommand_reports {kind : Byte} {pm : Permitted} {fits : Nat → Bool} {act : List Byte → Ev → Answer}
    {i : PortId} {tag : Byte} {body : List Byte} {s : State} {w : Ev} {d : List Byte}
    (h4 : (s.port i).replies.length < 4) (hp : pm.on i = true) (hf : fits body.length = true)
    (ha : act body ⟨s.frameTaken i, [], []⟩ = accept w d) (hport : ∀ j, w.s.port j = (s.frameTaken i).port j) :
    Reports w.posts s (takeCommand kind pm fits act i tag body s) := by
  have hframe : ∀ j, ((s.frameTaken i).port j).sending = (s.port j).sending ∧
      ((s.frameTaken i).port j).mask = (s.port j).mask ∧ ((s.frameTaken i).port j).queue = (s.port j).queue := by
    intro j; cases i <;> cases j <;> exact ⟨rfl, rfl, rfl⟩
  have hreply : ∀ (r : Reply) (j : PortId), ((w.s.reply i r).port j).sending = (w.s.port j).sending ∧
      ((w.s.reply i r).port j).mask = (w.s.port j).mask ∧ ((w.s.reply i r).port j).queue = (w.s.port j).queue := by
    intro r j; cases i <;> cases j <;> exact ⟨rfl, rfl, rfl⟩
  intro j hj
  have hn : ¬ 4 ≤ ((s.frameTaken i).port i).replies.length := by
    rw [(State.frameTaken_line i s).1]; omega
  obtain ⟨hsending, hmask, hqueue⟩ := hframe j
  unfold takeCommand
  dsimp only
  rw [if_neg hn, hp, hf, require_true, require_true, ha]
  show ((Ev.finish { w with s := w.s.reply i ⟨kind, tag, .accepted d⟩ }).port j).queue = _
  obtain ⟨hs, hm, hq⟩ := hreply ⟨kind, tag, .accepted d⟩ j
  rw [Ev.finish_busy (by rw [hs, hport, hsending]; exact hj), hm, hq, hport, hmask, hqueue]

/-! ## CANCEL RESTORE and DISTURB SECTION -/

theorem State.setSection_same (n : SectionId) (s : State) : s.setSection n (s.sec n) (s.outputs.clr.get n) = s := by
  unfold State.setSection
  rw [show s.sections.set n (s.sec n) = s.sections from Table.set_get_self _ _, Table.set_get_self]

@[simp] theorem State.frameTaken_sec (i : PortId) (n : SectionId) (s : State) : (s.frameTaken i).sec n = s.sec n := by
  cases i <;> rfl

@[simp] theorem State.frameTaken_now (i : PortId) (s : State) : (s.frameTaken i).now = s.now := by cases i <;> rfl

@[simp] theorem State.frameTaken_outputs (i : PortId) (s : State) : (s.frameTaken i).outputs = s.outputs := by
  cases i <;> rfl

theorem State.setSection_port (n : SectionId) (r : SectionRecord) (d : Drive) (i : PortId) (s : State) :
    (s.setSection n r d).port i = s.port i := by cases i <;> rfl

/-- A trusted section disturbed by a command: the change is one of its reportable content. -/
theorem Ev.disturb_trusted_s {n : SectionId} {c : Cause} {w : Ev} (h : (w.s.sec n).state.trusted = true) :
    (w.onSection n (SectionRecord.disturb c)).s = w.s.setSection n
      { w.s.sec n with
        state := .disturbed, cause := some c, clearTimer := none, hold := false, sweep := false, lastChange := w.s.now }
      (if (w.s.sec n).state = .clear then .low else w.s.outputs.clr.get n) := by
  rw [Ev.onSection_setSection, SectionRecord.disturb_of_trusted c h]
  generalize w.s.outputs.clr.get n = drive
  cases hs : (w.s.sec n).state <;> rw [hs] at h
  case unused | disturbed => exact absurd h Bool.false_ne_true
  all_goals rw [SectionRecord.stamped_of_state (by rw [hs]; exact SectionState.noConfusion)]; rfl

theorem Ev.disturb_trusted_posts {n : SectionId} {c : Cause} {w : Ev} (h : (w.s.sec n).state.trusted = true) :
    (w.onSection n (SectionRecord.disturb c)).posts = w.posts ++ [.sec n] := by
  rw [Ev.onSection_posts, if_pos]
  rw [SectionRecord.disturb_of_trusted c h]
  intro he
  have hstate : SectionState.disturbed = (w.s.sec n).state := congrArg SectionContent.state he
  rw [← hstate] at h
  exact Bool.false_ne_true h

theorem Ev.disturb_untrusted {n : SectionId} {c : Cause} {w : Ev} (h : (w.s.sec n).state.trusted = false) :
    (w.onSection n (SectionRecord.disturb c)).s = w.s := by
  rw [Ev.onSection_kept (by rw [SectionRecord.disturb_of_untrusted c h]) (by rw [SectionRecord.disturb_of_untrusted c h]),
    SectionRecord.disturb_of_untrusted c h]
  exact State.setSection_same n w.s

theorem actCancelRestore_of {w : Ev} {n : SectionId} (h : (w.s.sec n).state = .restoring) :
    actCancelRestore [byte n.val] w =
      let v := w.onSection n (SectionRecord.disturb .restoreCancelled)
      accept v ([byte n.val] ++ bytes2 (v.s.sec n).rc.toNat ++ bytes2 (v.s.sec n).count) := by
  show withArgument (sectionIndex (byte n.val)) (fun n => require ((w.s.sec n).state == .restoring) _ _ _) = _
  rw [show sectionIndex (byte n.val) = some n from sectionIndex_ofNat n, withArgument_some, h]
  rfl

theorem actCancelRestore_refuses {w : Ev} {n : SectionId} (h : (w.s.sec n).state ≠ .restoring) :
    actCancelRestore [byte n.val] w = refuse .sectionState (sectionStateData (w.s.sec n)) := by
  show withArgument (sectionIndex (byte n.val)) (fun n => require ((w.s.sec n).state == .restoring) _ _ _) = _
  rw [show sectionIndex (byte n.val) = some n from sectionIndex_ofNat n, withArgument_some, beq_eq_false_iff_ne.mpr h]
  rfl

theorem actDisturbSection_of {w : Ev} {n : SectionId} (h : (w.s.sec n).state ≠ .unused) :
    actDisturbSection [byte n.val] w =
      let v := w.onSection n (SectionRecord.disturb .hostRequest)
      accept v ([byte n.val] ++ bytes2 (v.s.sec n).rc.toNat ++ bytes2 (v.s.sec n).count ++
        [byteOr ((v.s.sec n).cause.map Cause.code), flagByte ((w.s.sec n).state != .disturbed)]) := by
  show withArgument (sectionIndex (byte n.val)) (fun n => require ((w.s.sec n).state != .unused) _ _ _) = _
  rw [show sectionIndex (byte n.val) = some n from sectionIndex_ofNat n, withArgument_some, bne_iff_ne.mpr h]
  rfl

theorem actDisturbSection_refuses {w : Ev} {n : SectionId} (h : (w.s.sec n).state = .unused) :
    actDisturbSection [byte n.val] w = refuse .sectionState (sectionStateData (w.s.sec n)) := by
  show withArgument (sectionIndex (byte n.val)) (fun n => require ((w.s.sec n).state != .unused) _ _ _) = _
  rw [show sectionIndex (byte n.val) = some n from sectionIndex_ofNat n, withArgument_some, h]
  rfl

/-- Settles O49. -/
theorem cancelAndDisturbEndTheTrustInACount : Obligations.CancelAndDisturbEndTheTrustInACount := by
  unfold Obligations.CancelAndDisturbEndTheTrustInACount
  intro i tag n s h4 r s' disturbed drive data
  have hsec : s'.sec n = r := State.frameTaken_sec i n s
  have htrusted : ∀ (c : Cause), r.state.trusted = true →
      (Ev.onSection n (SectionRecord.disturb c) ⟨s', [], []⟩).s =
        s'.setSection n (disturbed c) (if r.state = .clear then .low else drive) := by
    intro c h
    rw [Ev.disturb_trusted_s (w := ⟨s', [], []⟩) (by rw [hsec]; exact h)]
    show s'.setSection n { s'.sec n with
      state := .disturbed, cause := some c, clearTimer := none, hold := false, sweep := false, lastChange := s'.now }
      (if (s'.sec n).state = .clear then .low else s'.outputs.clr.get n) = _
    rw [hsec, State.frameTaken_now, State.frameTaken_outputs]
  have hposts : ∀ (c : Cause), r.state.trusted = true →
      (Ev.onSection n (SectionRecord.disturb c) ⟨s', [], []⟩).posts = [.sec n] := fun c h =>
    Ev.disturb_trusted_posts (w := ⟨s', [], []⟩) (by rw [hsec]; exact h)
  have hport : ∀ (c : Cause), r.state.trusted = true → ∀ j,
      (Ev.onSection n (SectionRecord.disturb c) ⟨s', [], []⟩).s.port j = s'.port j := fun c h j => by
    rw [htrusted c h, State.setSection_port]
  refine ⟨fun hi hs => ?_, fun ht => ?_, fun hs => ?_, fun hs => ?_, fun hi hs => ?_, fun sec hi => ?_, fun sec hout => ⟨fun hi => ?_, ?_⟩⟩
  · subst hi
    have ht : r.state.trusted = true := by rw [hs]; rfl
    have hact := actCancelRestore_of (w := ⟨s', [], []⟩) (n := n) (by rw [hsec]; exact hs)
    dsimp only at hact
    refine ⟨_, rfl, ?_, takeCommand_runs h4 rfl rfl
      ⟨Ev.onSection n (SectionRecord.disturb .restoreCancelled) ⟨s', [], []⟩, hact.trans ?_, ?_⟩ rfl rfl⟩
    · rw [← hposts .restoreCancelled ht]
      exact takeCommand_reports h4 rfl rfl hact (hport _ ht)
    · rw [htrusted _ ht, State.setSection_sec, if_pos rfl]
      rfl
    · rw [htrusted _ ht, if_neg (by rw [hs]; exact SectionState.noConfusion)]
  · have hact := actDisturbSection_of (w := ⟨s', [], []⟩) (n := n) (by
      rw [hsec]; intro hu; rw [hu] at ht; exact Bool.false_ne_true ht)
    dsimp only at hact
    have hchanged : (r.state != .disturbed) = true := bne_iff_ne.mpr fun hs => by
      rw [hs] at ht; exact Bool.false_ne_true ht
    refine ⟨_, rfl, ?_, takeCommand_runs h4 rfl rfl ⟨_, hact.trans ?_, htrusted _ ht⟩ ?_ ?_⟩
    · rw [← hposts .hostRequest ht]
      exact takeCommand_reports h4 rfl rfl hact (hport _ ht)
    · rw [htrusted _ ht, State.setSection_sec, if_pos rfl, hsec, hchanged]
      rfl
    · rw [State.setSection_port]
    · rw [State.setSection_port]
  · have hact := actDisturbSection_of (w := ⟨s', [], []⟩) (n := n) (by
      rw [hsec, hs]; exact SectionState.noConfusion)
    have hkept : (Ev.onSection n (SectionRecord.disturb .hostRequest) ⟨s', [], []⟩).s = s' :=
      Ev.disturb_untrusted (w := ⟨s', [], []⟩) (by rw [hsec, hs]; rfl)
    dsimp only at hact
    refine ⟨_, rfl, takeCommand_runs h4 rfl rfl ⟨_, hact.trans ?_, hkept⟩ rfl rfl⟩
    rw [hkept, hsec, hs]
    rfl
  · refine ⟨_, rfl, takeCommand_refuses h4 rfl rfl
      ((actDisturbSection_refuses (w := ⟨s', [], []⟩) (n := n) (by rw [hsec]; exact hs)).trans ?_)⟩
    rw [hsec, sectionStateData, hs]
    rfl
  · subst hi
    exact ⟨_, rfl, takeCommand_refuses h4 rfl rfl (actCancelRestore_refuses (w := ⟨s', [], []⟩) hs)⟩
  · subst hi
    exact ⟨_, rfl, takeCommand_wrongPort h4 rfl⟩
  · subst hi
    refine ⟨_, rfl, takeCommand_refuses h4 rfl rfl ?_⟩
    show withArgument (sectionIndex sec) _ = _
    rw [sectionIndex_out hout]
    rfl
  · refine ⟨_, rfl, takeCommand_refuses h4 rfl rfl ?_⟩
    show withArgument (sectionIndex sec) _ = _
    rw [sectionIndex_out hout]
    rfl

/-! ## SET SECTION PARAMETERS -/

theorem flag_bne (a b k : Nat) : flag (a != b) k = if a = b then 0 else 2 ^ k := by
  unfold flag
  by_cases h : a = b
  · rw [if_neg (by simp [h]), if_pos h]
  · rw [if_pos (by simp [h]), if_neg h]

theorem SectionRecord.withParams_eq (now : Time) (d k : Nat) (p : Bool) (r : SectionRecord) :
    r.withParams now d k p = { r with
      clearDelay := d, holdoff := k, directPermitted := p
      holdoffTimer := r.holdoffTimer.bind (fun t =>
        if 100000 * k ≤ (now - t.start).toNat then none else some ⟨t.start, 100000 * k⟩) } := by
  unfold SectionRecord.withParams Timer.reached seconds
  simp only [decide_eq_true_eq]

/-- The parameters of one section replaced, by the list that carries them: with the direct-restore permission, or without. -/
theorem actSetSectionParameters_checks {w : Ev} (hlive : w.s.device.state.live = true) (n : SectionId) (delay holdoff : Byte) :
    actSetSectionParameters [byte n.val, delay, holdoff] w = sectionParamsChecked n delay.toNat holdoff.toNat none w ∧
    ∀ direct, actSetSectionParameters [byte n.val, delay, holdoff, direct] w =
      require (w.s.device.state == .configuring) .wrongDeviceState []
        (sectionParamsChecked n delay.toNat holdoff.toNat (some (direct != 0)) w) := by
  refine ⟨?_, fun direct => ?_⟩
  · show require w.s.device.state.live _ _ (withArgument (sectionIndex (byte n.val)) _) = _
    rw [hlive, show sectionIndex (byte n.val) = some n from sectionIndex_ofNat n]
    rfl
  · show require w.s.device.state.live _ _ (withArgument (sectionIndex (byte n.val)) _) = _
    rw [hlive, show sectionIndex (byte n.val) = some n from sectionIndex_ofNat n]
    rfl

/-- Settles O50. -/
theorem setSectionParametersRetimesTheSection : Obligations.SetSectionParametersRetimesTheSection := by
  unfold Obligations.SetSectionParametersRetimesTheSection
  intro tag delay holdoff direct n s h4 hlive r s' d h clamped set drive sends
  have hd : clearDelayRange.clamp delay.toNat = d := clamp_zero _ _
  have hh : holdoffRange.clamp holdoff.toNat = h := clamp_zero _ _
  let work (permitted : Bool) : Ev :=
    Ev.onSection n (SectionRecord.setParams s.now (anyOverdue s n) d h permitted) ⟨s', [], []⟩
  have hchecked : ∀ direct, sectionParamsChecked n delay.toNat holdoff.toNat direct ⟨s', [], []⟩ =
      accept (work (direct.getD r.directPermitted)) [byte d, byte h, flagByte (direct.getD r.directPermitted), clamped] := by
    intro direct
    unfold sectionParamsChecked
    dsimp only
    rw [hd, hh, flag_bne, flag_bne]
    rfl
  have hset : ∀ permitted, r.withParams s.now d h permitted = set permitted := fun permitted =>
    SectionRecord.withParams_eq s.now d h permitted r
  obtain ⟨hthree, hfour⟩ := actSetSectionParameters_checks (w := ⟨s', [], []⟩) hlive n delay holdoff
  have hsends : ∀ {r' : SectionRecord} {d' : Drive}, (work r.directPermitted).s = s'.setSection n r' d' →
      sends [] r.directPermitted r' d' := fun hwork =>
    ⟨_, rfl, takeCommand_runs h4 rfl rfl ⟨_, hthree.trans (hchecked none), hwork⟩ rfl rfl⟩
  have hkept : ∀ {permitted : Bool} {r' : SectionRecord}, r.setParams s.now (anyOverdue s n) d h permitted = r' →
      r'.state = r.state → r'.count = r.count → (work permitted).s = s'.setSection n r' drive := by
    intro permitted r' hr' hstate hcount
    refine (Ev.onSection_kept (w := ⟨s', [], []⟩) ?_ ?_).trans ?_
    · exact (congrArg SectionRecord.state hr').trans hstate
    · exact (congrArg SectionRecord.count hr').trans hcount
    · exact congrArg (fun x => s'.setSection n x drive) hr'
  have hstopped : ∀ permitted, r.clearTimer = none → (work permitted).s = s'.setSection n (set permitted) drive :=
    fun permitted ht => hkept ((SectionRecord.setParams_of_stopped ht _ _ _ _ _).trans (hset permitted)) rfl rfl
  refine ⟨fun ht => ⟨hsends (hstopped _ ht), fun hc => ?_⟩, fun t ht hlt => hsends (hkept ?_ rfl rfl),
    fun t ht hs hle => hsends ?_, fun hc => ?_⟩
  · refine ⟨_, rfl, takeCommand_runs h4 rfl rfl ⟨_, (hfour direct).trans ?_, hstopped (direct != 0) ht⟩ rfl rfl⟩
    rw [show (State.device s').state = .configuring from hc]
    exact hchecked (some (direct != 0))
  · rw [SectionRecord.setParams_eq, ht, hset]
    exact if_neg (mt of_decide_eq_true (Nat.not_le.mpr hlt))
  · have hreached : r.setParams s.now (anyOverdue s n) d h r.directPermitted =
        (set r.directPermitted).expiryCheck (anyOverdue s n) := by
      rw [SectionRecord.setParams_eq, ht, hset]
      exact if_pos (decide_eq_true hle)
    cases ho : anyOverdue s n with
    | true =>
      rw [ho] at hreached
      show (work r.directPermitted).s =
        s'.setSection n { set r.directPermitted with clearTimer := none, hold := true } drive
      refine hkept ?_ rfl rfl
      rw [ho, hreached]
      show { set r.directPermitted with state := .clearing, clearTimer := none, hold := true } = _
      rw [← hs]
    | false =>
      rw [ho] at hreached
      refine (Ev.onSection_setSection n _ ⟨s', [], []⟩).trans ?_
      show s'.setSection n (r.stamped s.now (r.setParams s.now (anyOverdue s n) d h r.directPermitted))
        (drive.follow r.state (r.setParams s.now (anyOverdue s n) d h r.directPermitted).state) = _
      rw [ho, hreached, hs, SectionRecord.stamped_of_state (by rw [hs]; exact SectionState.noConfusion)]
      rfl
  · refine ⟨_, rfl, takeCommand_refuses h4 rfl rfl ((hfour direct).trans ?_)⟩
    rw [beq_eq_false_iff_ne.mpr (show (State.device s').state ≠ .configuring from hc)]
    rfl

end Sys2Proof.Machine
end

section
/-! The masks of the reports and of the trace (O45), and the port parameters (O46). -/

namespace Sys2Proof.Machine

/-! ## The end of an accepted command -/

/-- A command frame that passes the port checks ends the work that its block accepts, with its reply placed. -/
theorem takeCommand_finishes {kind : Byte} {pm : Permitted} {fits : Nat → Bool} {act : List Byte → Ev → Answer}
    {i : PortId} {tag : Byte} {body : List Byte} {s : State} {w : Ev} {d : List Byte}
    (h4 : (s.port i).replies.length < 4) (hp : pm.on i = true) (hf : fits body.length = true)
    (ha : act body ⟨s.frameTaken i, [], []⟩ = accept w d) :
    takeCommand kind pm fits act i tag body s = Ev.finish { w with s := w.s.reply i ⟨kind, tag, .accepted d⟩ } := by
  have hn : ¬ 4 ≤ ((s.frameTaken i).port i).replies.length := by
    rw [(State.frameTaken_line i s).1]; omega
  unfold takeCommand
  dsimp only
  rw [if_neg hn, hp, hf, require_true, require_true, ha]
  rfl

/-- A busy port after an accepted command that posts nothing: the reply joins its FIFO, and nothing is sent. -/
theorem takeCommand_port {kind : Byte} {pm : Permitted} {fits : Nat → Bool} {act : List Byte → Ev → Answer}
    {i : PortId} {tag : Byte} {body : List Byte} {s : State} {w : Ev} {d : List Byte}
    (h4 : (s.port i).replies.length < 4) (hp : pm.on i = true) (hf : fits body.length = true)
    (ha : act body ⟨s.frameTaken i, [], []⟩ = accept w d) (hposts : w.posts = []) (hbusy : (w.s.port i).sending ≠ none) :
    (takeCommand kind pm fits act i tag body s).port i =
      { w.s.port i with replies := (w.s.port i).replies ++ [⟨kind, tag, .accepted d⟩] } := by
  rw [takeCommand_finishes h4 hp hf ha]
  unfold Ev.finish
  rw [State.transmitBoth_busy, hposts]
  · cases i <;> exact Port.postAll_nil _
  · rw [hposts]
    cases i <;> dsimp only [State.port] <;> rw [Port.postAll_nil] <;> exact hbusy

/-! ## SET REPORT MASK -/

theorem classMask_bits : ∀ field : Byte, field.toNat < 16 →
    (ClassMask.mk (field.getLsbD 0) (field.getLsbD 1) (field.getLsbD 2) (field.getLsbD 3)).bits = field.toNat := by
  decide

theorem actSetReportMask_accepts {i : PortId} {field : Byte} {w : Ev} (h : field.toNat < 16) :
    actSetReportMask i [field] w =
      let m : ClassMask := ⟨field.getLsbD 0, field.getLsbD 1, field.getLsbD 2, field.getLsbD 3⟩
      accept { w with s := w.s.onPort i (Port.setMask m) }
        [field, byte ((w.s.port i).queue.filter (fun e => e.subject.inMask m)).length] := by
  show withArgument (classMask field) _ = _
  unfold classMask
  rw [if_pos h, withArgument_some]
  dsimp only
  rw [show ∀ f : Port → Port, ((w.s.onPort i f).port i) = f (w.s.port i) by intro f; cases i <;> rfl]
  show accept _ [byte (ClassMask.mk _ _ _ _).bits, _] = _
  rw [classMask_bits field h, byte, BitVec.ofNat_toNat, BitVec.setWidth_eq]
  rfl

theorem actSetReportMask_refuses {i : PortId} {field : Byte} {w : Ev} (h : 16 ≤ field.toNat) :
    actSetReportMask i [field] w = refuse .badArgument [] := by
  show withArgument (classMask field) _ = _
  unfold classMask
  rw [if_neg (Nat.not_lt.mpr h)]
  rfl

/-! ## SET TRACE -/

theorem bytes2_word (hi lo : Byte) : bytes2 (hi ++ lo).toNat = [hi, lo] := by
  rw [← word_eq]
  unfold bytes2 byte word
  congr 1
  · apply BitVec.eq_of_toNat_eq
    have := hi.isLt
    have := lo.isLt
    rw [BitVec.toNat_ofNat]
    omega
  · congr 1
    apply BitVec.eq_of_toNat_eq
    have := lo.isLt
    rw [BitVec.toNat_ofNat]
    omega

theorem traceMasksFit_iff (kinds n1 n0 : Byte) :
    traceMasksFit kinds (word n1 n0) = true ↔ kinds.toNat < 64 ∧ n1.toNat < 16 := by
  unfold traceMasksFit word
  rw [Bool.and_eq_true, decide_eq_true_eq, decide_eq_true_eq]
  have := n0.isLt
  omega

theorem ofNat_word (hi lo : Byte) : BitVec.ofNat 16 (word hi lo) = hi ++ lo := by
  rw [word_eq, BitVec.ofNat_toNat]
  rfl

theorem actSetTrace_accepts {p1 p0 kinds n1 n0 : Byte} {w : Ev} (hk : kinds.toNat < 64) (hn : n1.toNat < 16) :
    actSetTrace [p1, p0, kinds, n1, n0] w =
      accept { w with s := { w.s with trace := { w.s.trace with
          pointMask := p1 ++ p0, kindMask := kinds, sectionMask := n1 ++ n0 } } }
        ([p1, p0, kinds, n1, n0, byte w.s.trace.buffer.length] ++ bytes2 w.s.trace.drops) := by
  show require (traceMasksFit kinds (word n1 n0)) _ _ (accept _ (bytes2 (BitVec.ofNat 16 (word p1 p0)).toNat ++ [kinds] ++
    bytes2 (BitVec.ofNat 16 (word n1 n0)).toNat ++ _ ++ _)) = _
  rw [(traceMasksFit_iff kinds n1 n0).mpr ⟨hk, hn⟩, require_true, ofNat_word, ofNat_word, bytes2_word, bytes2_word]
  unfold Trace.setMasks
  rw [ofNat_word, ofNat_word]
  rfl

theorem actSetTrace_refuses {p1 p0 kinds n1 n0 : Byte} {w : Ev} (h : 64 ≤ kinds.toNat ∨ 16 ≤ n1.toNat) :
    actSetTrace [p1, p0, kinds, n1, n0] w = refuse .badArgument [] := by
  show require (traceMasksFit kinds (word n1 n0)) _ _ _ = _
  rw [Bool.eq_false_iff.mpr (mt (traceMasksFit_iff kinds n1 n0).mp (by omega))]
  rfl

/-! ## What a change posts -/

section
variable (w : Ev)

theorem Ev.postIf_posts (changed : Bool) (x : Subject) :
    (w.postIf changed x).posts = if changed then w.posts ++ [x] else w.posts := by cases changed <;> rfl

/-- A change posts its subject exactly when the content that `c` reads of it changes. -/
theorem Ev.postIf_content {α : Type} [DecidableEq α] {a b : α} {P : Prop} (h : a = b ↔ P) (x : Subject) :
    (P → (w.postIf (a != b) x).posts = w.posts) ∧ (¬P → (w.postIf (a != b) x).posts = w.posts ++ [x]) := by
  rw [Ev.postIf_posts]
  refine ⟨fun hp => if_neg ?_, fun hp => if_pos ?_⟩
  · rw [bne_iff_ne]; exact not_not_intro (h.mpr hp)
  · rw [bne_iff_ne]; exact mt h.mp hp
end

theorem Point.content_eq_iff (a b : Point) : a.content = b.content ↔
    (decide (a.machine = .confused), a.health, a.faultCause, a.mode, a.proofA.proven, a.proofB.proven, a.proofA.overdue,
      a.proofB.overdue) = (decide (b.machine = .confused), b.health, b.faultCause, b.mode, b.proofA.proven,
        b.proofB.proven, b.proofA.overdue, b.proofB.overdue) := by
  simp only [Point.content, PointContent.mk.injEq, Prod.mk.injEq]
  rfl

theorem SectionRecord.content_eq_iff (a b : SectionRecord) : a.content = b.content ↔
    (a.state, a.count, a.cause, a.hold, a.sweep, a.rc) = (b.state, b.count, b.cause, b.hold, b.sweep, b.rc) := by
  simp only [SectionRecord.content, SectionContent.mk.injEq, Prod.mk.injEq]

theorem Group.content_eq_iff (a b : Group) : a.content = b.content ↔
    (a.state, a.failReason, a.forced) = (b.state, b.failReason, b.forced) := by
  simp only [Group.content, GroupContent.mk.injEq, Prod.mk.injEq]

theorem Device.content_eq_iff (a b : Device) : a.content = b.content ↔
    (a.state, a.loadResult, a.autostart, a.store.isSome, a.lastStore) =
      (b.state, b.loadResult, b.autostart, b.store.isSome, b.lastStore) := by
  simp only [Device.content, DeviceContent.mk.injEq, Prod.mk.injEq]

/-! ## The order of the records of one event -/

/-- A record that stands before another by point, and by kind at one point. -/
def TraceRecord.Before (r r' : TraceRecord) : Prop :=
  ∀ a ∈ r.about, ∀ b ∈ r'.about, a.1 < b.1 ∨ a.1 = b.1 ∧ a.2 < b.2

theorem TraceRecord.about_eq_some_iff {r : TraceRecord} {p : PointId} {k : Nat} :
    r.about = some (p, k) ↔ r.point = some p ∧ r.kind = k := by
  cases r <;> simp [TraceRecord.about, TraceRecord.point, TraceRecord.kind]

theorem mem_traceOrder {l : List TraceRecord} {r : TraceRecord} (h : r.about.isSome = true) :
    r ∈ traceOrder l ↔ r ∈ l := by
  obtain ⟨⟨p, k⟩, hr⟩ := Option.isSome_iff_exists.mp h
  obtain ⟨hp, hk⟩ := TraceRecord.about_eq_some_iff.mp hr
  have hlt : r.kind < 6 := r.kind_lt (by rw [hp]; exact Option.some_ne_none p)
  unfold traceOrder
  simp only [List.mem_flatMap, List.mem_filter, List.mem_range, Bool.and_eq_true, beq_iff_eq]
  exact ⟨fun ⟨_, _, _, _, hmem, _⟩ => hmem, fun hmem => ⟨p, List.mem_finRange p, r.kind, hlt, hmem, hp, rfl⟩⟩

theorem about_of_mem_traceOrder {l : List TraceRecord} {r : TraceRecord} (h : r ∈ traceOrder l) : r ∈ l := by
  unfold traceOrder at h
  simp only [List.mem_flatMap, List.mem_filter] at h
  obtain ⟨_, _, _, _, hmem, _⟩ := h
  exact hmem

theorem TraceRecord.Before.irrefl {r : TraceRecord} (h : r.about.isSome = true) : ¬r.Before r := fun hr => by
  obtain ⟨a, ha⟩ := Option.isSome_iff_exists.mp h
  rcases hr a ha a ha with hlt | ⟨-, hlt⟩
  · exact lt_irrefl _ hlt
  · exact lt_irrefl _ hlt

/-- Records of which no two are of one point and one kind stand in their order. -/
theorem traceOrder_pairwise {l : List TraceRecord}
    (hl : l.Pairwise (fun r r' => r.about ≠ r'.about)) : (traceOrder l).Pairwise TraceRecord.Before := by
  unfold traceOrder allPoints
  have hkey : ∀ (p : PointId) (k : Nat) (r : TraceRecord),
      r ∈ l.filter (fun r => r.point == some p && r.kind == k) → r.about = some (p, k) := fun p k r hr => by
    have h := (List.mem_filter.mp hr).2
    rw [Bool.and_eq_true, beq_iff_eq, beq_iff_eq] at h
    exact TraceRecord.about_eq_some_iff.mpr h
  refine List.pairwise_flatMap.mpr ⟨fun p _ => List.pairwise_flatMap.mpr ⟨fun k _ => ?_, ?_⟩, ?_⟩
  · refine ((hl.filter _).imp_of_mem fun {r r'} hr hr' hne => ?_)
    exact absurd ((hkey p k r hr).trans (hkey p k r' hr').symm) hne
  · refine List.pairwise_lt_range.imp fun {k k'} hlt r hr r' hr' a ha b hb => ?_
    rw [hkey p k r hr, Option.mem_some_iff] at ha
    rw [hkey p k' r' hr', Option.mem_some_iff] at hb
    exact .inr ⟨by rw [← ha, ← hb], by rw [← ha, ← hb]; exact hlt⟩
  · refine (List.pairwise_lt_finRange 16).imp fun {p p'} hlt r hr r' hr' a ha b hb => ?_
    obtain ⟨k, -, hr⟩ := List.mem_flatMap.mp hr
    obtain ⟨k', -, hr'⟩ := List.mem_flatMap.mp hr'
    rw [hkey p k r hr, Option.mem_some_iff] at ha
    rw [hkey p' k' r' hr', Option.mem_some_iff] at hb
    exact .inl (by rw [← ha, ← hb]; exact hlt)

/-- The records of one event are placed in the one order that their points and kinds give. -/
theorem traceOrder_eq {l m : List TraceRecord} (hperm : m.Perm l) (hsome : ∀ r ∈ m, r.about.isSome = true)
    (hm : m.Pairwise TraceRecord.Before) : traceOrder l = m := by
  have hne : ∀ {r r' : TraceRecord}, r ∈ m → r' ∈ m → r.Before r' → r.about ≠ r'.about := fun {r r'} hr _ hbefore he => by
    refine TraceRecord.Before.irrefl (hsome r hr) fun a ha b hb => hbefore a ha b (he ▸ hb)
  have hdistinct : l.Pairwise (fun r r' => r.about ≠ r'.about) :=
    (hperm.pairwise_iff fun h => Ne.symm h).mp (hm.imp_of_mem hne)
  have hnodup : ∀ {u : List TraceRecord}, u.Pairwise (fun r r' => r.about ≠ r'.about) → u.Nodup := fun h =>
    h.imp fun hne he => hne (congrArg TraceRecord.about he)
  have hpairwise := traceOrder_pairwise hdistinct
  have hmem : ∀ r ∈ traceOrder l, r ∈ m := fun r hr => hperm.mem_iff.mpr (about_of_mem_traceOrder hr)
  have hordernodup : (traceOrder l).Nodup :=
    hnodup (hpairwise.imp_of_mem fun {r r'} hr hr' => hne (hmem r hr) (hmem r' hr'))
  refine List.Perm.eq_of_pairwise (fun r r' hr hr' h h' => ?_) hpairwise hm ?_
  · obtain ⟨a, ha⟩ := Option.isSome_iff_exists.mp (hsome r (hmem r hr))
    obtain ⟨b, hb⟩ := Option.isSome_iff_exists.mp (hsome r' hr')
    rcases h a ha b hb with hlt | ⟨he, hlt⟩ <;> rcases h' b hb a ha with hlt' | ⟨he', hlt'⟩
    · exact absurd hlt' (lt_asymm hlt)
    · exact absurd hlt (by rw [he']; exact lt_irrefl _)
    · exact absurd hlt' (by rw [he]; exact lt_irrefl _)
    · exact absurd hlt' (lt_asymm hlt)
  · refine (List.perm_ext_iff_of_nodup hordernodup (hnodup (hm.imp_of_mem hne))).mpr fun r => ⟨hmem r, fun hr => ?_⟩
    exact (mem_traceOrder (hsome r hr)).mpr (hperm.mem_iff.mp hr)

/-! ## The table of the trace -/

theorem CountEvent.names_iff (e : CountEvent) (n : SectionId) :
    e.names n.val = true ↔ e.left = some n ∨ e.entered = some n := by
  unfold CountEvent.names
  rw [Bool.or_eq_true, beq_iff_eq, beq_iff_eq]
  simp only [Option.map_eq_some_iff, Fin.val_inj, exists_eq_right]

theorem any_names_iff (mask : BitVec 16) (e : CountEvent) :
    (List.range 12).any (fun n => mask.getLsbD n && e.names n) = true ↔
      ∃ n : SectionId, mask.getLsbD n.val = true ∧ (e.left = some n ∨ e.entered = some n) := by
  simp only [List.any_eq_true, List.mem_range, Bool.and_eq_true]
  constructor
  · rintro ⟨n, hn, hmask, hnames⟩
    exact ⟨⟨n, hn⟩, hmask, (e.names_iff ⟨n, hn⟩).mp hnames⟩
  · rintro ⟨n, hmask, hnames⟩
    exact ⟨n.val, n.isLt, hmask, (e.names_iff n).mpr hnames⟩

/-- A record passes the section mask when that is empty, or when it is a passage at a section of the mask. -/
theorem passesSections_iff (mask : BitVec 16) (r : TraceRecord) : passesSections mask r = true ↔ mask = 0 ∨
    match r with
    | .counted e => ∃ n : SectionId, mask.getLsbD n.val = true ∧ (e.left = some n ∨ e.entered = some n)
    | .uncounted e => ∃ n : SectionId, mask.getLsbD n.val = true ∧ (e.left = some n ∨ e.entered = some n)
    | _ => False := by
  cases r with
  | counted e => show (mask == 0 || _) = true ↔ _; rw [Bool.or_eq_true, beq_iff_eq, any_names_iff]
  | uncounted e => show (mask == 0 || _) = true ↔ _; rw [Bool.or_eq_true, beq_iff_eq, any_names_iff]
  | _ => show (mask == 0) = true ↔ _; rw [beq_iff_eq, or_false]

theorem Trace.passes_iff {r : TraceRecord} {p : PointId} {kind : Nat} (h : r.about = some (p, kind)) (t : Trace) :
    t.passes r = true ↔ t.pointMask.getLsbD p.val = true ∧ t.kindMask.getLsbD kind = true ∧
      passesSections t.sectionMask r = true := by
  obtain ⟨hp, hk⟩ := TraceRecord.about_eq_some_iff.mp h
  unfold Trace.passes
  rw [hp, hk, Bool.and_eq_true, Bool.and_eq_true, and_assoc]

/-! ## The masks replaced -/

/-- Settles O45. -/
theorem reportAndTraceMasksAreReplaced : Obligations.ReportAndTraceMasksAreReplaced := by
  unfold Obligations.ReportAndTraceMasksAreReplaced
  refine ⟨fun i tag field s h4 => ?_, fun tag p1 p0 kinds n1 n0 s h4 => ?_, fun w p f n f' g h h' => ?_, fun f s => ?_,
    fun t r p kind hr => ?_⟩
  · intro s' m kept
    refine ⟨fun hlt => ?_, fun hle => ⟨_, rfl, takeCommand_refuses h4 rfl rfl (actSetReportMask_refuses hle)⟩⟩
    have hport : ∀ t : Port → Port, ((s'.onPort i t).port i) = t (s'.port i) := by intro t; cases i <;> rfl
    have hqueue : (s'.port i).queue = (s.port i).queue := by cases i <;> rfl
    have hmask : s'.onPort i (Port.setMask m) = s'.onPort i (fun q => { q with mask := m, queue := kept }) := by
      cases i <;> rfl
    have hact := actSetReportMask_accepts (i := i) (w := ⟨s', [], []⟩) hlt
    dsimp only at hact
    rw [hqueue, hmask] at hact
    refine ⟨_, rfl, takeCommand_accepts h4 rfl rfl hact ?_ ?_, fun hb => ?_⟩
    · rw [hport]
    · rw [hport]
    · rw [takeCommand_port h4 rfl rfl hact rfl]
      · dsimp only
        rw [hport]
      · dsimp only
        rw [hport]
        cases i <;> exact hb
  · intro s'
    refine ⟨fun hk hn => ?_, fun h => ⟨_, rfl, takeCommand_refuses h4 rfl rfl (actSetTrace_refuses h)⟩⟩
    have hact := actSetTrace_accepts (p1 := p1) (p0 := p0) (n0 := n0) (w := ⟨s', [], []⟩) hk hn
    refine ⟨_, rfl, takeCommand_accepts (i := .service) h4 rfl rfl hact rfl rfl, fun hb => ?_⟩
    rw [takeCommand_finishes (i := .service) h4 rfl rfl hact, Ev.finish_trace hb]
    dsimp only
    rw [traceOrder_nil]
    exact ⟨rfl, rfl⟩
  · exact ⟨Ev.postIf_content _ (Point.content_eq_iff _ _) _, Ev.postIf_content _ (SectionRecord.content_eq_iff _ _) _,
      Ev.postIf_content _ (Group.content_eq_iff _ _) _, Ev.postIf_content _ (Device.content_eq_iff _ _) _⟩
  · exact ⟨fun i hb => Ev.finish_busy hb, fun hb l hperm hsome hl => by
      rw [← traceOrder_eq hperm hsome hl]; exact Ev.finish_trace hb⟩
  · intro passesSections passes
    have hpasses : t.passes r = true ↔ passes :=
      (Trace.passes_iff hr t).trans (and_congr_right' (and_congr_right' (passesSections_iff t.sectionMask r)))
    have htake : passes → t.take r = t.place r := fun h => if_pos (hpasses.mpr h)
    refine ⟨fun h => if_neg (mt hpasses.mp h), fun h h0 hlt => (htake h).trans ?_, fun h h0 hle => (htake h).trans ?_,
      fun h h1 hle => (htake h).trans ?_, fun h h1 hle => (htake h).trans ?_⟩
    · unfold Trace.place; rw [if_pos h0, if_pos hlt]
    · unfold Trace.place; rw [if_pos h0, if_neg (Nat.not_lt.mpr hle)]
    · unfold Trace.place; rw [if_neg (by omega), if_pos (by omega)]
    · unfold Trace.place; rw [if_neg (by omega), if_neg (by omega)]; rfl

/-! ## SET PORT PARAMETERS -/

/-- A busy control transmitter leaves its port as the work of the event does, and the link too. -/
theorem takeCommand_control {kind : Byte} {pm : Permitted} {fits : Nat → Bool} {act : List Byte → Ev → Answer}
    {tag : Byte} {body : List Byte} {s : State} {w : Ev} {d : List Byte}
    (h4 : s.service.replies.length < 4) (hp : pm.on .service = true) (hf : fits body.length = true)
    (ha : act body ⟨s.frameTaken .service, [], []⟩ = accept w d) (hbusy : w.s.control.sending ≠ none) :
    (takeCommand kind pm fits act .service tag body s).control = w.s.control.postAll w.posts ∧
      (takeCommand kind pm fits act .service tag body s).link = w.s.link := by
  rw [takeCommand_finishes (i := .service) h4 hp hf ha]
  let r : Reply := ⟨kind, tag, .accepted d⟩
  let v : State := { w.s.reply .service r with
    control := w.s.control.postAll w.posts
    service := (w.s.reply .service r).service.postAll w.posts
    trace := (traceOrder w.traces).foldl (fun t r => t.take r) w.s.trace }
  obtain ⟨hcontrol, hlink⟩ := v.transmitBoth_control
  have hb : (v.port .control).sending ≠ none := fun hn => hbusy ((Port.postAll_line _ _).1.symm.trans hn)
  rw [State.transmit_busy hb] at hcontrol hlink
  exact ⟨hcontrol, hlink⟩

theorem Port.setPacing_eq (now : Time) (b r : Nat) (q : Port) : q.setPacing now b r =
    let passed : Bool := decide (100 * r ≤ (now - q.refillTimer.start).toNat)
    if r = q.refillPeriod then { q with burst := b, tokens := min q.tokens b }
    else { q with
      burst := b, refillPeriod := r
      refillTimer := if passed then ⟨now, 100 * r⟩ else ⟨q.refillTimer.start, 100 * r⟩
      tokens := if passed ∧ min q.tokens b < b then min q.tokens b + 1 else min q.tokens b } := by
  unfold Port.setPacing
  dsimp only
  by_cases hr : r = q.refillPeriod
  · rw [if_pos hr, if_pos hr]
  · rw [if_neg hr, if_neg hr]
    unfold Timer.retime Timer.retimeExpires Timer.reached ms
    by_cases hp : 100 * r ≤ (now - q.refillTimer.start).toNat
    · simp only [decide_eq_true hp, if_true, true_and]
      rfl
    · simp only [decide_eq_false hp, Bool.false_eq_true, false_and, if_false]

/-- A new image period and then a new link timeout. -/
theorem Link.setTimeout_setImagePeriod (now : Time) (p t : Nat) (l : Link) :
    (l.setImagePeriod now p).setTimeout now t =
      let passed (timer : Timer) (length : Nat) : Bool := decide (length ≤ (now - timer.start).toNat)
      let imaged : Link :=
        if p = l.imagePeriod then l
        else { l with
          imagePeriod := p
          imageTimer := if passed l.imageTimer (100 * p) then ⟨now, 100 * p⟩ else ⟨l.imageTimer.start, 100 * p⟩
          imageDue := l.imageDue || passed l.imageTimer (100 * p) }
      if t = l.timeout then imaged
      else if t = 0 then { imaged with timeout := 0, timer := none, up := true }
      else if l.timeout = 0 then { imaged with timeout := t, timer := some ⟨now, 100 * t⟩ }
      else
        match l.timer with
        | none => { imaged with timeout := t }
        | some timer =>
          if passed timer (100 * t) then { imaged with timeout := t, timer := none, up := false }
          else { imaged with timeout := t, timer := some ⟨timer.start, 100 * t⟩ } := by
  dsimp only
  have himaged : l.setImagePeriod now p = if p = l.imagePeriod then l
        else { l with
          imagePeriod := p
          imageTimer := if decide (100 * p ≤ (now - l.imageTimer.start).toNat) then ⟨now, 100 * p⟩
            else ⟨l.imageTimer.start, 100 * p⟩
          imageDue := l.imageDue || decide (100 * p ≤ (now - l.imageTimer.start).toNat) } := rfl
  have hkept : (l.setImagePeriod now p).timeout = l.timeout ∧ (l.setImagePeriod now p).timer = l.timer := by
    unfold Link.setImagePeriod
    split <;> exact ⟨rfl, rfl⟩
  rw [← himaged]
  unfold Link.setTimeout
  rw [hkept.1, hkept.2]
  rfl

section
variable {q : PortId} {burst r1 r0 p1 p0 t1 t0 : Byte} {w : Ev} (hlive : w.s.device.state.live = true)
include hlive

theorem actSetPortParameters_checks (port : Byte) (h : portIndex port = some q) :
    actSetPortParameters [port, burst, r1, r0, p1, p0, t1, t0] w =
      portParamsChecked q burst.toNat (word r1 r0) (word p1 p0) (word t1 t0) w := by
  show require w.s.device.state.live _ _ (withArgument (portIndex port) _) = _
  rw [hlive, h]
  rfl
end

/-- Settles O46. -/
theorem setPortParametersTakesEffectAtOnce : Obligations.SetPortParametersTakesEffectAtOnce := by
  unfold Obligations.SetPortParametersTakesEffectAtOnce
  intro tag burst r1 r0 p1 p0 t1 t0 s h4 hlive s' b r p t passed retimed paced l imaged supervised cut
  have hpaced : ∀ q : Port, q.setPacing s.now b r = paced q := Port.setPacing_eq s.now b r
  have hsupervised : (l.setImagePeriod s.now p).setTimeout s.now t = supervised := Link.setTimeout_setImagePeriod s.now p t l
  have hcontrol : actSetPortParameters [0, burst, r1, r0, p1, p0, t1, t0] ⟨s', [], []⟩ =
      accept ⟨{ s' with control := paced s.control, link := supervised }, [], []⟩
        ([byte b] ++ bytes2 r ++ bytes2 p ++ bytes2 t ++
          [byte (cut + (if p = word p1 p0 then 0 else 4) + (if t = word t1 t0 then 0 else 8))]) := by
    rw [actSetPortParameters_checks (w := ⟨s', [], []⟩) (q := .control) hlive 0 rfl]
    show accept ⟨{ s' with control := s.control.setPacing s.now b r
                           link := (l.setImagePeriod s.now p).setTimeout s.now t }, [], []⟩ _ = _
    rw [hpaced, hsupervised, flag_bne, flag_bne, flag_bne, flag_bne]
    rfl
  have hservice : actSetPortParameters [1, burst, r1, r0, p1, p0, t1, t0] ⟨s', [], []⟩ =
      accept ⟨s'.onPort .service paced, [], []⟩ ([byte b] ++ bytes2 r ++ [0xFF, 0xFF, 0xFF, 0xFF, byte cut]) := by
    rw [actSetPortParameters_checks (w := ⟨s', [], []⟩) (q := .service) hlive 1 rfl]
    show accept ⟨{ s' with service := s'.service.setPacing s.now b r }, [], []⟩ _ = _
    rw [hpaced, flag_bne, flag_bne]
    rfl
  have hline : ∀ q, (paced q).sending = q.sending ∧ (paced q).replies = q.replies := by
    intro q
    unfold paced
    dsimp only
    split <;> exact ⟨rfl, rfl⟩
  refine ⟨⟨_, rfl, takeCommand_accepts (i := .service) h4 rfl rfl hcontrol rfl rfl, fun hb => ?_⟩,
    ⟨_, rfl, takeCommand_accepts (i := .service) h4 rfl rfl hservice (hline s'.service).1 (hline s'.service).2, fun hb => ?_⟩⟩
  · obtain ⟨hport, hlink⟩ := takeCommand_control (kind := 0x10) (tag := tag) h4 (pm := .serviceOnly)
      (fits := fun n => n == 8) rfl rfl hcontrol (by rw [show State.control _ = paced s.control from rfl, (hline _).1]; exact hb)
    rw [Port.postAll_nil] at hport
    exact ⟨congrArg Port.tokens hport, congrArg Link.imageDue hlink⟩
  · have hport := takeCommand_port (i := .service) (kind := 0x10) (tag := tag) h4 (pm := .serviceOnly)
      (fits := fun n => n == 8) rfl rfl hservice rfl (by
        rw [show State.port _ .service = paced s'.service from rfl, (hline _).1]; exact hb)
    refine (congrArg Port.tokens hport).trans ?_
    show (paced { s.service with assembly := .hunting, gapTimer := none }).tokens = (paced s.service).tokens
    unfold paced
    dsimp only
    split <;> rfl

end Sys2Proof.Machine
end

section
/-! The topology and the commands to the points (O51 to O54). -/

namespace Sys2Proof.Machine

/-! ## Membership derived from the table -/

/-- The membership of one section, as the table stands (R76). -/
def membershipAt (s : State) (n : SectionId) (r : SectionRecord) : SectionRecord :=
  r.takeMembership (!(members s n).isEmpty)

theorem readsView_membershipAt : ReadsView membershipAt := by
  intro s t _ _ ht
  funext n r
  unfold membershipAt members
  rw [ht]

theorem Ev.takeMembership_s (old : Table 16 TopologyEntry) (n : SectionId) (w : Ev) :
    (w.takeMembership old n).s = (w.onSection n (membershipAt w.s n)).s := Ev.postIf_s _ _ _

theorem Ev.takeMemberships_s (old : Table 16 TopologyEntry) (l : List SectionId) (w : Ev) :
    (l.foldl (fun w n => w.takeMembership old n) w).s = (l.foldl (fun w n => w.onSection n (membershipAt w.s n)) w).s := by
  let g (s : State) (n : SectionId) : State := (Ev.onSection n (membershipAt s n) ⟨s, [], []⟩).s
  rw [foldl_states (g := g) fun w n => (Ev.takeMembership_s old n w).trans
      (by rw [Ev.onSection_s]; exact (Ev.onSection_s n _ ⟨w.s, [], []⟩).symm),
    foldl_states (g := g) fun w n => by rw [Ev.onSection_s]; exact (Ev.onSection_s n _ ⟨w.s, [], []⟩).symm]

theorem foldl_postIf_s {α : Type} (c : α → Bool) (x : α → Subject) (l : List α) (w : Ev) :
    (l.foldl (fun w a => w.postIf (c a) (x a)) w).s = w.s := by
  induction l generalizing w with
  | nil => rfl
  | cons a l ih => exact (ih _).trans (Ev.postIf_s _ _ _)

/-- A new table: every section takes its membership of it once, and nothing else changes. -/
theorem Ev.setTopology_reached (t : Table 16 TopologyEntry) (w : Ev) :
    Noticed { w.s with topology := t } (w.setTopology t).s ∧ (w.setTopology t).s.view = w.s.view ∧
    ∀ n, Reached { w.s with topology := t } (w.setTopology t).s n
      ((w.s.sec n).takeMembership (!(membersIn t n).isEmpty)) := by
  unfold Ev.setTopology
  dsimp only
  rw [Ev.takeMemberships_s]
  generalize hv : (allPoints.foldl (fun w' p => w'.postIf (w.s.topology.get p != t.get p) (.point p))
    { w with s := { w.s with topology := t } }) = v
  have hs : v.s = { w.s with topology := t } := by rw [← hv]; exact foldl_postIf_s _ _ _ _
  refine ⟨?_, ?_, fun n => ?_⟩
  · rw [← hs]
    exact Noticed.foldl _ (fun u n => Ev.onSection_noticed n _ u) _ v
  · rw [foldl_onSection_view, hs]
  · have h := (foldl_onSection_reached readsView_membershipAt (List.nodup_finRange 12) v n).1 (List.mem_finRange n)
    rw [hs] at h
    exact h

/-! ## The body of SET TOPOLOGY -/

theorem sideField_of (n : Option SectionId) : sideField (byteOr (n.map Fin.val)) = some n := by
  revert n
  decide

theorem topologyBody_length (l : List TopologyItem) : (topologyBody l).length = 3 * l.length := by
  induction l with
  | nil => rfl
  | cons e l ih =>
    show (topologyBody l).length + 3 = 3 * (l.length + 1)
    omega

theorem triples_topologyBody (l : List TopologyItem) : triples (topologyBody l) =
    some (l.map fun e => (BitVec.ofNat 8 e.point.val, byteOr (e.entry.up.map Fin.val), byteOr (e.entry.down.map Fin.val))) := by
  induction l with
  | nil => rfl
  | cons e l ih =>
    show (triples (topologyBody l)).map _ = _
    rw [ih]
    rfl

theorem readAll_topologyItem (l : List TopologyItem) : readAll topologyItem
    (l.map fun e => (BitVec.ofNat 8 e.point.val, byteOr (e.entry.up.map Fin.val), byteOr (e.entry.down.map Fin.val))) =
      some l := by
  induction l with
  | nil => rfl
  | cons e l ih =>
    have hitem : topologyItem
        (BitVec.ofNat 8 e.point.val, byteOr (e.entry.up.map Fin.val), byteOr (e.entry.down.map Fin.val)) = some e := by
      unfold topologyItem
      rw [pointIndex_ofNat, sideField_of, sideField_of]
    rw [List.map_cons, readAll, hitem, ih]

theorem noRepeat_iff {α : Type} [DecidableEq α] (l : List α) : noRepeat l = true ↔ l.Nodup := by
  induction l with
  | nil => simp [noRepeat]
  | cons x l ih => simp [noRepeat, ih]

theorem actSetTopology_accepts {l : List TopologyItem} {w : Ev} (hd : w.s.device.state = .configuring) (h1 : 1 ≤ l.length)
    (h16 : l.length ≤ 16) (hl : (l.map TopologyItem.point).Nodup) :
    actSetTopology (topologyBody l) w =
      let table := withEntries w.s.topology l
      accept (w.setTopology table) (usedOnly w.s.topology table ++ usedOnly table w.s.topology) := by
  unfold actSetTopology
  rw [hd, triples_topologyBody]
  show require _ _ _ (require _ _ _ (withArgument (readAll topologyItem _) fun entries => _)) = _
  rw [readAll_topologyItem, List.length_map, decide_eq_true h1, decide_eq_true h16, withArgument_some,
    (noRepeat_iff _).mpr hl]
  unfold usedOnly withEntries
  simp only [Bool.and_comm]
  rfl

/-- Settles O51. -/
theorem setTopologyReplacesTheEntries : Obligations.SetTopologyReplacesTheEntries := by
  unfold Obligations.SetTopologyReplacesTheEntries
  intro tag l s h4 hd h1 h16 hl s' table
  let expected : State := (Ev.setTopology table ⟨s', [], []⟩).s
  obtain ⟨hnoticed, hview, hreached⟩ := Ev.setTopology_reached table ⟨s', [], []⟩
  have hexpected : expected = { s' with
      topology := table, sections := expected.sections, outputs := { s.outputs with clr := expected.outputs.clr } } := by
    unfold Noticed at hnoticed
    rw [hview] at hnoticed
    exact hnoticed
  have hport : expected.port .service = s'.port .service := by rw [hexpected]; rfl
  have hfits : (fun n => n % 3 == 0) (topologyBody l).length = true := by
    rw [topologyBody_length]
    exact beq_iff_eq.mpr (Nat.mul_mod_right 3 l.length)
  refine ⟨expected, _, rfl, takeCommand_accepts h4 rfl hfits (actSetTopology_accepts (w := ⟨s', [], []⟩) hd h1 h16 hl)
    (congrArg Port.sending hport) (congrArg Port.replies hport), hexpected, fun n => ?_⟩
  have hsec : expected.sec n =
    (s.sec n).stamped s.now ((s.sec n).takeMembership (!(membersIn table n).isEmpty)) := (hreached n).1
  refine ⟨fun hm hs => ?_, fun hm hs => ?_, fun hiff => ?_⟩
  · have hused : (!(membersIn table n).isEmpty) = true := by simpa using hm
    rw [hsec, hused, SectionRecord.stamped_of_state] <;> unfold SectionRecord.takeMembership <;> rw [if_pos rfl, if_pos hs]
    rw [hs]
    exact SectionState.noConfusion
  · have hunused : (!(membersIn table n).isEmpty) = false := by simpa using hm
    rw [hsec, hunused, SectionRecord.stamped_of_state] <;> unfold SectionRecord.takeMembership <;>
      rw [if_neg Bool.false_ne_true, if_neg hs]
    exact Ne.symm hs
  · have hkept : (s.sec n).takeMembership (!(membersIn table n).isEmpty) = s.sec n := by
      unfold SectionRecord.takeMembership
      by_cases hs : (s.sec n).state = .unused
      · rw [hiff.mpr hs, if_neg (by simp), if_pos hs]
      · rw [if_pos (by simpa using mt hiff.mp hs), if_neg hs]
    rw [hsec, hkept, SectionRecord.stamped_self]

/-! ## SET POINT MODE -/

theorem Mode.ofCode_code (m : Mode) : Mode.ofCode (BitVec.ofNat 8 m.code) = some m := by cases m <;> rfl

theorem pointIndex_out {b : Byte} (h : 16 ≤ b.toNat) : pointIndex b = none := dif_neg (Nat.not_lt.mpr h)

theorem actSetPointMode_checks {w : Ev} (hlive : w.s.device.state.live = true) (p : PointId) (m : Mode) :
    actSetPointMode [BitVec.ofNat 8 p.val, BitVec.ofNat 8 m.code] w =
      if w.s.device.state = .configuring then setStartMode p m w else changeModeCommand p m w := by
  show require w.s.device.state.live _ _ (withArgument (pointIndex _) fun p => withArgument (Mode.ofCode _) fun m => _) = _
  rw [hlive, pointIndex_ofNat, Mode.ofCode_code]
  rfl

theorem notCountingByte_eq (s : State) (p : PointId) : notCountingByte s p =
    if (s.point p).mode ≠ .counting then 1 else if (s.point p).health = .fault then 2 else if lit s p = false then 3
      else if s.device.state ≠ .running then 4 else 0 := by
  unfold notCountingByte notCountingBecause
  by_cases hm : (s.point p).mode = .counting
  · by_cases hf : (s.point p).health = .fault
    · rw [hm, hf]; rfl
    · rw [if_neg (by simp [hm]), if_neg (by simp [hf]), if_neg (not_not_intro hm), if_neg hf]
      by_cases hl : lit s p = false
      · rw [hl]; rfl
      · rw [Bool.of_not_eq_false hl]
        cases s.device.state <;> rfl
  · rw [if_pos (by simp [hm]), if_pos hm]
    rfl

theorem notCountingByte_of_ready {s : State} {p : PointId} (hm : (s.point p).mode = .counting)
    (hf : (s.point p).health ≠ .fault) (hl : lit s p = true) :
    notCountingByte s p = if s.device.state = .running then 0 else 4 := by
  rw [notCountingByte_eq, if_neg (not_not_intro hm), if_neg hf, hl, if_neg (Bool.false_ne_true ∘ Eq.symm)]
  exact ite_not ..

/-- The reply of a mode command whose point does not end in COUNTING. -/
theorem modeReply_of_ne {p : PointId} {m : Mode} {w : Ev} (h : (w.s.point p).mode = m) (hm : m ≠ .counting) :
    modeReply p w = accept w [BitVec.ofNat 8 p.val, BitVec.ofNat 8 m.code, 1] := by
  unfold modeReply
  rw [notCountingByte_eq, h, if_pos hm]
  rfl

theorem State.settled_mode (s : State) (p : PointId) : (s.settled.point p).mode = (s.point p).mode := by
  have h := s.settled_point p
  unfold Point.Repaired at h
  rw [h]

/-- A point goes dark out of use: it is no longer counting. -/
theorem Ev.takeOutOfUse_s {p : PointId} {w : Ev} (hm : (w.s.point p).mode = .outOfUse) (was : Bool) :
    (w.takeOutOfUse p was).s =
      (if was then w.s.sendDisturbance p .pointWithdrawn else w.s).darken .pointWithdrawn p := by
  have hnotified : ∀ v : Ev, (v.s.point p).mode = .outOfUse →
      ((v.resetMachine p).loseEligibility p false).s = v.s.darken .pointWithdrawn p := by
    intro v hv
    have hnot : wasCounting v.s p = false := by unfold wasCounting; rw [hv]; rfl
    rw [← Ev.darkenPoint_s]
    unfold Ev.darkenPoint
    rw [hnot]
    rfl
  unfold Ev.takeOutOfUse
  cases was with
  | false => exact hnotified w hm
  | true =>
    refine (hnotified (w.disturbAll p .pointWithdrawn) ?_).trans (by rw [Ev.disturbAll_s]; rfl)
    rw [Ev.disturbAll_s, (w.s.sendDisturbance_reaches p .pointWithdrawn).1.point, hm]

theorem Ev.bringIntoUse_s {p : PointId} {w : Ev} (hm : (w.s.point p).mode ≠ .outOfUse) :
    (w.bringIntoUse p).s = if lit w.s p then w.s.light p else w.s := by
  have huse : inUse w.s p = true := bne_iff_ne.mpr hm
  unfold Ev.bringIntoUse
  by_cases hl : lit w.s p = true
  · rw [if_pos hl, if_pos hl, ← Ev.lightPoint_s]
    unfold Ev.lightPoint
    rw [huse]
    rfl
  · rw [if_neg hl, if_neg hl, if_neg]
    unfold eligible
    rw [Bool.of_not_eq_true hl, Bool.and_false]
    exact Bool.false_ne_true

section
variable {p : PointId} {w : Ev}

theorem Ev.changeMode_withdraws (h : (w.s.point p).mode = .counting) : (w.changeMode p .supervising).s =
    let moved := w.s.setPoint p { w.s.point p with mode := .supervising }
    if counting w.s p then moved.sendDisturbance p .pointWithdrawn else moved := by
  unfold Ev.changeMode
  dsimp only
  rw [h]
  dsimp only
  cases counting w.s p with
  | false => rw [if_neg Bool.false_ne_true, if_neg Bool.false_ne_true, Ev.onPoint_setPoint]
  | true => rw [if_pos rfl, if_pos rfl, Ev.disturbAll_s, Ev.onPoint_setPoint]

theorem Ev.changeMode_toOut (h : (w.s.point p).mode ≠ .outOfUse) : (w.changeMode p .outOfUse).s =
    let moved := w.s.setPoint p { w.s.point p with mode := .outOfUse }
    (if counting w.s p then moved.sendDisturbance p .pointWithdrawn else moved).darken .pointWithdrawn p := by
  have hout : w.changeMode p .outOfUse =
      (w.onPoint p (fun pt => { pt with mode := .outOfUse })).takeOutOfUse p (counting w.s p) := by
    unfold Ev.changeMode
    cases hm : (w.s.point p).mode with
    | outOfUse => exact absurd hm h
    | supervising => rfl
    | counting => rfl
  rw [hout, Ev.takeOutOfUse_s (by rw [Ev.onPoint_setPoint, State.setPoint_self]), Ev.onPoint_setPoint]

theorem Ev.changeMode_intoUse (h : (w.s.point p).mode = .outOfUse) : (w.changeMode p .supervising).s =
    let moved := w.s.setPoint p { w.s.point p with mode := .supervising }
    if lit w.s p then moved.light p else moved := by
  have hin : w.changeMode p .supervising =
      (w.onPoint p (fun pt => { pt with mode := .supervising })).bringIntoUse p := by
    unfold Ev.changeMode
    rw [h]
  rw [hin, Ev.bringIntoUse_s (by rw [Ev.onPoint_setPoint, State.setPoint_self]; exact Mode.noConfusion), Ev.onPoint_setPoint]
  rfl

theorem Ev.changeMode_toCounting (h : (w.s.point p).mode = .supervising) :
    (w.changeMode p .counting).s = w.s.setPoint p { w.s.point p with mode := .counting } := by
  unfold Ev.changeMode
  dsimp only
  rw [h]
  exact Ev.onPoint_setPoint p _ w
end

/-- What the image stores of a point, and the pair that waits to be applied. -/
def Point.stored (pt : Point) : Mode × PointParams × Option PointParams := (pt.startMode, pt.params, pt.staged)

/-- The mode of a point stays, and what is stored of it. -/
def Point.SameModes (a b : Point) : Prop := b.mode = a.mode ∧ b.stored = a.stored

theorem Point.SameModes.trans {a b c : Point} (h : a.SameModes b) (h' : b.SameModes c) : a.SameModes c :=
  ⟨h'.1.trans h.1, h'.2.trans h.2⟩

theorem Ev.startEpoch_modes (p : PointId) (x : Sys) (w : Ev) : (w.s.point p).SameModes ((w.startEpoch p x).s.point p) := by
  have h := Ev.onProofStatus_point p (Point.onProof x ProofStatus.epochStart) w
  show (w.s.point p).SameModes ((w.onProofStatus p (Point.onProof x ProofStatus.epochStart)).s.point p)
  rw [h]
  cases x <;> exact ⟨rfl, rfl⟩

theorem State.light_modes (p : PointId) (s : State) : (s.point p).SameModes ((s.light p).point p) := by
  have hinitialised : (s.point p).SameModes
      ((if inUse s p then Ev.initialise p ⟨s, [], []⟩ else ⟨s, [], []⟩ : Ev).s.point p) := by
    split
    · have h := Ev.initialise_movedTo p ⟨s, [], []⟩
      unfold Point.MovedTo at h
      rw [h]
      exact ⟨rfl, rfl⟩
    · exact ⟨rfl, rfl⟩
  show (s.point p).SameModes ((Ev.lightPoint p ⟨s, [], []⟩).s.point p)
  unfold Ev.lightPoint
  dsimp only
  generalize (if inUse s p then Ev.initialise p ⟨s, [], []⟩ else ⟨s, [], []⟩ : Ev) = v at hinitialised ⊢
  split
  · exact hinitialised.trans ((Ev.startEpoch_modes p .a _).trans (Ev.startEpoch_modes p .b _))
  · exact hinitialised

theorem Ev.changeMode_port (p : PointId) (m : Mode) (i : PortId) (w : Ev) :
    (w.changeMode p m).s.port i = w.s.port i := by
  have h := (Ev.changeMode_changes p m w).fixed
  cases i
  · exact h.2.2.2.2.1
  · exact h.2.2.2.2.2.1

theorem bothProven_iff (s : State) (p : PointId) : bothProven s p = true ↔
    eligible s p = true ∧ (s.point p).proofA.proven = true ∧ (s.point p).proofB.proven = true := by
  unfold bothProven
  rw [Bool.and_eq_true, Bool.and_eq_true, and_assoc]

section
variable {p : PointId} {w : Ev}

theorem supervisingToCounting_of_fault (h : (w.s.point p).health = .fault) : supervisingToCounting p w =
    refuse .pointFault [byteOr ((w.s.point p).faultCause.map FaultCause.code)] := by
  unfold supervisingToCounting
  rw [h]
  rfl

variable (h : (w.s.point p).health ≠ .fault)
include h

theorem supervisingToCounting_of_unproven (hp : bothProven w.s p = false) :
    supervisingToCounting p w = refuse .notProven (notProvenData w.s p) := by
  unfold supervisingToCounting
  rw [bne_iff_ne.mpr h, hp]
  rfl

variable (hp : bothProven w.s p = true)
include hp

theorem supervisingToCounting_of_active (hm : (w.s.point p).machine ≠ .idle) :
    supervisingToCounting p w = refuse .pointActive [byte (w.s.point p).machine.code] := by
  unfold supervisingToCounting
  rw [bne_iff_ne.mpr h, hp, beq_eq_false_iff_ne.mpr hm]
  rfl

theorem supervisingToCounting_of_idle (hm : (w.s.point p).machine = .idle) :
    supervisingToCounting p w = modeReply p (w.changeMode p .counting) := by
  unfold supervisingToCounting
  rw [bne_iff_ne.mpr h, hp, hm]
  rfl
end

/-- Settles O52. -/
theorem setPointModeFollowsItsTable : Obligations.SetPointModeFollowsItsTable := by
  unfold Obligations.SetPointModeFollowsItsTable
  intro tag p m s h4 s' pt index command answers accepted moved notified proof
  have hlive : ∀ {st : DeviceState}, s.device.state = st → st.live = true → s'.device.state.live = true := by
    intro st hd hst
    rw [show s'.device.state = st from hd]
    exact hst
  refine ⟨fun hd => ?_, fun hd => ?_⟩
  · refine ⟨_, rfl, takeCommand_runs h4 rfl rfl
      ⟨Ev.onPoint p (fun pt => { pt with startMode := m }) ⟨s', [], []⟩, ?_, Ev.onPoint_setPoint p _ ⟨s', [], []⟩⟩ rfl rfl⟩
    rw [actSetPointMode_checks (w := ⟨s', [], []⟩) (hlive hd rfl), if_pos (by exact hd)]
    rfl
  · have hact : ∀ (w : Ev), w = ⟨s', [], []⟩ → actSetPointMode [index, BitVec.ofNat 8 m.code] w = changeModeCommand p m w := by
      rintro w rfl
      rw [actSetPointMode_checks (w := ⟨s', [], []⟩) (hd.elim (fun h => hlive h rfl) (fun h => hlive h rfl)), if_neg]
      show s.device.state ≠ .configuring
      rcases hd with hd | hd <;> rw [hd] <;> exact DeviceState.noConfusion
    have hrefused : ∀ {c d}, changeModeCommand p m ⟨s', [], []⟩ = refuse c d → answers (.refused c d) s' := fun h =>
      ⟨_, rfl, takeCommand_refuses h4 rfl rfl ((hact _ rfl).trans h)⟩
    have hsettled : ∀ {expected : State}, m ≠ .counting → (expected.point p).mode = m →
        changeModeCommand p m ⟨s', [], []⟩ = modeReply p (Ev.changeMode p m ⟨s', [], []⟩).settle →
        (Ev.changeMode p m ⟨s', [], []⟩).s = expected → answers (accepted 1) expected.settled := by
      intro expected hm hmode hcommand hwork
      refine ⟨_, rfl, takeCommand_settled h4 rfl rfl ⟨Ev.changeMode p m ⟨s', [], []⟩, ?_, hwork⟩
        (by rw [← hwork]; exact Ev.changeMode_port p m .service ⟨s', [], []⟩)⟩
      refine (hact _ rfl).trans (hcommand.trans (modeReply_of_ne ?_ hm))
      rw [Ev.settle_s, hwork, State.settled_mode, hmode]
    have hmoved : (moved.point p).mode = m := by rw [State.setPoint_self]
    have hnotified : (notified.point p).mode = m := by
      unfold notified
      split
      · rw [(moved.sendDisturbance_reaches p .pointWithdrawn).1.point, hmoved]
      · exact hmoved
    refine ⟨fun hm => ?_, fun hm hto => ?_, fun hm hto => ?_, fun hm hto => ?_, fun hm hto => hrefused ?_, fun hm hto => ?_⟩
    · refine ⟨_, rfl, takeCommand_runs h4 rfl rfl ⟨⟨s', [], []⟩, (hact _ rfl).trans ?_, rfl⟩ rfl rfl⟩
      have hsame : changeModeCommand p m ⟨s', [], []⟩ = modeReply p ⟨s', [], []⟩ := by
        unfold changeModeCommand
        rw [show (State.point s' p).mode = m from hm]
        cases m <;> rfl
      rw [hsame, modeReply, notCountingByte_eq, show (State.point s' p).mode = m from hm]
      rfl
    · subst hto
      refine hsettled Mode.noConfusion hnotified ?_ (Ev.changeMode_withdraws (w := ⟨s', [], []⟩) hm)
      unfold changeModeCommand
      rw [show (State.point s' p).mode = .counting from hm]
    · subst hto
      refine hsettled Mode.noConfusion ?_ ?_ (Ev.changeMode_toOut (w := ⟨s', [], []⟩) hm)
      · obtain ⟨a, b, hpoint, -⟩ := notified.darken_point .pointWithdrawn p
        rw [hpoint]
        exact hnotified
      · unfold changeModeCommand
        cases hb : (State.point s' p).mode with
        | outOfUse => exact absurd hb hm
        | supervising => rfl
        | counting => rfl
    · subst hto
      refine hsettled Mode.noConfusion ?_ ?_ (Ev.changeMode_intoUse (w := ⟨s', [], []⟩) hm)
      · split
        · exact (State.light_modes p moved).1.trans hmoved
        · exact hmoved
      · unfold changeModeCommand
        rw [show (State.point s' p).mode = .outOfUse from hm]
    · subst hto
      unfold changeModeCommand
      rw [show (State.point s' p).mode = .outOfUse from hm]
      rfl
    · subst hto
      have hcommand : changeModeCommand p .counting ⟨s', [], []⟩ = supervisingToCounting p ⟨s', [], []⟩ := by
        unfold changeModeCommand
        rw [show (State.point s' p).mode = .supervising from hm]
      refine ⟨fun hf => hrefused ?_, fun hf hnot => hrefused ?_, fun hf hl ha hb => ?_⟩
      · rw [hcommand, supervisingToCounting_of_fault (w := ⟨s', [], []⟩) hf]
        rfl
      · rw [hcommand, supervisingToCounting_of_unproven (w := ⟨s', [], []⟩) hf]
        · rfl
        · refine Bool.eq_false_iff.mpr fun hproven => ?_
          obtain ⟨he, ha, hb⟩ := (bothProven_iff s' p).mp hproven
          have hl : lit s p = true := by
            have he' : eligible s p = true := he
            unfold eligible at he'
            exact (Bool.and_eq_true_iff.mp he').2
          rcases hnot with h | h | h
          · exact Bool.false_ne_true (h.symm.trans hl)
          · exact Bool.false_ne_true (h.symm.trans ha)
          · exact Bool.false_ne_true (h.symm.trans hb)
      · have hproven : bothProven s' p = true := (bothProven_iff s' p).mpr ⟨?_, ha, hb⟩
        · refine ⟨fun hx => hrefused ?_, fun hx => ?_⟩
          · rw [hcommand, supervisingToCounting_of_active (w := ⟨s', [], []⟩) hf hproven hx]
            rfl
          · have hwork := Ev.changeMode_toCounting (w := ⟨s', [], []⟩) hm
            refine ⟨_, rfl, takeCommand_runs h4 rfl rfl ⟨Ev.changeMode p .counting ⟨s', [], []⟩, (hact _ rfl).trans ?_, hwork⟩
              rfl rfl⟩
            rw [hcommand, supervisingToCounting_of_idle (w := ⟨s', [], []⟩) hf hproven hx]
            unfold modeReply
            have hpoint : moved.point p = { pt with mode := .counting } := State.setPoint_self _ _ _
            rw [show (Ev.changeMode p .counting ⟨s', [], []⟩).s = moved from hwork,
              notCountingByte_of_ready (s := moved) hmoved (by rw [hpoint]; exact hf) hl, hmoved]
            rfl
        · show (inUse s p && (s.point p).health != .fault && lit s p) = true
          rw [hl, bne_iff_ne.mpr hf, inUse, hm]
          rfl

/-! ## SET POINT PARAMETERS -/

theorem pairApplicable_iff (s : State) (p : PointId) : pairApplicable s p = true ↔
    (s.point p).machine = .idle ∧ underProof s p .a = false ∧ underProof s p .b = false := by
  unfold pairApplicable pointUnderProof
  rw [Bool.and_eq_true, beq_iff_eq, Bool.not_eq_true', Bool.or_eq_false_iff]

theorem actSetPointParameters_checks {w : Ev} (hlive : w.s.device.state.live = true) (point hi lo filter : Byte) :
    actSetPointParameters [point, hi, lo, filter] w =
      withArgument (pointIndex point) fun p => pointParamsChecked p (word hi lo) filter.toNat w := by
  show require w.s.device.state.live _ _ _ = _
  rw [hlive]
  rfl

/-- Settles O53. -/
theorem setPointParametersAppliesOrStages : Obligations.SetPointParametersAppliesOrStages := by
  unfold Obligations.SetPointParametersAppliesOrStages
  intro tag hi lo filter p s s' q clamped data answers
  refine ⟨fun h4 hlive => ?_, fun point => ⟨fun h4 hdead => ?_, fun h4 => ⟨_, rfl, takeCommand_wrongPort h4 rfl⟩⟩⟩
  · have hact := actSetPointParameters_checks (w := ⟨s', [], []⟩) hlive
    have hindex := (hact (BitVec.ofNat 8 p.val) hi lo filter).trans (by rw [pointIndex_ofNat, withArgument_some])
    have hmask : [byte p.val] ++ bytes2 q.spacing ++ [byte q.filter,
        byte (flag (q.spacing != word hi lo) 0 + flag (q.filter != filter.toNat) 1)] =
        [BitVec.ofNat 8 p.val] ++ bytes2 q.spacing ++ [byte q.filter, clamped] := by
      rw [flag_bne, flag_bne]
      rfl
    have hdata : ∀ b : Byte, [BitVec.ofNat 8 p.val] ++ bytes2 q.spacing ++ [byte q.filter, clamped] ++ [b] = data b := by
      intro b
      rw [List.append_assoc]
      rfl
    refine ⟨fun hm ha hb => ?_, fun hnot => ?_, fun point hout => ?_⟩
    · have happly : pairApplicable s' p = true := (pairApplicable_iff s' p).mpr ⟨hm, ha, hb⟩
      refine ⟨_, rfl, takeCommand_settled h4 rfl rfl ⟨Ev.onPoint p (fun pt => { pt with params := q, staged := none })
        ⟨s', [], []⟩, hindex.trans ?_, Ev.onPoint_setPoint p _ ⟨s', [], []⟩⟩ rfl⟩
      unfold pointParamsChecked
      dsimp only
      rw [if_pos happly, ← hdata, ← hmask]
      rfl
    · have hwait : ¬pairApplicable s' p = true := fun h => by
        obtain ⟨hm, ha, hb⟩ := (pairApplicable_iff s' p).mp h
        rcases hnot with h | h | h
        · exact h hm
        · exact Bool.false_ne_true (ha.symm.trans h)
        · exact Bool.false_ne_true (hb.symm.trans h)
      refine ⟨_, rfl, takeCommand_runs h4 rfl rfl ⟨Ev.onPoint p (fun pt => { pt with staged := some q })
        ⟨s', [], []⟩, hindex.trans ?_, Ev.onPoint_setPoint p _ ⟨s', [], []⟩⟩ rfl rfl⟩
      unfold pointParamsChecked
      dsimp only
      rw [if_neg hwait, ← hdata, ← hmask]
      rfl
    · refine ⟨_, rfl, takeCommand_refuses h4 rfl rfl ((hact point hi lo filter).trans ?_)⟩
      rw [pointIndex_out hout]
      rfl
  · refine ⟨_, rfl, takeCommand_refuses h4 rfl rfl ?_⟩
    show require (State.device s').state.live _ _ _ = _
    rw [show (State.device s').state.live = false from hdead]
    rfl

/-! ## CLEAR POINT FAULT -/

section
variable {p : PointId} {w : Ev}

/-- A fault cleared at a dark point. -/
theorem Ev.clearFault_dark (hl : lit w.s p = false) :
    (w.clearFault p).s = w.s.setPoint p (w.s.point p).clearFault := by
  have hdark : lit (w.onPoint p Point.clearFault).s p = false := by rw [Ev.onPoint_setPoint]; exact hl
  unfold Ev.clearFault
  dsimp only
  rw [hdark, Bool.and_false, if_neg Bool.false_ne_true, hdark, if_neg Bool.false_ne_true, Ev.onPoint_setPoint]

theorem Ev.clearFault_lit (hl : lit w.s p = true) (hm : (w.s.point p).mode = .outOfUse) :
    (w.clearFault p).s = (w.s.setPoint p (w.s.point p).clearFault).light p := by
  let v : Ev := w.onPoint p Point.clearFault
  have hv : v.s = w.s.setPoint p (w.s.point p).clearFault := Ev.onPoint_setPoint p _ w
  have hlit : lit v.s p = true := by rw [hv]; exact hl
  have hpoint : v.s.point p = (w.s.point p).clearFault := by rw [hv, State.setPoint_self]
  have huse : inUse v.s p = true := by unfold inUse; rw [hpoint]; rfl
  have hkept : lit (v.initialise p).s p = true := by rw [(Ev.initialise_around p v).lit]; exact hlit
  have helig : eligible (v.initialise p).s p = true := by
    rw [Ev.initialise_eligible]
    unfold eligible
    rw [huse, hpoint, hlit]
    rfl
  have hclear : w.clearFault p = (v.initialise p).gainEligibility p := by
    unfold Ev.clearFault
    dsimp only
    rw [if_pos (Bool.and_eq_true_iff.mpr ⟨beq_iff_eq.mpr hm, hlit⟩)]
    exact if_pos hkept
  have hlight : v.lightPoint p = (v.initialise p).gainEligibility p := by
    unfold Ev.lightPoint
    dsimp only
    rw [if_pos huse]
    exact if_pos helig
  rw [← hv, ← Ev.lightPoint_s, hclear, hlight]

theorem Ev.clearFault_used (hl : lit w.s p = true) (hm : (w.s.point p).mode ≠ .outOfUse) :
    w.clearFault p = (w.onPoint p Point.clearFault).gainEligibility p := by
  have hlit : lit (w.onPoint p Point.clearFault).s p = true := by rw [Ev.onPoint_setPoint]; exact hl
  unfold Ev.clearFault
  dsimp only
  rw [beq_eq_false_iff_ne.mpr hm, Bool.false_and, if_neg Bool.false_ne_true, if_pos hlit]
end

theorem actClearPointFault_accepts {w : Ev} {p : PointId} (hlive : w.s.device.state.live = true)
    (h : (w.s.point p).health = .fault) :
    actClearPointFault [BitVec.ofNat 8 p.val] w = accept (w.clearFault p).settle [BitVec.ofNat 8 p.val, 1, 0] := by
  show require w.s.device.state.live _ _ (withArgument (pointIndex _) fun p =>
    require ((w.s.point p).health == .fault) _ _ _) = _
  rw [hlive, pointIndex_ofNat, withArgument_some, h]
  rfl

/-- Settles O54. -/
theorem clearPointFaultBringsThePointBack : Obligations.ClearPointFaultBringsThePointBack := by
  unfold Obligations.ClearPointFaultBringsThePointBack
  intro tag p s h4 hlive hf s' cleared begun answers
  have hanswers : ∀ {expected : State}, (Ev.clearFault p ⟨s', [], []⟩).s = expected → answers expected := by
    rintro expected rfl
    exact ⟨_, rfl, takeCommand_settled h4 rfl rfl
      ⟨_, actClearPointFault_accepts (w := ⟨s', [], []⟩) hlive hf, rfl⟩ (Ev.clearFault_changes p ⟨s', [], []⟩).fixed.2.2.2.2.2.1⟩
  refine ⟨fun hl => hanswers (Ev.clearFault_dark (w := ⟨s', [], []⟩) hl),
    fun hl hm => hanswers (Ev.clearFault_lit (w := ⟨s', [], []⟩) hl hm), fun hl hm ho hq => hanswers ?_⟩
  rw [Ev.clearFault_used (w := ⟨s', [], []⟩) hl hm]
  have hv : (Ev.onPoint p Point.clearFault ⟨s', [], []⟩).s = s'.setPoint p cleared := Ev.onPoint_setPoint p _ ⟨s', [], []⟩
  rw [Ev.gainEligibility_s, hv]
  · rw [State.setPoint_self, State.setPoint_setPoint]
    rfl
  · intro x
    rw [hv, State.setPoint_self]
    exact ⟨by cases x <;> [exact ho .a; exact ho .b], hq x⟩

end Sys2Proof.Machine
end

section
/-! START (O59) and HALT (O60). -/

namespace Sys2Proof.Machine

/-! ## What the work on points leaves of the supplies and of the device -/

/-- The groups, the sequencer, the device record, the run output and the time stay. -/
structure SameSupplies (s t : State) : Prop where
  groups : t.groups = s.groups
  sequencer : t.sequencer = s.sequencer
  device : t.device = s.device
  run : t.outputs.run = s.outputs.run
  runHigh : t.outputs.runHigh = s.outputs.runHigh
  now : t.now = s.now

theorem SameSupplies.refl (s : State) : SameSupplies s s := ⟨rfl, rfl, rfl, rfl, rfl, rfl⟩

theorem SameSupplies.trans {s t u : State} (h : SameSupplies s t) (h' : SameSupplies t u) : SameSupplies s u :=
  ⟨h'.groups.trans h.groups, h'.sequencer.trans h.sequencer, h'.device.trans h.device, h'.run.trans h.run,
    h'.runHigh.trans h.runHigh, h'.now.trans h.now⟩

theorem SameSupplies.group {s t : State} (h : SameSupplies s t) (g : GroupId) : t.group g = s.group g :=
  congrArg (fun u => Table.get u g) h.groups

theorem Noticed.sameSupplies {s t : State} (h : Noticed s t) : SameSupplies s t := by
  rw [h]; exact ⟨rfl, rfl, rfl, rfl, rfl, rfl⟩

theorem SameSupplies.foldl {α : Type} {f : State → α → State} (hf : ∀ s a, SameSupplies s (f s a)) (l : List α) (s : State) :
    SameSupplies s (l.foldl f s) := by
  induction l generalizing s with
  | nil => exact .refl s
  | cons a l ih => exact (hf s a).trans (ih _)

/-! ## Work on one point and on its proofs -/

/-- The work changes the record of point `p`, the view, the section records, the clear outputs, the channel and the queue
alone. -/
def AroundProofs (p : PointId) (s t : State) : Prop := Around p { s with channel := t.channel, queue := t.queue } t

section
variable {p : PointId} {s t u : State}

theorem AroundProofs.trans (h : AroundProofs p s t) (h' : AroundProofs p t u) : AroundProofs p s u :=
  Around.trans (Around.withProofs h u.channel u.queue) h'

theorem Around.proofs (h : Around p s t) : AroundProofs p s t := by
  unfold AroundProofs
  rw [h.channel, h.queue]
  exact h

theorem AroundProofs.of_queue (p : PointId) (s : State) (q : List SystemId) : AroundProofs p s { s with queue := q } :=
  Around.refl p { s with queue := q }

theorem AroundProofs.sameSupplies (h : AroundProofs p s t) : SameSupplies s t := by
  unfold AroundProofs Around at h
  rw [h]
  exact ⟨rfl, rfl, rfl, rfl, rfl, rfl⟩

theorem AroundProofs.point_ne (h : AroundProofs p s t) {q : PointId} (hq : q ≠ p) : t.point q = s.point q :=
  Around.point_ne h hq
end

theorem Ev.startEpoch_aroundProofs (p : PointId) (x : Sys) (w : Ev) : AroundProofs p w.s (w.startEpoch p x).s :=
  (Ev.onProofStatus_around p _ w).proofs.trans (.of_queue p _ _)

theorem State.light_aroundProofs (p : PointId) (s : State) : AroundProofs p s (s.light p) := by
  have hinitialised : AroundProofs p s (if inUse s p then Ev.initialise p ⟨s, [], []⟩ else ⟨s, [], []⟩ : Ev).s := by
    split
    · exact (Ev.initialise_around p ⟨s, [], []⟩).proofs
    · exact (Around.refl p s).proofs
  show AroundProofs p s (Ev.lightPoint p ⟨s, [], []⟩).s
  unfold Ev.lightPoint
  dsimp only
  generalize (if inUse s p then Ev.initialise p ⟨s, [], []⟩ else ⟨s, [], []⟩ : Ev) = v at hinitialised ⊢
  split
  · exact hinitialised.trans ((Ev.startEpoch_aroundProofs p .a _).trans (Ev.startEpoch_aroundProofs p .b _))
  · exact hinitialised

/-! ## A change of mode -/

/-- A point whose mode is changed: it alone changes, and it has the mode and keeps what is stored of it. -/
theorem Ev.changeMode_changesPoint (p : PointId) (m : Mode) (w : Ev) :
    AroundProofs p w.s (w.changeMode p m).s ∧ ((w.changeMode p m).s.point p).mode = m ∧
      ((w.changeMode p m).s.point p).stored = (w.s.point p).stored := by
  let v : Ev := w.onPoint p (fun pt => { pt with mode := m })
  have hv : AroundProofs p w.s v.s := (Ev.onPoint_around p _ w).proofs
  have hpoint : v.s.point p = { w.s.point p with mode := m } := Ev.onPoint_point p _ w
  have hkept : ∀ u : State, AroundProofs p v.s u → (v.s.point p).SameModes (u.point p) →
      AroundProofs p w.s u ∧ (u.point p).mode = m ∧ (u.point p).stored = (w.s.point p).stored := fun u h hm =>
    ⟨hv.trans h, by rw [hm.1, hpoint], by rw [hm.2, hpoint]; rfl⟩
  have hsame := hkept v.s (Around.refl p v.s).proofs ⟨rfl, rfl⟩
  have hin : m ≠ .outOfUse → AroundProofs p w.s (v.bringIntoUse p).s ∧ ((v.bringIntoUse p).s.point p).mode = m ∧
      ((v.bringIntoUse p).s.point p).stored = (w.s.point p).stored := fun hm => by
    rw [Ev.bringIntoUse_s (by rw [hpoint]; exact hm)]
    split
    · exact hkept _ (State.light_aroundProofs p v.s) (State.light_modes p v.s)
    · exact hsame
  have hnotified : ∀ was : Bool, Noticed v.s (if was then v.s.sendDisturbance p .pointWithdrawn else v.s) := fun was => by
    split
    · exact (v.s.sendDisturbance_reaches p .pointWithdrawn).1
    · exact .refl _
  have hout : m = .outOfUse → ∀ was, AroundProofs p w.s (v.takeOutOfUse p was).s ∧
      ((v.takeOutOfUse p was).s.point p).mode = m ∧
      ((v.takeOutOfUse p was).s.point p).stored = (w.s.point p).stored := fun hm was => by
    have hnoticed := hnotified was
    rw [Ev.takeOutOfUse_s (by rw [hpoint]; exact hm)]
    refine hkept _ (hnoticed.around.proofs.trans (State.darken_around _ _ _)) ?_
    obtain ⟨a, b, hdark, -⟩ := State.darken_point .pointWithdrawn p (if was then v.s.sendDisturbance p .pointWithdrawn else v.s)
    rw [hdark, hnoticed.point]
    exact ⟨rfl, rfl⟩
  unfold Ev.changeMode
  dsimp only
  cases hb : (w.s.point p).mode <;> cases m
  case outOfUse.outOfUse | supervising.supervising | supervising.counting | counting.counting => exact hsame
  case outOfUse.supervising | outOfUse.counting => exact hin Mode.noConfusion
  case supervising.outOfUse | counting.outOfUse => exact hout rfl _
  case counting.supervising =>
    dsimp only
    split
    · rw [Ev.disturbAll_s]
      have hnoticed := (v.s.sendDisturbance_reaches p .pointWithdrawn).1
      exact hkept _ hnoticed.around.proofs (by rw [hnoticed.point]; exact ⟨rfl, rfl⟩)
    · exact hsame

/-- Every point of a list takes its start mode. -/
theorem foldl_startModes {l : List PointId} (hl : l.Nodup) (w : Ev) :
    let t := (l.foldl (fun w p => w.changeMode p (w.s.point p).startMode) w).s
    SameSupplies w.s t ∧ (∀ p ∈ l, (t.point p).mode = (w.s.point p).startMode) ∧ ∀ p, p ∉ l → t.point p = w.s.point p := by
  induction l generalizing w with
  | nil => exact ⟨.refl _, fun p hp => absurd hp List.not_mem_nil, fun _ _ => rfl⟩
  | cons q l ih =>
    obtain ⟨hq, hl⟩ := List.nodup_cons.mp hl
    obtain ⟨haround, hmode, -⟩ := Ev.changeMode_changesPoint q (w.s.point q).startMode w
    obtain ⟨hsame, hin, hout⟩ := ih hl (w.changeMode q (w.s.point q).startMode)
    refine ⟨haround.sameSupplies.trans hsame, fun p hp => ?_, fun p hp => ?_⟩
    · rcases List.mem_cons.mp hp with rfl | hp
      · exact (congrArg Point.mode (hout p hq)).trans hmode
      · have hne : p ≠ q := fun e => hq (e ▸ hp)
        exact (hin p hp).trans (congrArg Point.startMode (haround.point_ne hne))
    · obtain ⟨hne, hp⟩ := not_or.mp (mt List.mem_cons.mpr hp)
      exact (hout p hp).trans (haround.point_ne hne)

theorem Ev.applyStartModes_modes (w : Ev) :
    SameSupplies w.s w.applyStartModes.s ∧ ∀ p, (w.applyStartModes.s.point p).mode = (w.s.point p).startMode := by
  obtain ⟨hsame, hmodes, -⟩ := foldl_startModes (List.nodup_finRange 16) w
  exact ⟨hsame, fun p => hmodes p (List.mem_finRange p)⟩

/-! ## The end of the event -/

/-- An event that leaves the power-on or the power-off sequence with a turn to come: what its end leaves. -/
theorem State.settled_of_turn {s : State} {g : GroupId} (ha : s.sequencer.activity = .powerOn ∨ s.sequencer.activity = .powerOff)
    (hn : s.sequencer.nextTurn = some g) : SameSupplies s s.settled ∧ s.settled.sections = s.sections := by
  have hrunning : ¬s.activityComplete := by
    unfold State.activityComplete
    rcases ha with ha | ha <;> rw [ha, hn] <;> exact fun h => Option.some_ne_none g h.1
  rw [State.settled_of_running hrunning, Ev.settleProofs_frame]
  exact ⟨⟨rfl, rfl, rfl, rfl, rfl, rfl⟩, rfl⟩

theorem Leaves.sameSupplies {s t : State} (h : Leaves s t) : SameSupplies s t := by
  rw [h.1]; exact ⟨rfl, rfl, rfl, rfl, rfl, rfl⟩

theorem Leaves.sec {s t : State} (h : Leaves s t) (n : SectionId) : t.sec n = s.sec n := by rw [h.1]; rfl

/-! ## The power-on sequence begins -/

/-- The first turn of a sequence, the next turn being `next`. -/
theorem Ev.beginSequence_s {on : Bool} {g : GroupId} {a : Activity} {w : Ev} {next : GroupId × Nat}
    (hnext : (turnsAfter on w.s.sequencer.params g).head? = some next) (h0 : next.2 ≠ 0) :
    ((w.onSequencer (fun q => { q with activity := a })).turn on g).s =
      { (if on then (w.onSequencer (fun q => { q with activity := a })).turnOn g
          else (w.onSequencer (fun q => { q with activity := a })).turnOff g).s with
        sequencer := { w.s.sequencer with
          activity := a, nextTurn := some next.1, turnTimer := some ⟨w.s.now, 100 * next.2⟩ } } :=
  Ev.turn_s (w := w.onSequencer (fun q => { q with activity := a })) hnext fun n hn => by
    cases hn; exact h0

theorem State.groupTimed_group (g h : GroupId) (st : GroupState) (k : Nat) (s : State) : (s.groupTimed g st k).group h =
    if h = g then { s.group g with
      state := st, timer := some ⟨s.now, k⟩, failReason := none, forced := none, lastChange := s.now } else s.group h :=
  Table.get_set ..

/-- The power-on sequence begins: group 0 has its turn, and group 1 is next. -/
theorem Ev.startPowerOn_s {w : Ev} (h0 : w.s.sequencer.params.delay01 ≠ 0) : w.startPowerOn.s =
    { (if (w.s.group 0).state = .off then
        if (w.s.group 0).good then w.s.groupTimed 0 .settling (100 * w.s.sequencer.params.settle)
        else w.s.groupTimed 0 .enabling 10000
      else w.s) with
      sequencer := { w.s.sequencer with
        activity := .powerOn, nextTurn := some 1, turnTimer := some ⟨w.s.now, 100 * w.s.sequencer.params.delay01⟩ } } := by
  have h := Ev.beginSequence_s (on := true) (g := 0) (a := .powerOn) (next := (1, w.s.sequencer.params.delay01)) rfl h0
  rw [if_pos rfl, Ev.turnOn_s] at h
  refine h.trans ?_
  by_cases hoff : (w.s.group 0).state = .off
  · by_cases hgood : (w.s.group 0).good = true
    · rw [if_pos hoff, if_pos hgood, if_pos (by exact hoff), if_pos (by exact hgood)]
      rfl
    · rw [if_pos hoff, if_neg hgood, if_pos (by exact hoff), if_neg (by exact hgood)]
      rfl
  · rw [if_neg hoff, if_neg (by exact hoff)]
    rfl

theorem Ev.startPowerOn_rest {w : Ev} (h0 : w.s.sequencer.params.delay01 ≠ 0) :
    w.startPowerOn.s.device = w.s.device ∧ (∀ p, w.startPowerOn.s.point p = w.s.point p) ∧
    w.startPowerOn.s.sequencer = { w.s.sequencer with
      activity := .powerOn, nextTurn := some 1, turnTimer := some ⟨w.s.now, 100 * w.s.sequencer.params.delay01⟩ } ∧
    ((w.s.group 0).state = .off → (w.s.group 0).good = false → w.startPowerOn.s.group 0 = { w.s.group 0 with
      state := .enabling, timer := some ⟨w.s.now, 10000⟩, failReason := none, forced := none, lastChange := w.s.now }) ∧
    ∀ g, g ≠ 0 → w.startPowerOn.s.group g = w.s.group g := by
  rw [Ev.startPowerOn_s h0]
  by_cases hoff : (w.s.group 0).state = .off
  · by_cases hgood : (w.s.group 0).good = true
    · rw [if_pos hoff, if_pos hgood]
      exact ⟨rfl, fun _ => rfl, rfl, fun _ hg => absurd (hg.symm.trans hgood) Bool.false_ne_true, fun g hg =>
        (State.groupTimed_group 0 g .settling _ w.s).trans (if_neg hg)⟩
    · rw [if_pos hoff, if_neg hgood]
      exact ⟨rfl, fun _ => rfl, rfl, fun _ _ => (State.groupTimed_group 0 0 .enabling 10000 w.s).trans (if_pos rfl), fun g hg =>
        (State.groupTimed_group 0 g .enabling 10000 w.s).trans (if_neg hg)⟩
  · rw [if_neg hoff]
    exact ⟨rfl, fun _ => rfl, rfl, fun h => absurd h hoff, fun _ _ => rfl⟩

/-- The work of an accepted START whose second turn comes later. -/
theorem Ev.start_rest {w : Ev} (h0 : w.s.sequencer.params.delay01 ≠ 0) :
    w.start.s.device = { w.s.device with state := .starting } ∧
    (∀ p, (w.start.s.point p).mode = (w.s.point p).startMode) ∧
    w.start.s.sequencer = { w.s.sequencer with
      activity := .powerOn, nextTurn := some 1, turnTimer := some ⟨w.s.now, 100 * w.s.sequencer.params.delay01⟩ } ∧
    ((w.s.group 0).state = .off → (w.s.group 0).good = false → w.start.s.group 0 = { w.s.group 0 with
      state := .enabling, timer := some ⟨w.s.now, 10000⟩, failReason := none, forced := none, lastChange := w.s.now }) ∧
    ∀ g, g ≠ 0 → w.start.s.group g = w.s.group g := by
  unfold Ev.start Ev.beginStart
  have hd := Ev.onDevice_s (fun d => { d with state := .starting }) w
  obtain ⟨hsame, hmodes⟩ := (w.onDevice (fun d => { d with state := .starting })).applyStartModes_modes
  rw [hd] at hsame hmodes
  generalize (w.onDevice (fun d => { d with state := .starting })).applyStartModes = v at hsame hmodes ⊢
  have hsequencer : v.s.sequencer = w.s.sequencer := hsame.sequencer
  have hnow : v.s.now = w.s.now := hsame.now
  have hgroup : ∀ g, v.s.group g = w.s.group g := hsame.group
  have h := Ev.startPowerOn_rest (w := v) (by rw [hsequencer]; exact h0)
  rw [hsequencer, hnow] at h
  simp only [hgroup] at h
  obtain ⟨hdevice, hpoints, hrest⟩ := h
  exact ⟨hdevice.trans hsame.device, fun p => (congrArg Point.mode (hpoints p)).trans (hmodes p), hrest⟩

/-! ## The start checks -/

/-- The first index that meets a condition, and none where no index does. -/
theorem find?_finRange {n : Nat} {f : Fin n → Bool} {P : Fin n → Prop} (h : ∀ i, f i = true ↔ P i) :
    (∀ i, P i → (∀ j, j < i → ¬P j) → (List.finRange n).find? f = some i) ∧
    ((∀ i, ¬P i) → (List.finRange n).find? f = none) := by
  have hfalse : ∀ {i}, ¬P i → f i = false := fun hi => Bool.eq_false_iff.mpr (mt (h _).mp hi)
  exact ⟨fun i hi hfirst => find?_of_first (List.pairwise_lt_finRange n) (List.mem_finRange i) ((h i).mpr hi)
    fun j _ hlt => hfalse (hfirst j hlt), fun hnone => find?_of_none fun i _ => hfalse (hnone i)⟩

section
variable (s : State)

theorem sameSides_iff (p : PointId) : ((s.entry p).up.isSome && (s.entry p).up == (s.entry p).down) = true ↔
    (s.entry p).up ≠ none ∧ (s.entry p).up = (s.entry p).down := by
  rw [Bool.and_eq_true, beq_iff_eq, Option.isSome_iff_ne_none]

theorem TopologyEntry.bounds_isEmpty (e : TopologyEntry) : e.bounds.isEmpty = true ↔ e.up = none ∧ e.down = none := by
  obtain ⟨up, down⟩ := e
  cases up <;> cases down <;> simp [TopologyEntry.bounds]
  split <;> simp

theorem unbound_iff (p : PointId) : (startsInUse s p && (s.entry p).bounds.isEmpty) = true ↔
    (s.point p).startMode ≠ .outOfUse ∧ (s.entry p).up = none ∧ (s.entry p).down = none := by
  unfold startsInUse
  rw [Bool.and_eq_true, bne_iff_ne, TopologyEntry.bounds_isEmpty]

theorem filterWindow_iff (p : PointId) :
    (startsInUse s p && decide (windowUnits s.params.response ≤ (s.point p).params.filter - 1)) = true ↔
      (s.point p).startMode ≠ .outOfUse ∧ 10 * s.params.response ≤ (s.point p).params.filter - 1 := by
  unfold startsInUse
  rw [Bool.and_eq_true, bne_iff_ne, decide_eq_true_eq]
  rfl
end

theorem actStart_checks {w : Ev} (ha : w.s.sequencer.activity = .none) (hd : w.s.device.state = .configuring)
    (body : List Byte) : actStart body w =
      match startFault w.s with
      | some item => refuse .configInvalid [byte item.code, byte item.index]
      | none => accept w.start.settle [2] := by
  unfold actStart
  rw [ha, hd]
  rfl

theorem Ev.start_port (i : PortId) (w : Ev) : w.start.s.port i = w.s.port i := by
  have hbegin : ∀ v : Ev, v.beginStart.s.port i = v.s.port i := fun v => by
    have h := (Ev.beginStart_changes v).fixed
    cases i
    · exact h.2.2.2.2.1
    · exact h.2.2.2.2.2.1
  unfold Ev.start
  rw [hbegin, Ev.onDevice_s]
  cases i <;> rfl

/-- Settles O59. -/
theorem startBeginsThePowerOnSequence : Obligations.StartBeginsThePowerOnSequence := by
  unfold Obligations.StartBeginsThePowerOnSequence
  refine ⟨fun tag s h4 hd ha => ?_, fun s => ?_⟩
  · intro s'
    have hact := actStart_checks (w := ⟨s', [], []⟩) ha hd []
    refine ⟨fun hf h0 => ?_, fun item hf => ?_⟩
    · rw [show startFault (Ev.mk s' [] []).s = none from hf] at hact
      obtain ⟨hdevice, hmodes, hsequencer, hzero, hgroups⟩ := Ev.start_rest (w := ⟨s', [], []⟩) h0
      have hport := Ev.start_port .service ⟨s', [], []⟩
      obtain ⟨hleaves, hreplies⟩ := takeCommand_settled (i := .service) (kind := 0x12) (tag := tag) (pm := .serviceOnly)
        (fits := fun n => n == 0) h4 rfl rfl ⟨Ev.start ⟨s', [], []⟩, hact, rfl⟩ hport
      generalize (Ev.start ⟨s', [], []⟩).s = v at hdevice hmodes hsequencer hzero hgroups hleaves
      obtain ⟨hsame, -⟩ := State.settled_of_turn (s := v) (g := 1) (.inl (by rw [hsequencer])) (by rw [hsequencer])
      have hend := hsame.trans hleaves.sameSupplies
      refine ⟨_, rfl, hreplies, hend.device.trans hdevice, fun p => ?_, hend.sequencer.trans hsequencer,
        fun ho hg => (hend.group 0).trans (hzero ho hg), fun g hg => (hend.group g).trans (hgroups g hg)⟩
      exact (congrArg Point.mode (hleaves.point p)).trans ((State.settled_mode v p).trans (hmodes p))
    · refine ⟨_, rfl, takeCommand_refuses h4 rfl rfl (hact.trans ?_)⟩
      rw [show startFault (Ev.mk s' [] []).s = some item from hf]
  · intro sameSides crowded unbound slow
    obtain ⟨hside, hsides⟩ := find?_finRange (sameSides_iff s)
    obtain ⟨hcrowd, hcrowds⟩ := find?_finRange (P := crowded) fun n => decide_eq_true_iff
    obtain ⟨hunbound, hbound⟩ := find?_finRange (unbound_iff s)
    obtain ⟨hslow, hfast⟩ := find?_finRange (filterWindow_iff s)
    unfold startFault allPoints allSections
    refine ⟨fun p hp hfirst => by rw [hside p hp hfirst], fun h1 => ?_⟩
    rw [hsides h1]
    refine ⟨fun n hn hfirst => by dsimp only; rw [hcrowd n hn hfirst], fun h2 => ?_⟩
    rw [hcrowds h2]
    refine ⟨fun p hp hfirst => by dsimp only; rw [hunbound p hp hfirst], fun h3 => ?_⟩
    rw [hbound h3]
    exact ⟨fun p hp hfirst => by dsimp only; rw [hslow p hp hfirst]; rfl, fun h4 => by dsimp only; rw [hfast h4]; rfl⟩

/-! ## The halt disturbance -/

theorem Ev.disturbAll_dormant (p : PointId) (c : Cause) (w : Ev) : Dormant w.s (w.disturbAll p c).s := by
  rw [Ev.disturbAll_s]
  exact (w.s.sendDisturbance_reaches p c).dormant (fun _ r => r.disturb_settings c) fun _ _ h => SectionRecord.disturb_of_untrusted c h

theorem State.darken_dormant (c : Cause) (p : PointId) (s : State) : Dormant s (s.darken c p) := by
  have hnotified : Dormant s (if wasCounting s p then Ev.disturbAll p c ⟨s, [], []⟩ else ⟨s, [], []⟩ : Ev).s := by
    split
    · exact Ev.disturbAll_dormant p c ⟨s, [], []⟩
    · exact .refl s
  exact (hnotified.trans (Ev.resetMachine_dormant p _)).trans (Ev.loseEligibility_dormant p false _)

theorem Dormant.foldl {α : Type} {f : State → α → State} (hf : ∀ s a, Dormant s (f s a)) (l : List α) (s : State) :
    Dormant s (l.foldl f s) := by
  induction l generalizing s with
  | nil => exact .refl s
  | cons a l ih => exact (hf s a).trans (ih _)

theorem State.darkenGroup_sameSupplies (c : Cause) (g : GroupId) (s : State) :
    SameSupplies s (s.darkenGroup c g) ∧ Dormant s (s.darkenGroup c g) :=
  ⟨SameSupplies.foldl (fun s p => AroundProofs.sameSupplies (State.darken_around c p s)) _ s,
    Dormant.foldl (fun s p => s.darken_dormant c p) _ s⟩

/-- The halt disturbance at one section (R105). -/
def SectionRecord.halted (now : Time) (r : SectionRecord) : SectionRecord :=
  if r.state.trusted then
    { r with state := .disturbed, cause := some .deviceHalt, clearTimer := none, hold := false, sweep := false
             lastChange := now }
  else r

theorem SectionRecord.stamped_disturb (now : Time) (r : SectionRecord) :
    r.stamped now (r.disturb .deviceHalt) = r.halted now := by
  unfold SectionRecord.halted
  by_cases ht : r.state.trusted = true
  · rw [SectionRecord.disturb_of_trusted _ ht, if_pos ht]
    refine SectionRecord.stamped_of_state fun e => ?_
    rw [← show SectionState.disturbed = r.state from e] at ht
    exact Bool.false_ne_true ht
  · rw [SectionRecord.disturb_of_untrusted _ (Bool.eq_false_iff.mpr ht), if_neg ht, SectionRecord.stamped_self]

theorem SectionRecord.halted_untrusted (now : Time) (r : SectionRecord) : (r.halted now).state.trusted = false := by
  unfold SectionRecord.halted
  split
  · rfl
  · rename_i h; exact Bool.eq_false_iff.mpr h

theorem Ev.haltSections_sections (w : Ev) :
    Noticed w.s w.haltSections.s ∧ ∀ n, w.haltSections.s.sec n = (w.s.sec n).halted w.s.now := by
  refine ⟨Noticed.foldl _ (fun v n => Ev.onSection_noticed n _ v) _ w, fun n => ?_⟩
  have h := (foldl_onSection_reached (readsView_const (SectionRecord.disturb .deviceHalt)) (List.nodup_finRange 12) w n).1
    (List.mem_finRange n)
  exact h.1.trans (SectionRecord.stamped_disturb w.s.now (w.s.sec n))

/-! ## The power-off sequence begins -/

theorem Ev.startPowerOff_s {w : Ev} (h0 : w.s.sequencer.params.delay23 ≠ 0) : w.startPowerOff.s =
    let v : State := { w.s with sequencer := { w.s.sequencer with activity := .powerOff } }
    { (if (w.s.group 3).state = .ready then (v.groupTimed 3 .disabling 10000).darkenGroup .supplyOff 3
      else if (w.s.group 3).state = .enabling ∨ (w.s.group 3).state = .settling then v.groupTimed 3 .disabling 10000
      else v) with
      sequencer := { w.s.sequencer with
        activity := .powerOff, nextTurn := some 2, turnTimer := some ⟨w.s.now, 100 * w.s.sequencer.params.delay23⟩ } } := by
  have h := Ev.beginSequence_s (on := false) (g := 3) (a := .powerOff) (next := (2, w.s.sequencer.params.delay23)) rfl h0
  rw [if_neg Bool.false_ne_true, Ev.turnOff_s] at h
  exact h

theorem Ev.startPowerOff_rest {w : Ev} (h0 : w.s.sequencer.params.delay23 ≠ 0) :
    w.startPowerOff.s.device = w.s.device ∧ w.startPowerOff.s.outputs.run = w.s.outputs.run ∧
    w.startPowerOff.s.outputs.runHigh = w.s.outputs.runHigh ∧ Dormant w.s w.startPowerOff.s ∧
    w.startPowerOff.s.sequencer = { w.s.sequencer with
      activity := .powerOff, nextTurn := some 2, turnTimer := some ⟨w.s.now, 100 * w.s.sequencer.params.delay23⟩ } ∧
    ((w.s.group 3).state = .ready ∨ (w.s.group 3).state = .enabling ∨ (w.s.group 3).state = .settling →
      w.startPowerOff.s.group 3 = { w.s.group 3 with
        state := .disabling, timer := some ⟨w.s.now, 10000⟩, failReason := none, forced := none, lastChange := w.s.now }) ∧
    ∀ g, g ≠ 3 → w.startPowerOff.s.group g = w.s.group g := by
  rw [Ev.startPowerOff_s h0]
  dsimp only
  generalize hv : ({ w.s with sequencer := { w.s.sequencer with activity := .powerOff } } : State) = v
  have hdevice : v.device = w.s.device := by rw [← hv]
  have hrun : v.outputs = w.s.outputs := by rw [← hv]
  have hsec : Dormant w.s v := .of_sections (by rw [← hv])
  have hnow : v.now = w.s.now := by rw [← hv]
  have hgroups : ∀ g, v.group g = w.s.group g := by rw [← hv]; exact fun _ => rfl
  have htimed : ∀ g, (v.groupTimed 3 .disabling 10000).group g = _ := fun g => State.groupTimed_group 3 g .disabling 10000 v
  by_cases hready : (w.s.group 3).state = .ready
  · rw [if_pos hready]
    obtain ⟨hsame, hdormant⟩ := State.darkenGroup_sameSupplies .supplyOff 3 (v.groupTimed 3 .disabling 10000)
    generalize ht : (v.groupTimed 3 .disabling 10000).darkenGroup .supplyOff 3 = t at hsame hdormant
    refine ⟨hsame.device.trans hdevice, hsame.run.trans (congrArg Outputs.run hrun),
      hsame.runHigh.trans (congrArg Outputs.runHigh hrun), ?_, rfl, fun _ => ?_, fun g hg => ?_⟩
    · exact (hsec.trans (.of_sections (t := v.groupTimed 3 .disabling 10000) rfl)).trans (hdormant.trans (.of_sections rfl))
    · refine (hsame.group 3).trans ((htimed 3).trans ?_)
      rw [if_pos rfl, hgroups, hnow]
    · exact (hsame.group g).trans ((htimed g).trans ((if_neg hg).trans (hgroups g)))
  · rw [if_neg hready]
    by_cases hon : (w.s.group 3).state = .enabling ∨ (w.s.group 3).state = .settling
    · rw [if_pos hon]
      refine ⟨hdevice, congrArg Outputs.run hrun, congrArg Outputs.runHigh hrun, ?_, rfl, fun _ => ?_, fun g hg => ?_⟩
      · exact hsec.trans (.of_sections rfl)
      · refine (htimed 3).trans ?_
        rw [if_pos rfl, hgroups, hnow]
      · exact (htimed g).trans ((if_neg hg).trans (hgroups g))
    · rw [if_neg hon]
      exact ⟨hdevice, congrArg Outputs.run hrun, congrArg Outputs.runHigh hrun, hsec.trans (.of_sections rfl), rfl,
        fun h => absurd (h.resolve_left hready) hon, fun g _ => hgroups g⟩

/-! ## HALT -/

/-- The work of HALT before the power-off sequence begins. -/
theorem Ev.halt_begins {w : Ev} (hd : w.s.device.state = .running) : ∃ v : Ev, w.halt = v.startPowerOff ∧
    v.s.groups = w.s.groups ∧ v.s.sequencer = w.s.sequencer ∧ v.s.now = w.s.now ∧
    v.s.device = { w.s.device with state := .halting } ∧ v.s.outputs.run = .low ∧ v.s.outputs.runHigh = false ∧
    ∀ n, v.s.sec n = (w.s.sec n).halted w.s.now := by
  obtain ⟨hnoticed, hsections⟩ := w.haltSections_sections
  have hdevice := Ev.onDevice_s (fun d => { d with state := .halting }) w.haltSections
  let stop (v : Ev) : Ev := (allPoints.filter (counting w.s)).foldl (fun w p => w.disturbAll p .deviceHalt) v
  refine ⟨stop (w.haltSections.onDevice (fun d => { d with state := .halting })), rfl, ?_⟩
  have hstop : ∀ v : Ev, Noticed v.s (stop v).s ∧ Dormant v.s (stop v).s := fun v => by
    refine ⟨Noticed.foldl _ (fun v p => Ev.atSections_noticed p _ v) _ v, ?_⟩
    show Dormant v.s ((allPoints.filter (counting w.s)).foldl (fun w p => w.disturbAll p .deviceHalt) v).s
    rw [foldl_states (g := fun s p => s.sendDisturbance p .deviceHalt) fun w p => Ev.disturbAll_s p .deviceHalt w]
    exact Dormant.foldl (fun s p => by
      rw [← Ev.disturbAll_s p .deviceHalt ⟨s, [], []⟩]; exact Ev.disturbAll_dormant p .deviceHalt ⟨s, [], []⟩) _ v.s
  generalize w.haltSections.onDevice (fun d => { d with state := .halting }) = v at hdevice ⊢
  generalize w.haltSections.s = u at hnoticed hsections hdevice
  obtain ⟨hn, hdormant⟩ := hstop v
  have hstate : u.device.state = .running := by rw [hnoticed.device]; exact hd
  have hsec : ∀ n, v.s.sec n = (w.s.sec n).halted w.s.now := fun n => by rw [hdevice]; exact hsections n
  have houtputs : v.s.outputs.run = .low ∧ v.s.outputs.runHigh = false := by
    rw [hdevice, hstate]; exact ⟨rfl, rfl⟩
  refine ⟨hn.groups.trans ?_, hn.sequencer.trans ?_, hn.now.trans ?_, hn.device.trans ?_,
    hn.sameSupplies.run.trans houtputs.1, hn.sameSupplies.runHigh.trans houtputs.2, fun n => ?_⟩
  · rw [hdevice]; exact hnoticed.groups
  · rw [hdevice]; exact hnoticed.sequencer
  · rw [hdevice]; exact hnoticed.now
  · rw [hdevice, hnoticed.device]
  · exact ((hdormant n).2 (by rw [hsec]; exact SectionRecord.halted_untrusted _ _)).trans (hsec n)

theorem Ev.halt_port (i : PortId) (w : Ev) : w.halt.s.port i = w.s.port i := by
  have h := w.halt_works.fixed
  cases i
  · exact h.2.2.2.2.1
  · exact h.2.2.2.2.2.1

theorem actHalt_accepts {w : Ev} (ha : w.s.sequencer.activity = .none) (hd : w.s.device.state = .running)
    (body : List Byte) : actHalt body w = accept w.halt.settle [4] := by
  unfold actHalt
  rw [ha, hd]
  rfl

/-- Settles O60. -/
theorem haltDisturbsEverySection : Obligations.HaltDisturbsEverySection := by
  unfold Obligations.HaltDisturbsEverySection
  intro tag s h4 hd ha h0 s'
  obtain ⟨v, hhalt, hgroups, hsequencer, hnow, hdevice, hrun, hrunHigh, hsec⟩ := Ev.halt_begins (w := ⟨s', [], []⟩) hd
  have hgroup : ∀ g, v.s.group g = s.group g := fun g => congrArg (fun u => Table.get u g) hgroups
  have hrest := Ev.startPowerOff_rest (w := v) (by rw [hsequencer]; exact h0)
  rw [hsequencer, hnow, hdevice, hrun, hrunHigh] at hrest
  simp only [hgroup] at hrest
  have hport : v.startPowerOff.s.port .service = s'.port .service := by
    rw [← hhalt]
    exact Ev.halt_port .service ⟨s', [], []⟩
  obtain ⟨hleaves, hreplies⟩ := takeCommand_settled (i := .service) (kind := 0x13) (tag := tag) (pm := .serviceOnly)
    (fits := fun n => n == 0) h4 rfl rfl
    ⟨v.startPowerOff, by rw [← hhalt]; exact actHalt_accepts (w := ⟨s', [], []⟩) ha hd [], rfl⟩ hport
  generalize v.startPowerOff.s = t at hrest hleaves
  obtain ⟨htdevice, htrun, htrunHigh, htsec, htsequencer, hthree, htgroups⟩ := hrest
  obtain ⟨hsame, hsections⟩ := State.settled_of_turn (s := t) (g := 2) (.inr (by rw [htsequencer])) (by rw [htsequencer])
  have hend := hsame.trans hleaves.sameSupplies
  have hfinal : ∀ n, State.sec _ n = (s.sec n).halted s.now := fun n =>
    (hleaves.sec n).trans ((congrArg (fun u => Table.get u n) hsections).trans
      (((htsec n).2 (by rw [hsec]; exact SectionRecord.halted_untrusted _ _)).trans (hsec n)))
  refine ⟨_, rfl, hreplies, hend.device.trans htdevice, hend.run.trans htrun, hend.runHigh.trans htrunHigh, fun n => ⟨fun ht => ?_, fun ht => ?_⟩,
    hend.sequencer.trans htsequencer, fun h => (hend.group 3).trans (hthree h),
    fun g hg => (hend.group g).trans (htgroups g hg)⟩
  · exact (hfinal n).trans (if_pos ht)
  · exact (hfinal n).trans (if_neg (Bool.eq_false_iff.mp ht))

end Sys2Proof.Machine
end

section
/-! The queries and the layouts of the records (O44). -/

namespace Sys2Proof.Machine

/-! ## The fields -/

theorem byteOr_map {α : Type} (f : α → Nat) (o : Option α) :
    byteOr (o.map f) = o.elim 0xFF (fun x => BitVec.ofNat 8 (f x)) := by cases o <;> rfl

theorem bytes2Or_eq (o : Option Nat) : bytes2Or o = o.elim [0xFF, 0xFF] bytes2 := by cases o <;> rfl

theorem bytes4Or_eq (o : Option Time) : bytes4Or o = bytes4 (o.getD 0) := by cases o <;> rfl

theorem bytes4Or_map {α : Type} (f : α → Time) (o : Option α) : bytes4Or (o.map f) = bytes4 (o.elim 0 f) := by
  cases o <;> rfl

theorem bytes4_eq (t : Time) :
    bytes4 t = [t.extractLsb' 24 8, t.extractLsb' 16 8, t.extractLsb' 8 8, t.extractLsb' 0 8] := by
  have h : ∀ k, byte (t.toNat / 2 ^ k) = t.extractLsb' k 8 := fun k => by
    apply BitVec.eq_of_toNat_eq
    rw [byte, BitVec.toNat_ofNat, BitVec.extractLsb'_toNat, Nat.shiftRight_eq_div_pow]
  rw [← h, ← h, ← h, ← h, Nat.pow_zero, Nat.div_one]
  rfl

@[simp] theorem length_bytes2 (n : Nat) : (bytes2 n).length = 2 := rfl
@[simp] theorem length_bytes4 (t : Time) : (bytes4 t).length = 4 := rfl
@[simp] theorem length_bytes4Or (t : Option Time) : (bytes4Or t).length = 4 := by cases t <;> rfl
@[simp] theorem length_bytes2Or (n : Option Nat) : (bytes2Or n).length = 2 := by cases n <;> rfl

theorem length_flatMap_of {α β : Type} {f : α → List β} {k : Nat} (h : ∀ a, (f a).length = k) (l : List α) :
    (l.flatMap f).length = k * l.length := by
  induction l with
  | nil => rfl
  | cons a l ih => rw [List.flatMap_cons, List.length_append, h, ih, List.length_cons]; ring

/-! ## The codes -/

theorem SectionState.code_eq (st : SectionState) : byte st.code =
    BitVec.ofNat 8 ([SectionState.unused, .disturbed, .restoring, .occupied, .clearing, .clear].idxOf st) := by
  cases st <;> rfl

theorem Cause.byte_eq (c : Option Cause) : byteOr (c.map Cause.code) = c.elim 0xFF (fun c => BitVec.ofNat 8
    ([Cause.powerUp, .deviceHalt, .supplyLoss, .supplyOff, .pointWithdrawn, .pointFault, .confusedPassage, .underflow,
      .overflow, .hostRequest, .restoreCancelled].idxOf c)) := by
  cases c with
  | none => rfl
  | some c => cases c <;> rfl

theorem Mode.code_eq (m : Mode) : byte m.code = BitVec.ofNat 8 ([Mode.outOfUse, .supervising, .counting].idxOf m) := by
  cases m <;> rfl

theorem DirectionMachine.code_eq (m : DirectionMachine) : byte m.code =
    BitVec.ofNat 8 ([DirectionMachine.idle, .up1, .up2, .up3, .dn1, .dn2, .dn3, .confused].idxOf m) := by
  cases m <;> rfl

theorem Confusion.byte_eq (c : Option Confusion) : byteOr (c.map (fun c => c.cause.code)) = c.elim 0xFF (fun c =>
    BitVec.ofNat 8 ([ConfusionCause.simultaneousOnset, .jump, .startUp].idxOf c.cause)) := by
  cases c with
  | none => rfl
  | some c => exact ConfusionCause.code_eq c.cause

theorem Health.code_eq (h : Health) : byte h.code = BitVec.ofNat 8 ([Health.ok, .warn, .fault].idxOf h) := by
  cases h <;> rfl

theorem FaultCause.byte_eq (c : Option FaultCause) : byteOr (c.map FaultCause.code) =
    c.elim 0xFF (fun c => BitVec.ofNat 8 ([FaultCause.level, .proofFailures].idxOf c)) := by
  cases c with
  | none => rfl
  | some c => cases c <;> rfl

theorem ProofResult.byte_eq (r : Option ProofResult) : byteOr (r.map ProofResult.code) = r.elim 0xFF (fun r =>
    BitVec.ofNat 8 ([ProofResult.pass, .noResponse, .noRelease, .aborted, .unfinished].idxOf r)) := by
  cases r with
  | none => rfl
  | some r => exact ProofResult.code_eq r

theorem GroupState.code_eq (st : GroupState) : byte st.code =
    BitVec.ofNat 8 ([GroupState.off, .enabling, .settling, .ready, .failed, .disabling, .manual].idxOf st) := by
  cases st <;> rfl

theorem FailReason.byte_eq (r : Option FailReason) : byteOr (r.map FailReason.code) = r.elim 0xFF (fun r =>
    BitVec.ofNat 8 ([FailReason.enableTimeout, .settleDrop, .supplyLoss, .notOff, .releasedUnpowered,
      .releasedOff].idxOf r)) := by
  cases r with
  | none => rfl
  | some r => cases r <;> rfl

theorem Drive.code_eq (d : Drive) : byte d.code = BitVec.ofNat 8 ([Drive.low, .armed, .toggling].idxOf d) := by
  cases d <;> rfl

theorem Baud.code_eq (b : Baud) :
    byte b.code = BitVec.ofNat 8 ([Baud.baud19200, .baud57600, .baud115200, .baud460800].idxOf b) := by
  cases b <;> rfl

/-! ## The section record and the group record -/

theorem sectionRecord_length (s : State) (n : SectionId) : (sectionRecord s n).length = 28 + 2 * (members s n).length := by
  have hmembers : ((members s n).flatMap (memberBytes s n)).length = 2 * (members s n).length :=
    length_flatMap_of (k := 2) (fun _ => rfl) _
  unfold sectionRecord
  simp only [List.length_append, List.length_cons, List.length_nil, length_bytes2, length_bytes4, length_bytes4Or, hmembers]
  omega

theorem groupRecord_length (s : State) (g : GroupId) : (groupRecord s g).length = 13 := by
  unfold groupRecord
  simp only [List.length_append, List.length_cons, List.length_nil, length_bytes4, length_bytes4Or]

theorem pointRecord_length (s : State) (p : PointId) : (pointRecord s p).length = 61 := by
  unfold pointRecord systemBytes
  simp only [List.length_append, List.length_cons, List.length_nil, length_bytes2, length_bytes4Or,
    length_bytes2Or]

theorem enableLevel_eq (r : Group) : enableLevel r = (r.state == .enabling || r.state == .settling || r.state == .ready ||
    (r.state == .manual && r.forced == some true)) := by
  unfold enableLevel
  cases r.state <;> rfl

/-- The queue in the device record: its systems, and the free places after them (R203). -/
theorem queue_field {α β : Type} (f : α → β) (free : β) {l : List α} {k : Nat} (h : l.length ≤ k) :
    l.map f ++ List.replicate (k - l.length) free = (List.range k).map (fun i => (l[i]?).elim free f) := by
  refine List.ext_getElem (by simp [h]) fun i h1 h2 => ?_
  rw [List.getElem_map, List.getElem_range]
  by_cases hi : i < l.length
  · rw [List.getElem_append_left (by simpa using hi), List.getElem_map, List.getElem?_eq_getElem hi]
    rfl
  · rw [List.getElem_append_right (by simpa using hi), List.getElem_replicate, List.getElem?_eq_none (Nat.not_lt.mp hi)]
    rfl

theorem autostartBytes_length (d : Device) : (autostartBytes d).length = 3 := by
  unfold autostartBytes
  split <;> rfl

theorem DeviceParams.bytes_length (d : DeviceParams) : d.bytes.length = 14 := rfl

theorem portBytes_length (q : Port) : (portBytes q).length = 12 := rfl

theorem deviceRecord_length {s : State} (h : s.queue.length ≤ 32) : (deviceRecord s).length = 168 := by
  have hgroups : (allGroups.flatMap (groupRecord s)).length = 13 * 4 := length_flatMap_of (groupRecord_length s) allGroups
  have hsections : allSections.length = 12 := rfl
  unfold deviceRecord
  simp only [List.length_append, List.length_cons, List.length_nil, List.length_map, List.length_replicate, length_bytes2,
    length_bytes4, length_bytes4Or, autostartBytes_length, DeviceParams.bytes_length, portBytes_length, hgroups, hsections]
  omega

/-! ## The queries -/

theorem sectionRun_map {α : Type} (f : SectionId → α) (first : SectionId) (n : Nat) :
    (sectionRun first n).map f = (List.range n).map (fun k => f (Fin.ofNat 12 (first.val + k))) := by
  unfold sectionRun
  rw [List.map_map]
  refine List.map_congr_left fun k _ => congrArg f (Fin.ext ?_)
  simp [Fin.add_def]

theorem pointRun_map {α : Type} (f : PointId → α) (first : PointId) (n : Nat) :
    (pointRun first n).map f = (List.range n).map (fun k => f (Fin.ofNat 16 (first.val + k))) := by
  unfold pointRun
  rw [List.map_map]
  refine List.map_congr_left fun k _ => congrArg f (Fin.ext ?_)
  simp [Fin.add_def]

theorem actQuerySections_accepts (first : SectionId) (n : Byte) (w : Ev) :
    actQuerySections [BitVec.ofNat 8 first.val, n] w = accept w (queryData first.val (max 1 (min 12 n.toNat))
      ((List.range (max 1 (min 12 n.toNat))).map (fun k => sectionRecord w.s (Fin.ofNat 12 (first.val + k))))) := by
  show withArgument (sectionIndex _) _ = _
  rw [sectionIndex_ofNat, withArgument_some]
  dsimp only
  rw [sectionRun_map]
  rfl

theorem actQueryPoints_accepts (first : PointId) (n : Byte) (w : Ev) :
    actQueryPoints [BitVec.ofNat 8 first.val, n] w = accept w (queryData first.val (max 1 (min 16 n.toNat))
      ((List.range (max 1 (min 16 n.toNat))).map (fun k => pointRecord w.s (Fin.ofNat 16 (first.val + k))))) := by
  show withArgument (pointIndex _) _ = _
  rw [pointIndex_ofNat, withArgument_some]
  dsimp only
  rw [pointRun_map]
  rfl

/-! ## The fields of a point, of a group and of a system -/

theorem side_field (n : Option SectionId) : byteOr (n.map Fin.val) = n.elim 0xFF (fun n => BitVec.ofNat 8 n.val) :=
  byteOr_map _ n

theorem staged_field (l : List Byte) (q : Option PointParams) :
    l ++ bytes2Or (q.map PointParams.spacing) ++ [byteOr (q.map PointParams.filter)] =
      l ++ q.elim [0xFF, 0xFF, 0xFF] (fun q => bytes2 q.spacing ++ [BitVec.ofNat 8 q.filter]) := by
  cases q <;> exact List.append_assoc ..

theorem startUp_field (c : Option Confusion) :
    (c.map Confusion.cause == some .startUp) = c.elim false (fun c => c.cause == .startUp) := by
  cases c with
  | none => rfl
  | some c => obtain ⟨cause, t⟩ := c; cases cause <;> rfl

theorem forced_field (f : Option Bool) :
    byteOr (f.map (fun on => if on then 1 else 0)) = f.elim 0xFF (fun on => if on then 1 else 0) := by
  cases f with
  | none => rfl
  | some on => cases on <;> rfl

theorem phase_field (s : State) (p : PointId) (x : Sys) : byte (phaseCode (phaseOf s p x)) =
    if underProof s p x then s.channel.elim 0 (fun pr => match pr.phase with
      | .assert => 1
      | .release => 2
      | .abortWait => 3) else 0 := by
  unfold phaseOf underProof
  cases s.channel with
  | none => rfl
  | some pr =>
    dsimp only
    by_cases h : (pr.system == ⟨p, x⟩) = true
    · rw [if_pos h, if_pos h, Option.elim_some]
      cases pr.phase <;> rfl
    · rw [if_neg h, if_neg h]
      rfl

theorem systemBytes_eq (s : State) (p : PointId) (x : Sys) : systemBytes s p x =
    let st := (s.point p).proof x
    [BitVec.ofNat 8 (flag (eligible s p) 0 + flag st.proven 1 + flag st.due 2 + flag st.overdue 3 +
      flag st.lastPass.isSome 4)] ++ bytes4 (st.lastPass.getD 0) ++
    [BitVec.ofNat 8 st.failures, st.lastResult.elim 0xFF (fun r => BitVec.ofNat 8 ([ProofResult.pass, .noResponse,
      .noRelease, .aborted, .unfinished].idxOf r)),
      if underProof s p x then s.channel.elim 0 (fun pr => match pr.phase with
        | .assert => 1
        | .release => 2
        | .abortWait => 3) else 0] := by
  unfold systemBytes
  dsimp only
  rw [phase_field, ProofResult.byte_eq, bytes4Or_eq]
  rfl

/-! ## The fields of the device -/

theorem autostartBytes_eq (d : Device) : autostartBytes d =
    match d.autostart with
    | none => [0xFF, 0, 0xFF]
    | some .notRequested => [0, 0, 0xFF]
    | some .started => [1, 0, 0xFF]
    | some (.refused (.sameSides p)) => [2, 1, BitVec.ofNat 8 p.val]
    | some (.refused (.members n)) => [2, 2, BitVec.ofNat 8 n.val]
    | some (.refused (.unbound p)) => [2, 3, BitVec.ofNat 8 p.val]
    | some (.refused (.filterWindow p)) => [2, 4, BitVec.ofNat 8 p.val] := by
  unfold autostartBytes
  rcases d.autostart with _ | _ | _ | item
  · rfl
  · rfl
  · rfl
  · cases item <;> rfl

theorem systemByte_eq (x : SystemId) : systemByte x = BitVec.ofNat 8 (2 * x.point.val + if x.sys = .b then 1 else 0) := by
  obtain ⟨p, x⟩ := x
  unfold systemByte byte
  rw [Nat.mul_comm]
  cases x <;> rfl

theorem DeviceParams.bytes_eq (c : DeviceParams) : c.bytes = [BitVec.ofNat 8 c.tol] ++ bytes2 c.vLimit ++
    [BitVec.ofNat 8 c.wGlitch, BitVec.ofNat 8 c.wIrregular, BitVec.ofNat 8 c.wOverspeed, BitVec.ofNat 8 c.wConfused,
      BitVec.ofNat 8 c.wProof, BitVec.ofNat 8 c.leakInterval, BitVec.ofNat 8 c.warnOn, BitVec.ofNat 8 c.fault] ++
    bytes2 c.interval ++ [BitVec.ofNat 8 c.response] := rfl

theorem link_field (up : Bool) : byte (if up then 0 else 1) = if up then 0 else 1 := by cases up <;> rfl

theorem channel_field (c : Option Proof) (f : SystemId → Byte) : (c.map (fun pr => f pr.system)).getD absent =
    c.elim 0xFF (fun pr => f pr.system) := by cases c <;> rfl

theorem channelPhase_field (c : Option Proof) : byte (phaseCode (c.map Proof.phase)) = c.elim 0 (fun pr => match pr.phase with
    | .assert => 1
    | .release => 2
    | .abortWait => 3) := by
  cases c with
  | none => rfl
  | some pr => obtain ⟨_, phase⟩ := pr; cases phase <;> rfl

theorem activity_field (q : Sequencer) : [byte q.activity.code, byteOr ((activityGroup q).map Fin.val)] =
    match q.activity with
    | .none => [0, q.nextTurn.elim 0xFF (fun g => BitVec.ofNat 8 g.val)]
    | .powerOn => [1, q.nextTurn.elim 0xFF (fun g => BitVec.ofNat 8 g.val)]
    | .powerOff => [2, q.nextTurn.elim 0xFF (fun g => BitVec.ofNat 8 g.val)]
    | .recycle g => [3, BitVec.ofNat 8 g.val] := by
  unfold activityGroup
  rcases q.activity with _ | _ | _ | g
  · exact congrArg (fun b => [_, b]) (byteOr_map _ _)
  · exact congrArg (fun b => [_, b]) (byteOr_map _ _)
  · exact congrArg (fun b => [_, b]) (byteOr_map _ _)
  · rfl

theorem portBytes_eq (q : Port) : portBytes q =
    [BitVec.ofNat 8 ([Baud.baud19200, .baud57600, .baud115200, .baud460800].idxOf q.baud)] ++ bytes2 q.frameErrors ++
      bytes2 q.overruns ++
      [BitVec.ofNat 8 (flag q.mask.sections 0 + flag q.mask.points 1 + flag q.mask.supplies 2 + flag q.mask.device 3),
        BitVec.ofNat 8 q.queue.length, BitVec.ofNat 8 q.tokens, BitVec.ofNat 8 q.burst] ++ bytes2 q.refillPeriod ++
      [q.sendSequence] := by
  unfold portBytes
  rw [Baud.code_eq]
  rfl

theorem drives_field (s : State) : allSections.map (fun n => byte (s.outputs.clr.get n).code) = (List.finRange 12).map
    (fun n => BitVec.ofNat 8 ([Drive.low, .armed, .toggling].idxOf (s.outputs.clr.get n))) :=
  List.map_congr_left fun n _ => Drive.code_eq (s.outputs.clr.get n)

/-- Settles O44. -/
theorem queriesReplyAndChangeNothing : Obligations.QueriesReplyAndChangeNothing := by
  unfold Obligations.QueriesReplyAndChangeNothing
  refine ⟨fun i tag n f p s h4 => ?_, fun n t => ⟨rfl, bytes4_eq t⟩, fun s n => ⟨?_, sectionRecord_length s n⟩,
    fun s p => ⟨?_, pointRecord_length s p⟩, fun s g => ⟨?_, groupRecord_length s g⟩,
    fun s hq => ⟨?_, deviceRecord_length hq⟩⟩
  · exact ⟨⟨_, rfl, takeCommand_runs h4 rfl rfl ⟨_, actQuerySections_accepts f n _, rfl⟩ rfl rfl⟩,
      ⟨_, rfl, takeCommand_runs h4 rfl rfl ⟨_, actQueryPoints_accepts p n _, rfl⟩ rfl rfl⟩,
      ⟨_, rfl, takeCommand_runs h4 rfl rfl ⟨_, rfl, rfl⟩ rfl rfl⟩,
      ⟨_, rfl, takeCommand_runs h4 rfl rfl ⟨_, rfl, rfl⟩ rfl rfl⟩⟩
  · unfold sectionRecord
    dsimp only
    rw [SectionState.code_eq, Cause.byte_eq, bytes4Or_map, bytes4Or_eq]
    rfl
  · unfold pointRecord
    dsimp only
    rw [Mode.code_eq, Mode.code_eq, notCountingByte_eq, DirectionMachine.code_eq, Confusion.byte_eq, Health.code_eq,
      FaultCause.byte_eq, bytes4Or_map, bytes4Or_eq, bytes2Or_eq, staged_field, startUp_field, side_field, side_field,
      systemBytes_eq, systemBytes_eq]
    rfl
  · unfold groupRecord
    dsimp only
    rw [GroupState.code_eq, FailReason.byte_eq, bytes4Or_map, enableLevel_eq, forced_field]
    rfl
  · unfold deviceRecord
    dsimp only
    rw [DeviceState.code_eq, LoadResult.byte_eq, autostartBytes_eq, StoreResult.byte_eq, channel_field, channelPhase_field,
      queue_field systemByte absent hq, activity_field, bytes4Or_map, drives_field, Drive.code_eq, portBytes_eq,
      portBytes_eq, DeviceParams.bytes_eq, link_field]
    simp only [funext systemByte_eq, List.append_assoc]
    rfl

end Sys2Proof.Machine
end

section
/-! The configuration image (O56) and its store (O57). -/

namespace Sys2Proof.Machine

/-! ## The layout of the image -/

/-- The device-wide part of the body, byte by byte, after the records of the points and of the sections. -/
def Configuration.tail (c : Configuration) : List Byte :=
  [byte c.device.tol, byte (c.device.vLimit / 256), byte c.device.vLimit, byte c.device.wGlitch, byte c.device.wIrregular,
    byte c.device.wOverspeed, byte c.device.wConfused, byte c.device.wProof, byte c.device.leakInterval,
    byte c.device.warnOn, byte c.device.fault, byte (c.device.interval / 256), byte c.device.interval,
    byte c.device.response,
    byte (c.supplies.delay01 / 256), byte c.supplies.delay01, byte (c.supplies.delay12 / 256), byte c.supplies.delay12,
    byte (c.supplies.delay23 / 256), byte c.supplies.delay23, byte (c.supplies.settle / 256), byte c.supplies.settle,
    byte c.controlBurst, byte (c.controlRefill / 256), byte c.controlRefill, byte (c.imagePeriod / 256),
    byte c.imagePeriod, byte (c.linkTimeout / 256), byte c.linkTimeout,
    byte c.serviceBurst, byte (c.serviceRefill / 256), byte c.serviceRefill, flagByte c.autostart]

theorem Configuration.body_eq (c : Configuration) : c.body = c.topology.items.flatMap entryBytes ++
    (c.points.items.flatMap pointConfigBytes ++ (c.sections.items.flatMap sectionParamBytes ++ c.tail)) := by
  unfold Configuration.body Configuration.tail
  simp only [DeviceParams.bytes_eq, byte, bytes2, List.append_assoc, List.cons_append, List.nil_append]

theorem length_items_flatMap {α : Type} {n m : Nat} {f : α → List Byte} (hf : ∀ a, (f a).length = m) (t : Table n α) :
    (t.items.flatMap f).length = m * n := by rw [length_flatMap_of hf, t.size]

theorem length_crcBytes (l : List Byte) : (crcBytes l).length = 2 := length_bytes2 _

section
variable (c : Configuration)

theorem Configuration.topology_length : (c.topology.items.flatMap entryBytes).length = 32 :=
  length_items_flatMap (m := 2) (fun _ => rfl) _

theorem Configuration.points_length : (c.points.items.flatMap pointConfigBytes).length = 64 :=
  length_items_flatMap (m := 4) (fun _ => rfl) _

theorem Configuration.sections_length : (c.sections.items.flatMap sectionParamBytes).length = 36 :=
  length_items_flatMap (m := 3) (fun _ => rfl) _

theorem Configuration.tail_length : c.tail.length = 33 := rfl

theorem Configuration.body_length : c.body.length = 165 := by
  rw [c.body_eq, List.length_append, List.length_append, List.length_append, c.topology_length, c.points_length,
    c.sections_length, c.tail_length]

theorem Configuration.image_length : c.image.length = 172 := by
  unfold Configuration.image
  rw [List.length_append, length_crcBytes, List.length_append, List.length_append, List.length_append, c.body_length,
    length_bytes2]
  simp only [List.length_cons, List.length_nil]

/-! ## Reading the body back -/

theorem Configuration.body_entry (p : PointId) {j : Nat} (hj : j < 2) :
    c.body.getD (2 * p.val + j) 0 = (entryBytes (c.topology.get p)).getD j 0 := by
  have hp := p.isLt
  rw [c.body_eq, List.getD_append _ _ _ _ (by rw [c.topology_length]; omega)]
  exact flatMap_getD (m := 2) (fun _ => rfl) 0 (by rw [c.topology.size]; exact hp) hj

theorem Configuration.body_point (p : PointId) {j : Nat} (hj : j < 4) :
    c.body.getD (32 + (4 * p.val + j)) 0 = (pointConfigBytes (c.points.get p)).getD j 0 := by
  have hp := p.isLt
  rw [c.body_eq, List.getD_append_right _ _ _ _ (by rw [c.topology_length]; omega), c.topology_length,
    Nat.add_sub_cancel_left, List.getD_append _ _ _ _ (by rw [c.points_length]; omega)]
  exact flatMap_getD (m := 4) (fun _ => rfl) 0 (by rw [c.points.size]; exact hp) hj

theorem Configuration.body_section (n : SectionId) {j : Nat} (hj : j < 3) :
    c.body.getD (96 + (3 * n.val + j)) 0 = (sectionParamBytes (c.sections.get n)).getD j 0 := by
  have hn := n.isLt
  rw [c.body_eq, List.getD_append_right _ _ _ _ (by rw [c.topology_length]; omega), c.topology_length,
    List.getD_append_right _ _ _ _ (by rw [c.points_length]; omega), c.points_length,
    show 96 + (3 * n.val + j) - 32 - 64 = 3 * n.val + j by omega, List.getD_append _ _ _ _ (by rw [c.sections_length]; omega)]
  exact flatMap_getD (m := 3) (fun _ => rfl) 0 (by rw [c.sections.size]; exact hn) hj

theorem Configuration.body_tail (j : Nat) : c.body.getD (132 + j) 0 = c.tail.getD j 0 := by
  rw [c.body_eq, List.getD_append_right _ _ _ _ (by rw [c.topology_length]; omega), c.topology_length,
    List.getD_append_right _ _ _ _ (by rw [c.points_length]; omega), c.points_length,
    List.getD_append_right _ _ _ _ (by rw [c.sections_length]; omega), c.sections_length]
  exact congrArg (fun k => c.tail.getD k 0) (by omega)
end

/-! ## Numbers read back -/

theorem byte_toNat {n : Nat} (h : n < 256) : (byte n).toNat = n := by
  rw [byte, BitVec.toNat_ofNat]
  exact Nat.mod_eq_of_lt h

theorem word_bytes {n : Nat} (h : n < 65536) : word (byte (n / 256)) (byte n) = n := by
  unfold word byte
  rw [BitVec.toNat_ofNat, BitVec.toNat_ofNat]
  omega

theorem flagByte_toNat (b : Bool) : ((flagByte b).toNat != 0) = b := by cases b <;> rfl

/-! ## A configuration in range -/

theorem clamp_le {r : Range} {v : Nat} (h : r.clamp v = v) (hr : r.lo ≤ r.hi) : v ≤ r.hi := by
  rw [← h]
  unfold Range.clamp clamp
  omega

section
variable {c : Configuration} (h : c.clamped = c)
include h

theorem Configuration.point_range (p : PointId) :
    (c.points.get p).params.spacing ≤ 250 ∧ (c.points.get p).params.filter ≤ 250 := by
  have hpoints : c.points.map (fun q => ⟨q.startMode, q.params.clamped⟩) = c.points := congrArg Configuration.points h
  have hp : (c.points.get p).params.clamped = (c.points.get p).params := by
    have := congrArg (fun t => (Table.get t p).params) hpoints
    rwa [Table.get_map] at this
  exact ⟨clamp_le (r := spacingRange) (congrArg PointParams.spacing hp) (by decide),
    clamp_le (r := filterRange) (congrArg PointParams.filter hp) (by decide)⟩

theorem Configuration.section_range (n : SectionId) :
    (c.sections.get n).clearDelay ≤ 100 ∧ (c.sections.get n).holdoff ≤ 60 := by
  have hsections : c.sections.map SectionParams.clamped = c.sections := congrArg Configuration.sections h
  have hn : (c.sections.get n).clamped = c.sections.get n := by
    have := congrArg (fun t => Table.get t n) hsections
    rwa [Table.get_map] at this
  exact ⟨clamp_le (r := clearDelayRange) (congrArg SectionParams.clearDelay hn) (by decide),
    clamp_le (r := holdoffRange) (congrArg SectionParams.holdoff hn) (by decide)⟩

theorem Configuration.supplies_range : c.supplies.delay01 ≤ 4095 ∧ c.supplies.delay12 ≤ 4095 ∧
    c.supplies.delay23 ≤ 4095 ∧ c.supplies.settle ≤ 5000 := by
  have hs : c.supplies.clamped = c.supplies := congrArg Configuration.supplies h
  exact ⟨clamp_le (r := delayRange) (congrArg SupplyParams.delay01 hs) (by decide),
    clamp_le (r := delayRange) (congrArg SupplyParams.delay12 hs) (by decide),
    clamp_le (r := delayRange) (congrArg SupplyParams.delay23 hs) (by decide),
    clamp_le (r := settleRange) (congrArg SupplyParams.settle hs) (by decide)⟩

theorem Configuration.ports_range : c.controlBurst ≤ 16 ∧ c.controlRefill ≤ 1000 ∧ c.imagePeriod ≤ 2000 ∧
    c.linkTimeout ≤ 10000 ∧ c.serviceBurst ≤ 16 ∧ c.serviceRefill ≤ 1000 := by
  refine ⟨clamp_le (r := burstRange) (congrArg Configuration.controlBurst h) (by decide),
    clamp_le (r := refillRange) (congrArg Configuration.controlRefill h) (by decide),
    clamp_le (r := imagePeriodRange) (congrArg Configuration.imagePeriod h) (by decide), ?_,
    clamp_le (r := burstRange) (congrArg Configuration.serviceBurst h) (by decide),
    clamp_le (r := refillRange) (congrArg Configuration.serviceRefill h) (by decide)⟩
  have hlink : clampLinkTimeout c.linkTimeout = c.linkTimeout := congrArg Configuration.linkTimeout h
  have := clampLinkTimeout_range c.linkTimeout
  omega
theorem Configuration.device_range : ∀ k, (c.device.get k) ≤ k.range.hi := by
  have hd : c.device.clamped = c.device := congrArg Configuration.device h
  intro k
  have hk := (DeviceParams.clamped_ok c.device).1 k
  rw [hd, Range.holds_iff] at hk
  exact hk.2
end

section
variable (c : Configuration)

/-- A one-byte field of the device-wide part, read at its offset. -/
theorem at1_tail {j n : Nat} (hj : c.tail.getD j 0 = byte n) (hn : n < 256) : at1 c.body (132 + j) = n := by
  unfold at1
  rw [c.body_tail, hj, byte_toNat hn]

/-- A two-byte field of the device-wide part, read at its offset. -/
theorem at2_tail {j n : Nat} (hhi : c.tail.getD j 0 = byte (n / 256)) (hlo : c.tail.getD (j + 1) 0 = byte n)
    (hn : n < 65536) : at2 c.body (132 + j) = n := by
  unfold at2
  rw [c.body_tail, Nat.add_assoc, c.body_tail, hhi, hlo, word_bytes hn]

theorem Configuration.body_topology (p : PointId) :
    (⟨storedSide c.body (2 * p.val), storedSide c.body (2 * p.val + 1)⟩ : TopologyEntry) = c.topology.get p := by
  have hside : ∀ n : Option SectionId, sectionIndex (byteOr (n.map Fin.val)) = n := by decide
  unfold storedSide
  rw [show c.body.getD (2 * p.val) 0 = _ from c.body_entry p (j := 0) (by decide), c.body_entry p (j := 1) (by decide)]
  exact congrArg₂ TopologyEntry.mk (hside _) (hside _)

/-- Every code of the body is one that a SET command takes. -/
theorem codesReplaced_body : codesReplaced c.body = false := by
  unfold codesReplaced
  rw [Bool.or_eq_false_iff, List.any_eq_false, List.any_eq_false]
  constructor
  · intro k hk
    have hk : k < 32 := List.mem_range.mp hk
    have hread := c.body_entry ⟨k / 2, by omega⟩ (j := k % 2) (by omega)
    rw [show 2 * (k / 2) + k % 2 = k by omega] at hread
    rw [hread]
    obtain hside | hside : k % 2 = 0 ∨ k % 2 = 1 := by omega
    · rw [hside]
      exact (congrArg Option.isNone (sideField_of _)).trans_ne Bool.false_ne_true
    · rw [hside]
      exact (congrArg Option.isNone (sideField_of _)).trans_ne Bool.false_ne_true
  · intro p _
    rw [show c.body.getD (32 + 4 * p.val) 0 = _ from c.body_point p (j := 0) (by decide)]
    exact (congrArg Option.isNone (Mode.ofCode_code _)).trans_ne Bool.false_ne_true
end

section
variable {c : Configuration} (h : c.clamped = c)
include h

theorem Configuration.body_points (p : PointId) :
    (⟨storedMode c.body (32 + 4 * p.val), ⟨at2 c.body (33 + 4 * p.val), at1 c.body (35 + 4 * p.val)⟩⟩ : PointConfig) =
      c.points.get p := by
  obtain ⟨hspacing, hfilter⟩ := Configuration.point_range h p
  have read {i j : Nat} (hj : j < 4) (hi : i = 32 + (4 * p.val + j)) :
      c.body.getD i 0 = (pointConfigBytes (c.points.get p)).getD j 0 := hi ▸ c.body_point p hj
  have hmode : storedMode c.body (32 + 4 * p.val) = (c.points.get p).startMode := by
    unfold storedMode
    rw [read (j := 0) (by decide) (by omega)]
    exact congrArg (Option.getD · Mode.outOfUse) (Mode.ofCode_code _)
  have hpair : at2 c.body (33 + 4 * p.val) = (c.points.get p).params.spacing := by
    unfold at2
    rw [read (j := 1) (by decide) (by omega), read (j := 2) (by decide) (by omega)]
    exact word_bytes (by omega)
  have hlast : at1 c.body (35 + 4 * p.val) = (c.points.get p).params.filter := by
    unfold at1
    rw [read (j := 3) (by decide) (by omega)]
    exact byte_toNat (by omega)
  rw [hmode, hpair, hlast]

theorem Configuration.body_sections (n : SectionId) :
    (⟨at1 c.body (96 + 3 * n.val), at1 c.body (97 + 3 * n.val), at1 c.body (98 + 3 * n.val) != 0⟩ : SectionParams) =
      c.sections.get n := by
  obtain ⟨hdelay, hholdoff⟩ := Configuration.section_range h n
  have read {i j : Nat} (hj : j < 3) (hi : i = 96 + (3 * n.val + j)) :
      at1 c.body i = ((sectionParamBytes (c.sections.get n)).getD j 0).toNat := by
    unfold at1
    rw [hi, c.body_section n hj]
  rw [read (j := 0) (by decide) (by omega), read (j := 1) (by decide) (by omega), read (j := 2) (by decide) (by omega)]
  exact congr (congrArg₂ SectionParams.mk (byte_toNat (by omega)) (byte_toNat (by omega))) (flagByte_toNat _)

theorem Configuration.body_device :
    (⟨at1 c.body 132, at2 c.body 133, at1 c.body 135, at1 c.body 136, at1 c.body 137, at1 c.body 138, at1 c.body 139,
      at1 c.body 140, at1 c.body 141, at1 c.body 142, at2 c.body 143, at1 c.body 145⟩ : DeviceParams) = c.device := by
  have one (k : ParamCode) {j : Nat} (hj : c.tail.getD j 0 = byte (c.device.get k)) (hk : k.range.hi < 256) :
      at1 c.body (132 + j) = c.device.get k :=
    at1_tail c hj (lt_of_le_of_lt (Configuration.device_range h k) hk)
  have two (k : ParamCode) {j : Nat} (hhi : c.tail.getD j 0 = byte (c.device.get k / 256))
      (hlo : c.tail.getD (j + 1) 0 = byte (c.device.get k)) (hk : k.range.hi < 65536) :
      at2 c.body (132 + j) = c.device.get k :=
    at2_tail c hhi hlo (lt_of_le_of_lt (Configuration.device_range h k) hk)
  rw [one .tol (j := 0) rfl (by decide), two .vLimit (j := 1) rfl rfl (by decide),
    one .wGlitch (j := 3) rfl (by decide), one .wIrregular (j := 4) rfl (by decide),
    one .wOverspeed (j := 5) rfl (by decide), one .wConfused (j := 6) rfl (by decide),
    one .wProof (j := 7) rfl (by decide), one .leakInterval (j := 8) rfl (by decide),
    one .warnOn (j := 9) rfl (by decide), one .fault (j := 10) rfl (by decide),
    two .interval (j := 11) rfl rfl (by decide), one .response (j := 13) rfl (by decide)]
  rfl

theorem Configuration.raw_body : Configuration.raw c.body = c := by
  obtain ⟨h01, h12, h23, hsettle⟩ := Configuration.supplies_range h
  obtain ⟨hcb, hcr, hip, hlt, hsb, hsr⟩ := Configuration.ports_range h
  have htopology : Table.ofFn (fun p : PointId =>
      (⟨storedSide c.body (2 * p.val), storedSide c.body (2 * p.val + 1)⟩ : TopologyEntry)) = c.topology :=
    Table.ext_get fun p => by rw [Table.get_ofFn, c.body_topology]
  have hpoints : Table.ofFn (fun p : PointId => (⟨storedMode c.body (32 + 4 * p.val),
      ⟨at2 c.body (33 + 4 * p.val), at1 c.body (35 + 4 * p.val)⟩⟩ : PointConfig)) = c.points :=
    Table.ext_get fun p => by rw [Table.get_ofFn, Configuration.body_points h]
  have hsections : Table.ofFn (fun n : SectionId => (⟨at1 c.body (96 + 3 * n.val), at1 c.body (97 + 3 * n.val),
      at1 c.body (98 + 3 * n.val) != 0⟩ : SectionParams)) = c.sections :=
    Table.ext_get fun n => by rw [Table.get_ofFn, Configuration.body_sections h]
  have hflag : (at1 c.body 164 != 0) = c.autostart := by
    unfold at1
    rw [c.body_tail 32]
    exact flagByte_toNat _
  unfold Configuration.raw
  rw [htopology, hpoints, hsections, Configuration.body_device h, hflag,
    at2_tail c (j := 14) (n := c.supplies.delay01) rfl rfl (by omega),
    at2_tail c (j := 16) (n := c.supplies.delay12) rfl rfl (by omega),
    at2_tail c (j := 18) (n := c.supplies.delay23) rfl rfl (by omega),
    at2_tail c (j := 20) (n := c.supplies.settle) rfl rfl (by omega),
    at1_tail c (j := 22) (n := c.controlBurst) rfl (by omega),
    at2_tail c (j := 23) (n := c.controlRefill) rfl rfl (by omega),
    at2_tail c (j := 25) (n := c.imagePeriod) rfl rfl (by omega),
    at2_tail c (j := 27) (n := c.linkTimeout) rfl rfl (by omega),
    at1_tail c (j := 29) (n := c.serviceBurst) rfl (by omega),
    at2_tail c (j := 30) (n := c.serviceRefill) rfl rfl (by omega)]

theorem Configuration.ofBody_body : Configuration.ofBody c.body = (c, false) := by
  show ((Configuration.raw c.body).clamped,
    codesReplaced c.body || (Configuration.raw c.body).clamped != Configuration.raw c.body) = _
  rw [Configuration.raw_body h, h, codesReplaced_body c, bne_self_eq_false]
  rfl
end

/-! ## The checks of LOADING on a whole image -/

/-- An image behind the start bytes, with a length its bytes reach and its own CRC, is loaded or not by its format. -/
theorem loadCheck_of_crc {format hi lo : Byte} {body crc rest : List Byte} (hlen : body.length = word hi lo - 2)
    (hlo : 2 ≤ word hi lo) (hhi : word hi lo ≤ 1019) (hcrc : crc.length = 2) :
    loadCheck (.bytes (0x5E :: 0x91 :: format :: hi :: lo :: (body ++ (crc ++ rest)))) =
      if crc = crcBytes (format :: hi :: lo :: body) then
        if format = 0x01 ∧ word hi lo - 2 = bodySize then (.loaded, body) else (.corrupt, [])
      else (.corrupt, []) := by
  unfold loadCheck
  simp only [List.take_left' hlen, List.drop_left' hlen, List.take_left' hcrc, and_self, if_true]
  rw [if_neg (by omega), if_neg (by rw [List.length_append, List.length_append]; omega)]

theorem loadCheck_image (c : Configuration) (rest : List Byte) : loadCheck (.bytes (c.image ++ rest)) = (.loaded, c.body) := by
  have himage : c.image ++ rest =
      0x5E :: 0x91 :: 0x01 :: 0 :: 167 :: (c.body ++ (crcBytes (0x01 :: 0 :: 167 :: c.body) ++ rest)) := by
    have hlength : bytes2 (bodySize + 2) = [0, 167] := rfl
    unfold Configuration.image
    simp only [hlength, List.append_assoc, List.cons_append, List.nil_append]
  rw [himage, loadCheck_of_crc (c.body_length) (by decide) (by decide) (length_crcBytes _), if_pos rfl, if_pos (by decide)]

/-- Settles O56: the fields of the body stand at the offsets at which LOADING reads them, each within the values a SET
command takes. -/
theorem aStoredImageLoadsBack : Obligations.AStoredImageLoadsBack := by
  unfold Obligations.AStoredImageLoadsBack
  intro c rest h
  exact ⟨c.image_length, loadCheck_image c rest, Configuration.ofBody_body h⟩

/-! ## The store (O57) -/

theorem Ev.onDevice_posts {f : Device → Device} {w : Ev} (h : (f w.s.device).store.isSome ≠ w.s.device.store.isSome) :
    (w.onDevice f).posts = w.posts ++ [.device] := by
  unfold Ev.onDevice
  refine (Ev.postIf_content _ (Device.content_eq_iff _ _) _).2 fun hc => h ?_
  simp only [Prod.mk.injEq] at hc
  exact hc.2.2.2.1

/-- A write begun is the outstanding write of the store, at the number of the next choice. -/
theorem Ev.beginWrite_same (image : List Byte) (address : Nat) (s : State) : (Ev.beginWrite image address ⟨s, [], []⟩).s =
    { s with
      choices := s.choices + 1
      device := { s.device with
        store := some ⟨image, nextWrite image address s.choices, ⟨s.now, Config.sendTime s.choices + 2000⟩⟩ } } := by
  rw [Ev.beginWrite_s, Outputs.followDevice_same]
  rfl

theorem Ev.endStore_same (r : StoreResult) (s : State) : (Ev.endStore r ⟨s, [], []⟩).s =
    { s with device := { s.device with store := none, lastStore := some r } } := by
  rw [Ev.endStore_s, Outputs.followDevice_same]

theorem nextWrite_body {image : List Byte} {address : Nat} (h : address < image.length) (k : Nat) :
    ∃ size, nextWrite image address k = .body address size ∧ 1 ≤ size ∧ address + size ≤ image.length :=
  ⟨_, if_pos h, by omega, by omega⟩

theorem nextWrite_header {image : List Byte} {address : Nat} (h : image.length ≤ address) (k : Nat) :
    nextWrite image address k = .header := if_neg (by omega)

/-- The end of a store in progress is reported, and leaves its result. -/
theorem endStore_ends {s : State} (hs : s.device.store ≠ none) (r : StoreResult) :
    Reports [.device] s (runEvent (Ev.endStore r) s) ∧
      Leaves { s with device := { s.device with store := none, lastStore := some r } } (runEvent (Ev.endStore r) s) := by
  refine ⟨runEvent_reports ?_ fun i => ?_, ?_⟩
  · refine Ev.onDevice_posts (w := ⟨s, [], []⟩) ?_
    rw [Option.ne_none_iff_isSome.mp hs]
    exact Bool.false_ne_true
  · rw [Ev.endStore_same]
    cases i <;> rfl
  · have hleaves := runEvent_leaves (Ev.endStore r) s
    rwa [Ev.endStore_same] at hleaves

theorem storeFailed_mem {s : State} {store : StoreProgress} (hs : s.device.store = some store)
    (ht : store.timer.reached s.now = true) : [.storeFailed] ∈ expiries s := by
  have hdue : due (writeLapses s) .storeFailed = [.storeFailed] := by
    unfold writeLapses
    rw [hs]
    exact if_pos ht
  unfold expiries
  simp only [List.mem_append, List.mem_cons, hdue]
  tauto

section
variable {s : State}

theorem storeWriteAck_body {image : List Byte} {address size : Nat} {timer : Timer}
    (h : s.device.store = some ⟨image, .body address size, timer⟩) :
    exec .storeWriteAck s = .next (runEvent (Ev.beginWrite image (address + size)) s) := by
  show execStoreWriteAck s = _
  unfold execStoreWriteAck
  rw [h]

/-- The acknowledgement of a body write is no event unless a body write is outstanding. -/
theorem storeWriteAck_no_body (h : ∀ image address size timer, s.device.store ≠ some ⟨image, .body address size, timer⟩) :
    exec .storeWriteAck s = .next s := by
  show execStoreWriteAck s = _
  unfold execStoreWriteAck
  split
  case h_1 image address size timer hs => exact absurd hs (h image address size timer)
  case h_2 => rfl
  case h_3 => rfl

theorem storeDone_header {image : List Byte} {timer : Timer} (h : s.device.store = some ⟨image, .header, timer⟩) :
    exec .storeDone s = .next (runEvent (Ev.endStore .done) s) := by
  show execStoreDone s = _
  unfold execStoreDone
  rw [h]

/-- The acknowledgement of the header write is no event unless that write is outstanding. -/
theorem storeDone_no_header (h : ∀ image timer, s.device.store ≠ some ⟨image, .header, timer⟩) :
    exec .storeDone s = .next s := by
  show execStoreDone s = _
  unfold execStoreDone
  split
  case h_1 image timer hs => exact absurd hs (h image timer)
  case h_2 => rfl
  case h_3 => rfl

theorem storeFailed_some {store : StoreProgress} (h : s.device.store = some store) : exec .storeFailed s =
    .next (if staleFailure s store then { s with writeLapsed := false }
      else runEvent (Ev.endStore .failed) { s with writeLapsed := false }) := by
  show execStoreFailed s = _
  unfold execStoreFailed
  rw [h]
  exact (apply_ite Host.Outcome.next _ _ _).symm

theorem storeFailed_none (h : s.device.store = none) : exec .storeFailed s = .next { s with writeLapsed := false } := by
  show execStoreFailed s = _
  unfold execStoreFailed
  rw [h]

theorem staleFailure_iff (store : StoreProgress) :
    staleFailure s store = true ↔ s.writeLapsed = true ∧ store.timer.reached s.now = false := by
  unfold staleFailure
  rw [Bool.and_eq_true, Bool.not_eq_true']
end

theorem actStoreImage_begins {s : State} (hstate : s.device.state = .configuring ∨ s.device.state = .running)
    (hstore : s.device.store = none) (auto : Bool) : actStoreImage [if auto then 1 else 0] ⟨s, [], []⟩ =
      accept (Ev.beginWrite (Configuration.ofState s auto).image 5 ⟨s, [], []⟩) [] := by
  have hchecked : (s.device.state == .configuring || s.device.state == .running) = true := by
    rw [Bool.or_eq_true, beq_iff_eq, beq_iff_eq]
    exact hstate
  have hflag : storeFlag (if auto then 1 else 0) = some auto := by cases auto <;> rfl
  show require (s.device.state == .configuring || s.device.state == .running) _ _ (require s.device.store.isNone _ _
    (withArgument (storeFlag (if auto then 1 else 0)) _)) = _
  rw [hchecked, hstore, hflag]
  rfl

/-- Settles O57. -/
theorem storeImageRunsToItsResult : Obligations.StoreImageRunsToItsResult := by
  unfold Obligations.StoreImageRunsToItsResult
  intro tag auto s d begun
  have written (image : List Byte) (address : Nat) : Leaves (begun s image (nextWrite image address s.choices)
      (Config.sendTime s.choices)) (runEvent (Ev.beginWrite image address) s) := by
    have hleaves := runEvent_leaves (Ev.beginWrite image address) s
    rwa [Ev.beginWrite_same] at hleaves
  refine ⟨fun h4 hstate hstore => ?_, fun image address size timer hstore => ⟨rfl, fun h => ?_, fun h => ?_, ?_⟩,
    fun image timer hstore => ⟨rfl, ⟨_, storeDone_header hstore, ?_⟩, ?_⟩,
    fun store hstore => ⟨storeFailed_mem hstore, fun h => ?_, fun hl ht => ?_⟩,
    fun hstore => ⟨storeWriteAck_no_body fun _ _ _ _ hs => ?_, storeDone_no_header fun _ _ hs => ?_, storeFailed_none hstore⟩⟩
  · let image := (Configuration.ofState s auto).image
    have hact : actStoreImage [if auto then 1 else 0] ⟨s.frameTaken .service, [], []⟩ =
        accept (Ev.beginWrite image 5 ⟨s.frameTaken .service, [], []⟩) [] :=
      actStoreImage_begins (s := s.frameTaken .service) hstate hstore auto
    have himage : image.length = 172 := Configuration.image_length _
    obtain ⟨size, hwrite, hpos, hfits⟩ := nextWrite_body (image := image) (address := 5) (by omega) s.choices
    have hs : (Ev.beginWrite image 5 ⟨s.frameTaken .service, [], []⟩).s =
        begun (s.frameTaken .service) image (.body 5 size) (Config.sendTime s.choices) := by
      rw [Ev.beginWrite_same]
      show State.mk .. = _
      rw [← hwrite]
      rfl
    have hposts : (Ev.beginWrite image 5 ⟨s.frameTaken .service, [], []⟩).posts = [.device] :=
      Ev.onDevice_posts (w := Ev.choose ⟨s.frameTaken .service, [], []⟩) (by
        show true ≠ s.device.store.isSome
        rw [hstore]
        exact Bool.false_ne_true.symm)
    refine ⟨size, Config.sendTime s.choices, _, hpos, by omega, rfl, ?_, ?_⟩
    · rw [← hposts]
      exact takeCommand_reports (i := .service) h4 rfl rfl hact fun j => by rw [hs]; cases j <;> rfl
    · exact takeCommand_runs (i := .service) h4 rfl rfl ⟨_, hact, hs⟩ rfl rfl
  · obtain ⟨size', hwrite, hpos, hfits⟩ := nextWrite_body h s.choices
    exact ⟨size', Config.sendTime s.choices, _, hpos, hfits, storeWriteAck_body hstore, hwrite ▸ written _ _⟩
  · exact ⟨Config.sendTime s.choices, _, storeWriteAck_body hstore, nextWrite_header h s.choices ▸ written _ _⟩
  · exact storeDone_no_header fun _ _ hs => by
      cases Option.some.inj (hstore.symm.trans hs)
  · exact endStore_ends (hstore.trans_ne (Option.some_ne_none _)) .done
  · exact storeWriteAck_no_body fun _ _ _ _ hs => by
      cases Option.some.inj (hstore.symm.trans hs)
  · refine ⟨_, (storeFailed_some hstore).trans (congrArg Host.Outcome.next (if_neg ?_)),
      endStore_ends (s := { s with writeLapsed := false }) (hstore.trans_ne (Option.some_ne_none _)) .failed⟩
    rw [staleFailure_iff]
    rintro ⟨hl, ht⟩
    obtain h | h := h
    · rw [h] at hl; cases hl
    · rw [h] at ht; cases ht
  · exact (storeFailed_some hstore).trans (congrArg Host.Outcome.next (if_pos ((staleFailure_iff store).mpr ⟨hl, ht⟩)))
  · cases hstore.symm.trans hs
  · cases hstore.symm.trans hs

end Sys2Proof.Machine
end

section
/-! SET DEVICE PARAMETERS of one item (O58). -/

namespace Sys2Proof.Machine

/-! ## The values of one item -/

/-- The values in force after one item: the value clamped, and the threshold pair in order. -/
def DeviceParams.given (d : DeviceParams) (c : ParamCode) (n : Nat) : DeviceParams := (d.put c (c.range.clamp n)).ordered

section
variable (d : DeviceParams) (c : ParamCode) (n : Nat)

theorem DeviceParams.given_ok (h : d.Ok) : (d.given c n).Ok := DeviceParams.ordered_ok (DeviceParams.put_inRange h.1 c n)

theorem DeviceParams.ordered_intervals : d.ordered.leakInterval = d.leakInterval ∧ d.ordered.interval = d.interval := by
  unfold DeviceParams.ordered
  split <;> exact ⟨rfl, rfl⟩

theorem DeviceParams.given_leakInterval : (d.given c n).leakInterval =
    if c = .leakInterval then c.range.clamp n else d.leakInterval :=
  (DeviceParams.ordered_intervals _).1.trans (by cases c <;> rfl)

theorem DeviceParams.given_interval : (d.given c n).interval = if c = .interval then c.range.clamp n else d.interval :=
  (DeviceParams.ordered_intervals _).2.trans (by cases c <;> rfl)
end

theorem allParams_at {k : Nat} {c : ParamCode} (h : allParams[k]? = some c) : k < 12 := (List.getElem?_eq_some_iff.mp h).1

/-- The mask of one item: its own bit, and the bit of warn_on when the pair was brought into order. -/
theorem clampedMask_item {k n : Nat} {c : ParamCode} (h : allParams[k]? = some c) {carried : DeviceParams}
    (hfault : 0 < carried.fault) :
    clampedMask [⟨c, n⟩] carried carried.ordered =
      (if c.range.clamp n = n then 0 else 2 ^ k) ||| (if carried.fault ≤ carried.warnOn then 256 else 0) := by
  have hcode : ∀ j < 12, (allParams[j]? == some c) = decide (j = k) := by
    have : ∀ k < 12, ∀ j < 12, (allParams[j]? == allParams[k]?) = decide (j = k) := by decide
    rw [← h]
    exact this k (allParams_at h)
  have hwarn : ∀ j < 12, (allParams[j]? == some .warnOn) = decide (j = 8) := by decide
  have hordered : (carried.ordered.warnOn != carried.warnOn) = decide (carried.fault ≤ carried.warnOn) := by
    unfold DeviceParams.ordered
    split
    · rename_i hle
      rw [decide_eq_true hle, bne_iff_ne]
      show carried.fault - 1 ≠ carried.warnOn
      omega
    · rename_i hle
      rw [decide_eq_false hle, bne_self_eq_false]
  have hmask : ∀ k < 12, ∀ a b : Bool, maskOf ((List.range 12).filter fun j => decide (j = k) && a || decide (j = 8) && b) =
      (if a then 2 ^ k else 0) ||| (if b then 256 else 0) := by decide
  unfold clampedMask
  rw [hordered, List.filter_congr (q := fun j => decide (j = k) && (c.range.clamp n != n) ||
    decide (j = 8) && decide (carried.fault ≤ carried.warnOn)) fun j hj => by
      rw [List.any_cons, List.any_nil, Bool.or_false, hcode j (List.mem_range.mp hj), hwarn j (List.mem_range.mp hj)],
    hmask k (allParams_at h)]
  congr 1
  · by_cases hn : c.range.clamp n = n
    · rw [if_pos hn, hn, bne_self_eq_false]; rfl
    · rw [if_neg hn, if_pos (bne_iff_ne.mpr hn)]
  · exact if_congr (by rw [decide_eq_true_eq]) rfl rfl

/-! ## The command -/

theorem actSetDeviceParameters_item {k : Nat} {c : ParamCode} (h : allParams[k]? = some c) (hi lo : Byte) {w : Ev}
    (hlive : w.s.device.state.live = true) : actSetDeviceParameters [BitVec.ofNat 8 k, hi, lo] w =
      accept (w.setDeviceParams (w.s.params.given c (word hi lo)) (c == .warnOn || c == .fault)).settle
        ((w.s.params.given c (word hi lo)).bytes ++
          bytes2 (clampedMask [⟨c, word hi lo⟩] (w.s.params.put c (c.range.clamp (word hi lo)))
            (w.s.params.given c (word hi lo)))) := by
  have hk := allParams_at h
  have hitem : readAll paramItem [(BitVec.ofNat 8 k, hi, lo)] = some [⟨c, word hi lo⟩] := by
    have hcode : ParamCode.ofByte (BitVec.ofNat 8 k) = some c := by
      unfold ParamCode.ofByte
      rw [show (BitVec.ofNat 8 k).toNat = k from byte_toNat (by omega), h]
    unfold readAll paramItem
    rw [hcode]
    rfl
  show require w.s.device.state.live _ _ (require _ _ _ (withArgument (readAll paramItem [(BitVec.ofNat 8 k, hi, lo)]) _)) = _
  rw [hlive, hitem, ← Bool.or_false (c == .warnOn || c == .fault)]
  rfl

/-- An item taken on the service port is answered with the values now in force, and its work is done. -/
theorem setDeviceParameters_answers {tag hi lo : Byte} {c : ParamCode} {k : Nat} {s expected : State}
    (h4 : s.service.replies.length < 4) (hlive : s.device.state.live = true) (hok : s.params.Ok)
    (hk : allParams[k]? = some c)
    (hwork : ((Ev.mk (s.frameTaken .service) [] []).setDeviceParams (s.params.given c (word hi lo))
      (c == .warnOn || c == .fault)).s = expected) :
    ∃ u, exec (.setDeviceParameters .service tag [BitVec.ofNat 8 k, hi, lo]) s = .next u ∧
      Runs .service 0x0E tag (.accepted ((s.params.given c (word hi lo)).bytes ++ bytes2
          ((if c.range.clamp (word hi lo) = word hi lo then 0 else 2 ^ k) |||
            (if (s.params.put c (c.range.clamp (word hi lo))).fault ≤ (s.params.put c (c.range.clamp (word hi lo))).warnOn
              then 256 else 0))))
        (s.frameTaken .service) expected.settled u := by
  have hfault : 2 ≤ (s.params.put c (c.range.clamp (word hi lo))).fault :=
    ((Range.holds_iff _ _).mp (DeviceParams.put_inRange hok.1 c (word hi lo) .fault)).1
  have hact := actSetDeviceParameters_item (w := ⟨s.frameTaken .service, [], []⟩) hk hi lo hlive
  rw [show (s.frameTaken .service).params = s.params from rfl, show s.params.given c (word hi lo) =
    (s.params.put c (c.range.clamp (word hi lo))).ordered from rfl, clampedMask_item hk (by omega)] at hact
  refine ⟨_, rfl, takeCommand_settled h4 rfl (show (3 % 3 == 0) = true from rfl) ⟨_, hact, hwork⟩ ?_⟩
  rw [← hwork]
  exact (Ev.setDeviceParams_changes _ _ ⟨s.frameTaken .service, [], []⟩ fun _ => s.params.given_ok c _ hok).fixed.2.2.2.2.2.1

/-! ## What new values do -/

theorem Ev.setDeviceParams_plain {d : DeviceParams} {w : Ev} (hleak : d.leakInterval = w.s.params.leakInterval)
    (hinterval : d.interval = w.s.params.interval) (b : Bool) : w.setDeviceParams d b =
      if b then (w.onParams fun _ => d).evaluateAll else w.onParams fun _ => d := by
  unfold Ev.setDeviceParams
  dsimp only
  rw [if_pos hleak, if_pos hinterval]

theorem Ev.setDeviceParams_leak {d : DeviceParams} {w : Ev} (hleak : d.leakInterval ≠ w.s.params.leakInterval)
    (hinterval : d.interval = w.s.params.interval) : w.setDeviceParams d false =
      (w.onParams fun _ => d).retimeLeak d.leakInterval := by
  unfold Ev.setDeviceParams
  dsimp only
  rw [if_neg hleak, if_pos hinterval]
  rfl

theorem Ev.setDeviceParams_interval {d : DeviceParams} {w : Ev} (hleak : d.leakInterval = w.s.params.leakInterval)
    (hinterval : d.interval ≠ w.s.params.interval) : w.setDeviceParams d false =
      (w.onParams fun _ => d).retimeProofs d.interval := by
  unfold Ev.setDeviceParams
  dsimp only
  rw [if_pos hleak, if_neg hinterval]
  rfl

/-- A leak period whose new length is not reached keeps its start value, and no leak is taken. -/
theorem Ev.retimeLeak_running {interval : Nat} {w : Ev} (h : (w.s.now - w.s.leakTimer.start).toNat < 100000 * interval) :
    w.retimeLeak interval = { w with s := { w.s with leakTimer := ⟨w.s.leakTimer.start, 100000 * interval⟩ } } := by
  have hr : (Timer.mk w.s.leakTimer.start (seconds interval)).reached w.s.now = false :=
    decide_eq_false (Nat.not_le.mpr h)
  unfold Ev.retimeLeak Timer.retime Timer.retimeExpires
  dsimp only
  rw [hr]
  rfl

theorem Ev.retimeLeak_reached {interval : Nat} {w : Ev} (h : 100000 * interval ≤ (w.s.now - w.s.leakTimer.start).toNat) :
    w.retimeLeak interval = Ev.leak { w with s := { w.s with leakTimer := ⟨w.s.now, 100000 * interval⟩ } } := by
  have hr : (Timer.mk w.s.leakTimer.start (seconds interval)).reached w.s.now = true := decide_eq_true h
  unfold Ev.retimeLeak Timer.retime Timer.retimeExpires
  dsimp only
  rw [hr]
  rfl

/-! ## A new proof interval -/

/-- A proof record whose running timers take new lengths. -/
def ProofStatus.retimed (due overdue : Nat) (st : ProofStatus) : ProofStatus :=
  { st with
    dueTimer := st.dueTimer.map fun t => ⟨t.start, due⟩
    overdueTimer := st.overdueTimer.map fun t => ⟨t.start, overdue⟩ }

/-- No running timer of the record has reached its new length. -/
def ProofStatus.Running (now : Time) (due overdue : Nat) (st : ProofStatus) : Prop :=
  (∀ t, st.dueTimer = some t → (now - t.start).toNat < due) ∧ ∀ t, st.overdueTimer = some t → (now - t.start).toNat < overdue

theorem Timer.not_reached {now start : Time} {length : Nat} (h : (now - start).toNat < length) :
    ¬(Timer.mk start length).reached now = true := ne_true_of_eq_false (decide_eq_false (Nat.not_le.mpr h))

theorem Point.onProof_same {x : Sys} {f : ProofStatus → ProofStatus} {pt : Point} (h : f (pt.proof x) = pt.proof x) :
    pt.onProof x f = pt := (Point.onProof_congr (g := id) h).trans (by cases x <;> rfl)

section
variable {interval : Nat} {p : PointId} {x : Sys} {w : Ev}

theorem Ev.retimeDue_running
    (h : ∀ t, ((w.s.point p).proof x).dueTimer = some t → (w.s.now - t.start).toNat < 100000 * interval) :
    (w.retimeDue interval p x).s = w.s.setPoint p ((w.s.point p).onProof x fun st =>
      { st with dueTimer := st.dueTimer.map fun t => ⟨t.start, 100000 * interval⟩ }) := by
  unfold Ev.retimeDue
  split
  · rename_i hnone
    rw [Point.onProof_same (by rw [hnone]; exact congrArg (fun o => { (w.s.point p).proof x with dueTimer := o }) hnone.symm)]
    exact (State.setPoint_same p w.s).symm
  · rename_i t ht
    rw [if_neg (Timer.not_reached (length := seconds interval) (h t ht)), Ev.onPoint_setPoint]
    exact congrArg (w.s.setPoint p) (Point.onProof_congr (by rw [ht]; rfl))

theorem Ev.retimeOverdue_running
    (h : ∀ t, ((w.s.point p).proof x).overdueTimer = some t → (w.s.now - t.start).toNat < 2 * (100000 * interval)) :
    (w.retimeOverdue interval p x).s = w.s.setPoint p ((w.s.point p).onProof x fun st =>
      { st with overdueTimer := st.overdueTimer.map fun t => ⟨t.start, 2 * (100000 * interval)⟩ }) := by
  unfold Ev.retimeOverdue
  split
  · rename_i hnone
    rw [Point.onProof_same
      (by rw [hnone]; exact congrArg (fun o => { (w.s.point p).proof x with overdueTimer := o }) hnone.symm)]
    exact (State.setPoint_same p w.s).symm
  · rename_i t ht
    rw [if_neg (Timer.not_reached (length := 2 * seconds interval) (h t ht)), Ev.onPoint_setPoint]
    exact congrArg (w.s.setPoint p) (Point.onProof_congr (by rw [ht]; rfl))

theorem Ev.retime_running (h : ((w.s.point p).proof x).Running w.s.now (100000 * interval) (2 * (100000 * interval))) :
    ((w.retimeDue interval p x).retimeOverdue interval p x).s = w.s.setPoint p
      ((w.s.point p).onProof x (ProofStatus.retimed (100000 * interval) (2 * (100000 * interval)))) := by
  obtain ⟨hdue, hoverdue⟩ := h
  have first := Ev.retimeDue_running hdue
  generalize w.retimeDue interval p x = v at first ⊢
  rw [Ev.retimeOverdue_running (w := v) (by rw [first, State.setPoint_self]; cases x <;> exact hoverdue), first,
    State.setPoint_self, State.setPoint_setPoint]
  cases x <;> rfl
end

theorem Ev.retimeProofs_running {interval : Nat} {w : Ev}
    (h : ∀ p x, ((w.s.point p).proof x).Running w.s.now (100000 * interval) (2 * (100000 * interval))) :
    (w.retimeProofs interval).s = { w.s with points := w.s.points.map fun pt => { pt with
      proofA := pt.proofA.retimed (100000 * interval) (2 * (100000 * interval))
      proofB := pt.proofB.retimed (100000 * interval) (2 * (100000 * interval)) } } := by
  unfold Ev.retimeProofs
  refine foldl_allPoints fun v p T hv hp => ?_
  have hnow : v.s.now = w.s.now := by rw [hv]
  show (((Ev.retimeOverdue interval p .b (Ev.retimeDue interval p .b
    ((v.retimeDue interval p .a).retimeOverdue interval p .a)))).s) = _
  have ha := Ev.retime_running (interval := interval) (w := v) (p := p) (x := .a) (by rw [hp, hnow]; exact h p .a)
  generalize (v.retimeDue interval p .a).retimeOverdue interval p .a = u at ha ⊢
  rw [Ev.retime_running (w := u) (x := .b) (by
    rw [ha, State.setPoint_self, hp]
    show ProofStatus.Running v.s.now _ _ _
    rw [hnow]
    exact h p .b), ha, State.setPoint_self, State.setPoint_setPoint]
  rfl

/-! ## New thresholds -/

/-- A point evaluated at its level as it stands. -/
def State.evaluated (d : DeviceParams) (v : State) (p : PointId) : State :=
  if (v.point p).health ≠ .fault ∧ d.fault ≤ (v.point p).level then v.fault p .level
  else v.setPoint p { v.point p with health := nextHealth d (v.point p).health (v.point p).level }

theorem State.setPoint_health {s : State} {p : PointId} {h : Health} (hs : (s.point p).health = h) :
    s.setPoint p { s.point p with health := h } = s := by
  rw [← hs]
  exact State.setPoint_same p s

theorem Ev.evaluateHealth_s (p : PointId) (w : Ev) : (w.evaluateHealth p).s = w.s.evaluated w.s.params p := by
  unfold State.evaluated
  by_cases hf : (w.s.point p).health = .fault
  · rw [Ev.evaluateHealth_of_fault hf, if_neg (fun h => h.1 hf), hf]
    exact (State.setPoint_health hf).symm
  · by_cases hl : w.s.params.fault ≤ (w.s.point p).level
    · rw [Ev.evaluateHealth_enters hf hl, if_pos ⟨hf, hl⟩, Ev.enterFault_s]
    · rw [Ev.evaluateHealth_marks hf (Nat.lt_of_not_le hl), if_neg (fun h => hl h.2), Ev.onPoint_setPoint]

theorem State.evaluated_params (d : DeviceParams) (v : State) (p : PointId) : (v.evaluated d p).params = v.params := by
  unfold State.evaluated
  split
  · exact (State.fault_around p .level v).params
  · rfl

theorem Ev.evaluateAll_s (w : Ev) : w.evaluateAll.s = allPoints.foldl (State.evaluated w.s.params) w.s := by
  unfold Ev.evaluateAll
  generalize allPoints = l
  suffices key : ∀ (d : DeviceParams) (w : Ev), w.s.params = d →
      (l.foldl (fun w p => w.evaluateHealth p) w).s = l.foldl (State.evaluated d) w.s from key _ w rfl
  intro d
  induction l with
  | nil => exact fun _ _ => rfl
  | cons p l ih =>
    intro w hw
    have hs := Ev.evaluateHealth_s p w
    rw [hw] at hs
    rw [List.foldl_cons, List.foldl_cons, ih _ (by rw [hs, State.evaluated_params, hw]), hs]

theorem Ev.evaluateAll_below {w : Ev} (h : ∀ p, (w.s.point p).health = .fault ∨ (w.s.point p).level < w.s.params.fault) :
    w.evaluateAll.s = { w.s with
      points := w.s.points.map fun pt => { pt with health := nextHealth w.s.params pt.health pt.level } } := by
  unfold Ev.evaluateAll
  refine foldl_allPoints fun v p T hv hp => ?_
  have hparams : v.s.params = w.s.params := by rw [hv]
  rw [Ev.evaluateHealth_s, State.evaluated, hparams, if_neg]
  rintro ⟨hf, hl⟩
  rw [hp] at hf hl
  obtain h | h := h p
  · exact hf h
  · omega

/-- Settles O58. -/
theorem setDeviceParametersTakesEffectAtOnce : Obligations.SetDeviceParametersTakesEffectAtOnce := by
  unfold Obligations.SetDeviceParametersTakesEffectAtOnce
  intro tag hi lo c k s h4 hlive hok hk s' v carried d mask answers
  let w : Ev := ⟨s', [], []⟩
  have answered {expected : State} (h : (w.setDeviceParams d (c == .warnOn || c == .fault)).s = expected) :
      answers expected := setDeviceParameters_answers h4 hlive hok hk h
  have hleak : d.leakInterval = if c = .leakInterval then v else s.params.leakInterval :=
    s.params.given_leakInterval c (word hi lo)
  have hinterval : d.interval = if c = .interval then v else s.params.interval := s.params.given_interval c (word hi lo)
  have plain (h1 : d.leakInterval = s.params.leakInterval) (h2 : d.interval = s.params.interval)
      (h3 : c ≠ .warnOn) (h5 : c ≠ .fault) : answers { s' with params := d } := answered (by
    rw [Ev.setDeviceParams_plain h1 h2, show (c == .warnOn || c == .fault) = false by simp [h3, h5]]
    rfl)
  have evaluated (h : c = .warnOn ∨ c = .fault) : w.setDeviceParams d (c == .warnOn || c == .fault) =
      Ev.evaluateAll ⟨{ s' with params := d }, [], []⟩ := by
    rw [Ev.setDeviceParams_plain (hleak.trans (if_neg (by rintro rfl; simp at h)))
      (hinterval.trans (if_neg (by rintro rfl; simp at h))),
      show (c == .warnOn || c == .fault) = true by simpa using h]
    rfl
  refine ⟨fun h1 h2 h3 h5 => plain (hleak.trans (if_neg h1)) (hinterval.trans (if_neg h2)) h3 h5,
    fun hc hv => ?_, fun hc hv hr => answered ?_, fun hc hv hr h => answered ?_, fun hc hv => ?_,
    fun hc hv h => answered ?_, fun hc h => answered ?_, fun hc => answered ?_⟩
  · subst hc
    exact plain (hleak.trans hv) hinterval nofun nofun
  · subst hc
    rw [show (ParamCode.leakInterval == .warnOn || ParamCode.leakInterval == .fault) = false from rfl,
      Ev.setDeviceParams_leak (by rw [hleak]; exact hv) hinterval, hleak]
    exact congrArg Ev.s (Ev.retimeLeak_running (w := w.onParams fun _ => d) hr)
  · subst hc
    rw [show (ParamCode.leakInterval == .warnOn || ParamCode.leakInterval == .fault) = false from rfl,
      Ev.setDeviceParams_leak (by rw [hleak]; exact hv) hinterval, hleak]
    exact (congrArg Ev.s (Ev.retimeLeak_reached (w := w.onParams fun _ => d) hr)).trans (Ev.leak_s _ fun p hf => (h p).resolve_left hf)
  · subst hc
    exact plain hleak (hinterval.trans hv) nofun nofun
  · subst hc
    rw [show (ParamCode.interval == .warnOn || ParamCode.interval == .fault) = false from rfl,
      Ev.setDeviceParams_interval hleak (by rw [hinterval]; exact hv), hinterval]
    exact Ev.retimeProofs_running h
  · rw [evaluated hc]
    exact Ev.evaluateAll_below h
  · rw [evaluated hc]
    exact Ev.evaluateAll_s _

end Sys2Proof.Machine
end

section
/-! IMAGE_LOAD_COMPLETE (O55): what the load takes over, and what the work after it keeps. -/

namespace Sys2Proof.Machine

/-! ## What an image stores of a state -/

/-- What an image stores stays, and so do the staged pairs (section 9.2). -/
structure SameStored (s t : State) : Prop where
  topology : t.topology = s.topology
  params : t.params = s.params
  supplies : t.sequencer.params = s.sequencer.params
  control : t.control.burst = s.control.burst ∧ t.control.refillPeriod = s.control.refillPeriod
  service : t.service.burst = s.service.burst ∧ t.service.refillPeriod = s.service.refillPeriod
  link : t.link.imagePeriod = s.link.imagePeriod ∧ t.link.timeout = s.link.timeout
  points : ∀ p, (t.point p).stored = (s.point p).stored
  sections : ∀ n, (t.sec n).settings = (s.sec n).settings

section
variable {a b : Point} (h : b.stored = a.stored)
include h
theorem Point.startMode_of_stored : b.startMode = a.startMode := congrArg Prod.fst h
theorem Point.params_of_stored : b.params = a.params := congrArg (fun x => x.2.1) h
theorem Point.staged_of_stored : b.staged = a.staged := congrArg (fun x => x.2.2) h
end

/-- The configuration of a state, field by field. -/
theorem Configuration.ofState_eq {c : Configuration} {t : State} (htopology : t.topology = c.topology) (hparams : t.params = c.device)
    (hsupplies : t.sequencer.params = c.supplies)
    (hcontrol : t.control.burst = c.controlBurst ∧ t.control.refillPeriod = c.controlRefill)
    (hservice : t.service.burst = c.serviceBurst ∧ t.service.refillPeriod = c.serviceRefill)
    (hlink : t.link.imagePeriod = c.imagePeriod ∧ t.link.timeout = c.linkTimeout)
    (hpoints : ∀ p, (t.point p).startMode = (c.points.get p).startMode ∧ (t.point p).params = (c.points.get p).params)
    (hsections : ∀ n, (t.sec n).settings =
      ((c.sections.get n).clearDelay, (c.sections.get n).holdoff, (c.sections.get n).direct)) :
    Configuration.ofState t c.autostart = c := by
  have hpointTable : t.points.map (fun pt => (⟨pt.startMode, pt.params⟩ : PointConfig)) = c.points :=
    Table.ext_get fun p => by
      rw [Table.get_map]
      exact congrArg₂ PointConfig.mk (hpoints p).1 (hpoints p).2
  have hsectionTable : t.sections.map (fun r => (⟨r.clearDelay, r.holdoff, r.directPermitted⟩ : SectionParams)) =
      c.sections := Table.ext_get fun n => by
    rw [Table.get_map]
    exact congrArg (fun x : Nat × Nat × Bool => SectionParams.mk x.1 x.2.1 x.2.2) (hsections n)
  unfold Configuration.ofState
  rw [hpointTable, hsectionTable, htopology, hparams, hsupplies, hcontrol.1, hcontrol.2, hservice.1, hservice.2, hlink.1,
    hlink.2]

theorem SameStored.refl (s : State) : SameStored s s :=
  ⟨rfl, rfl, rfl, ⟨rfl, rfl⟩, ⟨rfl, rfl⟩, ⟨rfl, rfl⟩, fun _ => rfl, fun _ => rfl⟩

section
variable {s t u : State}

theorem SameStored.trans (h : SameStored s t) (h' : SameStored t u) : SameStored s u :=
  ⟨h'.topology.trans h.topology, h'.params.trans h.params, h'.supplies.trans h.supplies,
    ⟨h'.control.1.trans h.control.1, h'.control.2.trans h.control.2⟩,
    ⟨h'.service.1.trans h.service.1, h'.service.2.trans h.service.2⟩,
    ⟨h'.link.1.trans h.link.1, h'.link.2.trans h.link.2⟩,
    fun p => (h'.points p).trans (h.points p), fun n => (h'.sections n).trans (h.sections n)⟩

variable (h : SameStored s t)
include h

theorem SameStored.startMode (p : PointId) : (t.point p).startMode = (s.point p).startMode :=
  Point.startMode_of_stored (h.points p)

theorem SameStored.pair (p : PointId) : (t.point p).params = (s.point p).params := Point.params_of_stored (h.points p)

theorem SameStored.ofState (auto : Bool) : Configuration.ofState t auto = Configuration.ofState s auto := by
  have hpoint : ∀ p, (Configuration.ofState s auto).points.get p = ⟨(s.point p).startMode, (s.point p).params⟩ := fun p =>
    Table.get_map ..
  have hsection : ∀ n, (Configuration.ofState s auto).sections.get n =
      ⟨(s.sec n).clearDelay, (s.sec n).holdoff, (s.sec n).directPermitted⟩ := fun n => Table.get_map ..
  refine Configuration.ofState_eq (c := Configuration.ofState s auto) h.topology h.params h.supplies h.control h.service h.link
    (fun p => ?_) fun n => ?_
  · rw [hpoint]
    exact ⟨h.startMode p, h.pair p⟩
  · rw [hsection]
    exact h.sections n

/-- The start checks read what an image stores alone. -/
theorem SameStored.startFault : startFault t = startFault s := by
  have hentry : ∀ p, t.entry p = s.entry p := fun p => congrArg (fun u => Table.get u p) h.topology
  have hmembers : ∀ n, members t n = members s n := fun n => by unfold members; rw [h.topology]
  have hmodes : ∀ p, startsInUse t p = startsInUse s p := fun p => by unfold startsInUse; rw [h.startMode]
  unfold Machine.startFault
  simp only [hentry, hmembers, hmodes, h.params, h.pair]
end

theorem SameStored.foldl {α : Type} {f : Ev → α → Ev} (hf : ∀ w a, SameStored w.s (f w a).s) (l : List α) (w : Ev) :
    SameStored w.s (l.foldl f w).s := by
  induction l generalizing w with
  | nil => exact .refl w.s
  | cons a l ih => exact (hf w a).trans (ih _)

theorem AroundProofs.sameStored {p : PointId} {s t : State} (h : AroundProofs p s t)
    (hpoint : (t.point p).stored = (s.point p).stored) (hsections : Dormant s t) : SameStored s t := by
  have hpoints : ∀ q, (t.point q).stored = (s.point q).stored := fun q => by
    by_cases hq : q = p
    · rw [hq]; exact hpoint
    · rw [h.point_ne hq]
  unfold AroundProofs Around at h
  generalize t.point p = pt at h
  exact ⟨by rw [h], by rw [h], by rw [h], by rw [h]; exact ⟨rfl, rfl⟩, by rw [h]; exact ⟨rfl, rfl⟩,
    by rw [h]; exact ⟨rfl, rfl⟩, hpoints, fun n => (hsections n).1⟩

theorem Ev.onDevice_sameStored (f : Device → Device) (w : Ev) : SameStored w.s (w.onDevice f).s := by
  rw [Ev.onDevice_s]
  exact ⟨rfl, rfl, rfl, ⟨rfl, rfl⟩, ⟨rfl, rfl⟩, ⟨rfl, rfl⟩, fun _ => rfl, fun _ => rfl⟩

theorem Ev.settleActivity_sameStored (w : Ev) : SameStored w.s w.settleActivity.s := by
  by_cases hc : w.s.activityComplete
  · rw [Ev.settleActivity_of_complete hc]
    exact ⟨rfl, rfl, rfl, ⟨rfl, rfl⟩, ⟨rfl, rfl⟩, ⟨rfl, rfl⟩, fun _ => rfl, fun _ => rfl⟩
  · rw [Ev.settleActivity_of_running hc]
    exact .refl w.s

/-- With no pair staged, the end of an event applies none. -/
theorem State.settled_sameStored {s : State} (h : ∀ p, (s.point p).staged = none) : SameStored s s.settled := by
  have hframe := Ev.settleProofs_frame ⟨s, [], []⟩
  have hactivity := (Ev.settleProofs ⟨s, [], []⟩).settleActivity_sameStored
  have hsettled : s.settled = (Ev.settleProofs ⟨s, [], []⟩).settleActivity.s := rfl
  rw [← hsettled] at hactivity
  refine .trans ?_ hactivity
  rw [hframe]
  refine ⟨rfl, rfl, rfl, ⟨rfl, rfl⟩, ⟨rfl, rfl⟩, ⟨rfl, rfl⟩, fun p => congrArg Point.stored ?_, fun _ => rfl⟩
  exact (State.pairsApplied_point s p).trans (State.pairApplied_of_none (h p))

theorem Leaves.sameStored {s t : State} (h : Leaves s t) : SameStored s t := by
  have hpoints : ∀ p, (t.point p).stored = (s.point p).stored := fun p => congrArg Point.stored (h.point p)
  have hsections : ∀ n, (t.sec n).settings = (s.sec n).settings := fun n => congrArg SectionRecord.settings (h.sec n)
  obtain ⟨hrest, hcontrol, hservice, hlink, -⟩ := h
  unfold Port.SendsOnly at hcontrol hservice
  exact ⟨by rw [hrest], by rw [hrest], by rw [hrest], by rw [hcontrol]; exact ⟨rfl, rfl⟩,
    by rw [hservice]; exact ⟨rfl, rfl⟩, by rw [hlink]; exact ⟨rfl, rfl⟩, hpoints, hsections⟩

/-! ## The start of a loaded configuration -/

theorem Ev.gainEligibility_dormant (p : PointId) (w : Ev) : Dormant w.s (w.gainEligibility p).s := by
  have hepoch : ∀ (x : Sys) (v : Ev), Dormant v.s (v.startEpoch p x).s := fun x v =>
    (Ev.onProofStatus_dormant p (Point.onProof x ProofStatus.epochStart) v).trans (.of_sections rfl)
  exact (hepoch .a w).trans (hepoch .b _)

theorem Ev.bringIntoUse_dormant (p : PointId) (w : Ev) : Dormant w.s (w.bringIntoUse p).s := by
  have hinitialised : Dormant w.s (if lit w.s p then w.initialise p else w).s := by
    split
    · exact Ev.initialise_dormant p w
    · exact .refl w.s
  unfold Ev.bringIntoUse
  dsimp only
  generalize (if lit w.s p then w.initialise p else w) = v at hinitialised ⊢
  split
  · exact hinitialised.trans (Ev.gainEligibility_dormant p v)
  · exact hinitialised

theorem Ev.withdrawn_dormant (p : PointId) (was : Bool) (w : Ev) :
    Dormant w.s (if was then w.disturbAll p .pointWithdrawn else w).s := by
  split
  · exact Ev.disturbAll_dormant p .pointWithdrawn w
  · exact .refl w.s

theorem Ev.takeOutOfUse_dormant (p : PointId) (was : Bool) (w : Ev) : Dormant w.s (w.takeOutOfUse p was).s :=
  ((Ev.withdrawn_dormant p was w).trans (Ev.resetMachine_dormant p _)).trans (Ev.loseEligibility_dormant p false _)

theorem Ev.changeMode_dormant (p : PointId) (m : Mode) (w : Ev) : Dormant w.s (w.changeMode p m).s := by
  have hmoved := Ev.onPoint_dormant p (fun pt => { pt with mode := m }) w
  unfold Ev.changeMode
  dsimp only
  generalize w.onPoint p (fun pt => { pt with mode := m }) = v at hmoved ⊢
  split
  case h_2 | h_3 => exact hmoved.trans (Ev.bringIntoUse_dormant p v)
  case h_4 | h_5 => exact hmoved.trans (Ev.takeOutOfUse_dormant p _ v)
  case h_9 => exact hmoved.trans (Ev.withdrawn_dormant p _ v)
  all_goals exact hmoved

theorem Ev.applyStartModes_sameStored (w : Ev) : SameStored w.s w.applyStartModes.s :=
  SameStored.foldl (fun v p =>
    let ⟨haround, _, hstored⟩ := Ev.changeMode_changesPoint p (v.s.point p).startMode v
    haround.sameStored hstored (Ev.changeMode_dormant p _ v)) _ w

theorem Ev.startPowerOn_sameStored {w : Ev} (h0 : w.s.sequencer.params.delay01 ≠ 0) : SameStored w.s w.startPowerOn.s := by
  rw [Ev.startPowerOn_s h0]
  split
  · split <;> exact ⟨rfl, rfl, rfl, ⟨rfl, rfl⟩, ⟨rfl, rfl⟩, ⟨rfl, rfl⟩, fun _ => rfl, fun _ => rfl⟩
  · exact ⟨rfl, rfl, rfl, ⟨rfl, rfl⟩, ⟨rfl, rfl⟩, ⟨rfl, rfl⟩, fun _ => rfl, fun _ => rfl⟩

/-- The work of an accepted start, after the device state: what is stored stays, and group 1 is next. -/
theorem Ev.beginStart_rest {w : Ev} (h0 : w.s.sequencer.params.delay01 ≠ 0) : SameStored w.s w.beginStart.s ∧
    w.beginStart.s.device = w.s.device ∧ w.beginStart.s.sequencer.activity = .powerOn ∧
    w.beginStart.s.sequencer.nextTurn = some 1 := by
  unfold Ev.beginStart
  have hstored := w.applyStartModes_sameStored
  obtain ⟨hsame, -⟩ := w.applyStartModes_modes
  generalize w.applyStartModes = v at hstored hsame ⊢
  have h0 : v.s.sequencer.params.delay01 ≠ 0 := by rw [hsame.sequencer]; exact h0
  obtain ⟨hdevice, -, hsequencer, -⟩ := Ev.startPowerOn_rest h0
  exact ⟨hstored.trans (Ev.startPowerOn_sameStored h0), hdevice.trans hsame.device, by rw [hsequencer], by rw [hsequencer]⟩

/-! ## The device-wide parameters of the image -/

/-- The staged pairs stay, the device-wide parameters, the sequencer and the device. -/
structure KeepsStaged (s t : State) : Prop where
  staged : ∀ p, (t.point p).staged = (s.point p).staged
  params : t.params = s.params
  sequencer : t.sequencer = s.sequencer
  device : t.device = s.device

theorem KeepsStaged.refl (s : State) : KeepsStaged s s := ⟨fun _ => rfl, rfl, rfl, rfl⟩

theorem KeepsStaged.trans {s t u : State} (h : KeepsStaged s t) (h' : KeepsStaged t u) : KeepsStaged s u :=
  ⟨fun p => (h'.staged p).trans (h.staged p), h'.params.trans h.params, h'.sequencer.trans h.sequencer,
    h'.device.trans h.device⟩

theorem KeepsStaged.foldl {α : Type} {f : Ev → α → Ev} (hf : ∀ w a, KeepsStaged w.s (f w a).s) (l : List α) (w : Ev) :
    KeepsStaged w.s (l.foldl f w).s := by
  induction l generalizing w with
  | nil => exact .refl w.s
  | cons a l ih => exact (hf w a).trans (ih _)

theorem AroundProofs.keepsStaged {p : PointId} {s t : State} (h : AroundProofs p s t)
    (hpoint : (t.point p).staged = (s.point p).staged) : KeepsStaged s t := by
  have hparams : t.params = s.params := by unfold AroundProofs at h; exact h.params
  refine ⟨fun q => ?_, hparams, h.sameSupplies.sequencer, h.sameSupplies.device⟩
  by_cases hq : q = p
  · rw [hq]; exact hpoint
  · rw [h.point_ne hq]

theorem Point.MovedTo.stored {a b : Point} (h : a.MovedTo b) : b.stored = a.stored := by
  unfold Point.MovedTo at h
  rw [h]
  rfl

theorem Point.withResult_stored (x : Sys) (r : ProofResult) (pt : Point) : (pt.withResult x r).stored = pt.stored := by
  cases x <;> rfl

theorem Point.epochsEnd_stored (pt : Point) : pt.epochsEnd.stored = pt.stored := rfl

/-- The entry to FAULT leaves what is stored of the point. -/
theorem State.fault_stored (p : PointId) (cause : FaultCause) (s : State) :
    ((s.fault p cause).point p).stored = (s.point p).stored := by
  have hbegun : ((s.faultBegun p cause).s.point p).stored = (s.point p).stored := by
    unfold State.faultBegun
    rw [(Ev.faultInitialised_movedTo p cause ⟨s, [], []⟩).stored, Ev.faultReset_point]
    rfl
  cases hp : proofAt s p with
  | none =>
    rw [State.fault_point_of_none cause hp, Point.epochsEnd_stored]
    exact hbegun
  | some pr =>
    obtain ⟨-, rfl⟩ := proofAt_eq_some hp
    have hmoved := Ev.deliverEnd_movedTo pr.system s.now (s.faultUnfinished pr cause)
    rw [State.faultUnfinished_point] at hmoved
    rw [State.fault_point_of_some cause hp, Point.epochsEnd_stored, hmoved.stored, Point.withResult_stored]
    exact hbegun

theorem State.fault_aroundProofs (p : PointId) (cause : FaultCause) (s : State) : AroundProofs p s (s.fault p cause) := by
  have h := s.fault_around p cause
  unfold AroundProofs
  rw [h.channel, h.queue]
  exact h

theorem Ev.onPoint_keepsStaged (p : PointId) {f : Point → Point} (w : Ev)
    (h : (f (w.s.point p)).staged = (w.s.point p).staged) : KeepsStaged w.s (w.onPoint p f).s :=
  (Ev.onPoint_around p f w).proofs.keepsStaged (by rw [Ev.onPoint_point]; exact h)

theorem Ev.evaluateHealth_keepsStaged (p : PointId) (w : Ev) : KeepsStaged w.s (w.evaluateHealth p).s := by
  rw [Ev.evaluateHealth_s]
  unfold State.evaluated
  split
  · exact (State.fault_aroundProofs p .level w.s).keepsStaged (Point.staged_of_stored (State.fault_stored p .level w.s))
  · rw [← Ev.onPoint_setPoint p (fun pt => { pt with health := nextHealth w.s.params pt.health pt.level })]
    exact Ev.onPoint_keepsStaged p w rfl

theorem Ev.leak_keepsStaged (w : Ev) : KeepsStaged w.s w.leak.s :=
  KeepsStaged.foldl (fun v p => by
    split
    · exact (Ev.onPoint_keepsStaged p v rfl).trans (Ev.evaluateHealth_keepsStaged p _)
    · exact .refl v.s) _ w

theorem Ev.retimeLeak_keepsStaged (interval : Nat) (w : Ev) : KeepsStaged w.s (w.retimeLeak interval).s := by
  have hretimed (t : Timer) : KeepsStaged w.s { w.s with leakTimer := t } := ⟨fun _ => rfl, rfl, rfl, rfl⟩
  unfold Ev.retimeLeak
  dsimp only
  split
  · have hleak := Ev.leak_keepsStaged { w with s := { w.s with leakTimer := w.s.leakTimer.retime w.s.now (seconds interval) } }
    exact (hretimed _).trans hleak
  · exact hretimed _

theorem Ev.onProofStatus_keepsStaged (p : PointId) (x : Sys) (f : ProofStatus → ProofStatus) (w : Ev) :
    KeepsStaged w.s (w.onProofStatus p (Point.onProof x f)).s :=
  (Ev.onProofStatus_around p _ w).proofs.keepsStaged (by
    rw [Ev.onProofStatus_point]
    exact Point.onProof_staged x f _)

section
variable (interval : Nat) (p : PointId) (x : Sys) (w : Ev)

theorem Ev.retimeDue_keepsStaged : KeepsStaged w.s (w.retimeDue interval p x).s := by
  unfold Ev.retimeDue
  split
  · exact .refl w.s
  · split
    · exact (Ev.onProofStatus_keepsStaged p x _ w).trans ⟨fun _ => rfl, rfl, rfl, rfl⟩
    · exact Ev.onPoint_keepsStaged p w (Point.onProof_staged x _ _)

theorem Ev.retimeOverdue_keepsStaged : KeepsStaged w.s (w.retimeOverdue interval p x).s := by
  unfold Ev.retimeOverdue
  split
  · exact .refl w.s
  · split
    · exact Ev.onProofStatus_keepsStaged p x _ w
    · exact Ev.onPoint_keepsStaged p w (Point.onProof_staged x _ _)

theorem Ev.retimeProofs_keepsStaged : KeepsStaged w.s (w.retimeProofs interval).s :=
  KeepsStaged.foldl (fun v p => KeepsStaged.foldl (fun u x =>
    (Ev.retimeDue_keepsStaged interval p x u).trans (Ev.retimeOverdue_keepsStaged interval p x _)) _ v) _ w
end

/-- New device-wide parameters are in force, and no staged pair changes with them. -/
theorem Ev.setDeviceParams_keepsStaged (d : DeviceParams) (thresholds : Bool) (w : Ev) :
    KeepsStaged { w.s with params := d } (w.setDeviceParams d thresholds).s := by
  have hleak : ∀ (i : Nat) (v : Ev), KeepsStaged v.s (if d.leakInterval = i then v else v.retimeLeak d.leakInterval).s :=
    fun i v => by
      split
      · exact .refl v.s
      · exact Ev.retimeLeak_keepsStaged _ v
  have hinterval : ∀ (i : Nat) (v : Ev), KeepsStaged v.s (if d.interval = i then v else v.retimeProofs d.interval).s :=
    fun i v => by
      split
      · exact .refl v.s
      · exact Ev.retimeProofs_keepsStaged _ v
  have hevaluate : ∀ v : Ev, KeepsStaged v.s (if thresholds then v.evaluateAll else v).s := fun v => by
    split
    · exact KeepsStaged.foldl (fun u p => Ev.evaluateHealth_keepsStaged p u) _ v
    · exact .refl v.s
  exact ((hleak _ (w.onParams fun _ => d)).trans (hinterval _ _)).trans (hevaluate _)

/-! ## The configuration applied -/

theorem Port.setPacing_values (now : Time) (b r : Nat) (q : Port) :
    (q.setPacing now b r).burst = b ∧ (q.setPacing now b r).refillPeriod = r := by
  rw [Port.setPacing_eq]
  dsimp only
  split
  · rename_i h; exact ⟨rfl, h.symm⟩
  · exact ⟨rfl, rfl⟩

theorem Link.setImagePeriod_values (now : Time) (p : Nat) (l : Link) : (l.setImagePeriod now p).imagePeriod = p := by
  unfold Link.setImagePeriod
  split
  · rename_i h; exact h.symm
  · rfl

theorem Link.setTimeout_values (now : Time) (t : Nat) (l : Link) :
    (l.setTimeout now t).imagePeriod = l.imagePeriod ∧ (l.setTimeout now t).timeout = t := by
  unfold Link.setTimeout
  split
  · rename_i h; exact ⟨rfl, h.symm⟩
  · split
    · rename_i h; exact ⟨rfl, h.symm⟩
    · split
      · exact ⟨rfl, rfl⟩
      · split
        · exact ⟨rfl, rfl⟩
        · split <;> exact ⟨rfl, rfl⟩

theorem SectionRecord.setParams_settings (now : Time) (o : Bool) (d k : Nat) (b : Bool) (r : SectionRecord) :
    (r.setParams now o d k b).settings = (d, k, b) := by
  rw [SectionRecord.setParams_eq]
  split
  · rfl
  · split
    · rw [SectionRecord.expiryCheck_settings]; rfl
    · rfl

theorem SectionRecord.takeMembership_settings (used : Bool) (r : SectionRecord) :
    (r.takeMembership used).settings = r.settings := by
  unfold SectionRecord.takeMembership
  split <;> split <;> rfl

section
variable (c : Configuration) (w : Ev)

theorem Ev.loadPoints_s : (allPoints.foldl (fun w p => w.loadPoint (c.points.get p) p) w).s = { w.s with
    points := .ofFn fun p => { w.s.point p with
      startMode := (c.points.get p).startMode, params := (c.points.get p).params } } := by
  rw [foldl_onPoints (g := fun p pt => { pt with startMode := (c.points.get p).startMode, params := (c.points.get p).params })
    (fun v p _ _ _ => Ev.onPoint_setPoint p _ v) allPoints (List.nodup_finRange 16)]
  refine congrArg (fun P : Table 16 Point => ({ w.s with points := P } : State)) (Table.ext_get fun p => ?_)
  rw [Table.get_ofFn, Table.get_ofFn, if_pos (show p ∈ allPoints from List.mem_finRange p)]

theorem Ev.loadSections_settings : Noticed w.s (allSections.foldl (fun w n => w.loadSection (c.sections.get n) n) w).s ∧
    ∀ n, ((allSections.foldl (fun w n => w.loadSection (c.sections.get n) n) w).s.sec n).settings =
      ((c.sections.get n).clearDelay, (c.sections.get n).holdoff, (c.sections.get n).direct) := by
  let f (s : State) (n : SectionId) : SectionRecord → SectionRecord := SectionRecord.setParams s.now (anyOverdue s n)
    (c.sections.get n).clearDelay (c.sections.get n).holdoff (c.sections.get n).direct
  have hf : ReadsView f := fun s t hnow hview htopology => by
    funext n
    unfold f anyOverdue members
    rw [hnow, hview, htopology]
  refine ⟨Noticed.foldl _ (fun v n => Ev.onSection_noticed n _ v) _ w, fun n => ?_⟩
  have h := ((foldl_onSection_reached hf (List.nodup_finRange 12) w n).1 (List.mem_finRange n)).1
  exact (congrArg SectionRecord.settings h).trans
    ((SectionRecord.stamped_settings _ _ _).trans (SectionRecord.setParams_settings _ _ _ _ _ _))

theorem Ev.setTopology_settings (n : SectionId) :
    ((w.setTopology c.topology).s.sec n).settings = (w.s.sec n).settings := by
  obtain ⟨-, -, hreached⟩ := Ev.setTopology_reached c.topology w
  rw [(hreached n).1, SectionRecord.stamped_settings, SectionRecord.takeMembership_settings]

variable {c w}

/-- A configuration applied where no pair is staged is the configuration in force. -/
theorem Ev.applyConfiguration_loads (h : ∀ p, (w.s.point p).staged = none) :
    Configuration.ofState (w.applyConfiguration c).s c.autostart = c ∧
    (∀ p, ((w.applyConfiguration c).s.point p).staged = none) ∧
    (w.applyConfiguration c).s.device = w.s.device ∧
    (w.applyConfiguration c).s.sequencer = { w.s.sequencer with params := c.supplies } := by
  unfold Ev.applyConfiguration
  dsimp only
  have hdevice := Ev.setDeviceParams_keepsStaged c.device true w
  generalize w.setDeviceParams c.device true = u at hdevice ⊢
  generalize hv : ({ u.loadSupplies c.supplies with s := (u.loadSupplies c.supplies).s.loadPorts c } : Ev) = v
  have hvs : v.s = (u.loadSupplies c.supplies).s.loadPorts c := by rw [← hv]
  have hpoints := Ev.loadPoints_s c v
  generalize allPoints.foldl (fun w p => w.loadPoint (c.points.get p) p) v = x at hpoints ⊢
  obtain ⟨hnoticed, hsections⟩ := Ev.loadSections_settings c x
  generalize allSections.foldl (fun w n => w.loadSection (c.sections.get n) n) x = y at hnoticed hsections ⊢
  obtain ⟨htopology, -, -⟩ := Ev.setTopology_reached c.topology y
  have hsettings := Ev.setTopology_settings c y
  generalize y.setTopology c.topology = z at htopology hsettings ⊢
  have hxy : x.s = { v.s with points := x.s.points } := by rw [hpoints]
  have hlast : z.s = { v.s with
      points := x.s.points, topology := c.topology, view := z.s.view, sections := z.s.sections
      outputs := { v.s.outputs with clr := z.s.outputs.clr } } := by
    unfold Noticed at hnoticed htopology
    rw [htopology, hnoticed, hxy]
  have hpoint : ∀ p, z.s.point p = { v.s.point p with
      startMode := (c.points.get p).startMode, params := (c.points.get p).params } := fun p => by
    rw [hlast, hpoints]
    exact Table.get_ofFn _ _
  have hstaged : ∀ p, (z.s.point p).staged = none := fun p => by
    rw [hpoint, hvs]
    exact (hdevice.staged p).trans (h p)
  have hcontrol : z.s.control = u.s.control.setPacing u.s.now c.controlBurst c.controlRefill := by rw [hlast, hvs]; rfl
  have hservice : z.s.service = u.s.service.setPacing u.s.now c.serviceBurst c.serviceRefill := by rw [hlast, hvs]; rfl
  have hlink : z.s.link = (u.s.link.setImagePeriod u.s.now c.imagePeriod).setTimeout u.s.now c.linkTimeout := by
    rw [hlast, hvs]; rfl
  have hsequencer : z.s.sequencer = { w.s.sequencer with params := c.supplies } := by
    rw [hlast, hvs]
    exact congrArg (fun q : Sequencer => { q with params := c.supplies }) hdevice.sequencer
  refine ⟨Configuration.ofState_eq (by rw [hlast]) (by rw [hlast, hvs]; exact hdevice.params) (by rw [hsequencer])
    (by rw [hcontrol]; exact Port.setPacing_values ..) (by rw [hservice]; exact Port.setPacing_values ..) ?_
    (fun p => by rw [hpoint]; exact ⟨rfl, rfl⟩) (fun n => (hsettings n).trans (hsections n)), hstaged, ?_, hsequencer⟩
  · rw [hlink, (Link.setTimeout_values ..).1, Link.setImagePeriod_values]
    exact ⟨rfl, (Link.setTimeout_values ..).2⟩
  · rw [hlast, hvs]
    exact hdevice.device
end

/-! ## IMAGE_LOAD_COMPLETE -/

/-- The device record after a load that ends with result `r`. -/
def Device.loadEnded (state : DeviceState) (r : LoadResult) (auto : AutostartResult) (d : Device) : Device :=
  { d with state := state, loadResult := some r, loadAdjusted := false, autostart := some auto }

theorem Ev.completeLoad_empty {m : MemoryRead} {r : LoadResult} (h : loadCheck m = (r, [])) (hr : r ≠ .loaded) (w : Ev) :
    w.completeLoad m = w.onDevice (Device.loadEnded .configuring r .notRequested) := by
  unfold Ev.completeLoad
  rw [h]
  cases r with
  | loaded => exact absurd rfl hr
  | none => rfl
  | corrupt => rfl

/-- A whole image in range is applied, and the start checks judge it when it asks for a start. -/
theorem Ev.completeLoad_image {c : Configuration} (h : c.clamped = c) (rest : List Byte) (w : Ev) :
    w.completeLoad (.bytes (c.image ++ rest)) =
      match c.autostart, startFault (w.applyConfiguration c).s with
      | false, _ => (w.applyConfiguration c).onDevice (Device.loadEnded .configuring .loaded .notRequested)
      | true, some item => (w.applyConfiguration c).onDevice (Device.loadEnded .configuring .loaded (.refused item))
      | true, none => ((w.applyConfiguration c).onDevice (Device.loadEnded .starting .loaded .started)).beginStart := by
  unfold Ev.completeLoad
  rw [loadCheck_image]
  dsimp only
  rw [Configuration.ofBody_body h]
  rfl

theorem imageLoadComplete_runs {s : State} (h : s.device.state = .loading) (m : MemoryRead) :
    exec (.imageLoadComplete m) s = .next (runEvent (fun w => (w.completeLoad m).settle) s) := by
  show execImageLoadComplete m s = _
  unfold execImageLoadComplete
  rw [h]
  rfl

section
variable {s : State} (hl : s.device.state = .loading)
include hl

/-- A load that applies nothing leaves its result. -/
theorem imageLoadComplete_ends {m : MemoryRead} {r : LoadResult} (h : loadCheck m = (r, [])) (hr : r ≠ .loaded) :
    ∃ u, exec (.imageLoadComplete m) s = .next u ∧
      Leaves ({ s with device := s.device.loadEnded .configuring r .notRequested } : State).settled u := by
  refine ⟨_, imageLoadComplete_runs hl m, ?_⟩
  have hleaves := runEvent_settled (Ev.completeLoad m) s
  rw [Ev.completeLoad_empty h hr, Ev.onDevice_s] at hleaves
  rwa [show s.outputs.followDevice s.device.state (s.device.loadEnded .configuring r .notRequested).state = s.outputs by
    rw [hl]; rfl] at hleaves

/-- What a load that takes over a configuration leaves, by the work `v` that follows the configuration applied. -/
theorem imageLoadComplete_applies {c : Configuration} {m : MemoryRead} {w v : Ev}
    (hstaged : ∀ p, (s.point p).staged = none) (hw : Ev.applyConfiguration c ⟨s, [], []⟩ = w)
    (hv : Ev.completeLoad m ⟨s, [], []⟩ = v) (hstored : SameStored w.s v.s) :
    ∃ u, exec (.imageLoadComplete m) s = .next u ∧ Configuration.ofState u c.autostart = c ∧
      startFault u = startFault w.s ∧ u.device = v.s.settled.device := by
  obtain ⟨hconfiguration, hstaged, -⟩ := Ev.applyConfiguration_loads (c := c) (w := ⟨s, [], []⟩) hstaged
  rw [hw] at hconfiguration hstaged
  have hleaves := runEvent_settled (Ev.completeLoad m) s
  rw [hv] at hleaves
  have hend := (hstored.trans (State.settled_sameStored fun p =>
    (Point.staged_of_stored (hstored.points p)).trans (hstaged p))).trans hleaves.sameStored
  exact ⟨_, imageLoadComplete_runs hl m, (hend.ofState _).trans hconfiguration, hend.startFault, hleaves.sameSupplies.device⟩
end

theorem State.settled_device (s : State) : ∃ st, s.settled.device = { s.device with state := st } := by
  have hframe := Ev.settleProofs_frame ⟨s, [], []⟩
  have hsettled : s.settled = (Ev.settleProofs ⟨s, [], []⟩).settleActivity.s := rfl
  generalize Ev.settleProofs ⟨s, [], []⟩ = w at hframe hsettled
  rw [hsettled]
  by_cases hc : w.s.activityComplete
  · rw [Ev.settleActivity_of_complete hc, hframe]
    exact ⟨_, rfl⟩
  · rw [Ev.settleActivity_of_running hc, hframe]
    exact ⟨_, rfl⟩

theorem State.settled_device_of_none {s : State} (h : s.sequencer.activity = .none) : s.settled.device = s.device := by
  rw [State.settled_of_running (State.not_activityComplete h), Ev.settleProofs_frame]

/-! ## The checks of LOADING on what is no whole image -/

theorem loadCheck_unsigned {s0 s1 : Byte} (h : ¬(s0 = 0x5E ∧ s1 = 0x91)) (rest : List Byte) :
    loadCheck (.bytes (s0 :: s1 :: rest)) = (.none, []) := if_neg h

theorem loadCheck_short {format hi lo : Byte} {tail : List Byte}
    (h : word hi lo < 2 ∨ 1019 < word hi lo ∨ tail.length < word hi lo) :
    loadCheck (.bytes (0x5E :: 0x91 :: format :: hi :: lo :: tail)) = (.corrupt, []) := by
  unfold loadCheck
  simp only [and_self, if_true]
  by_cases hlength : word hi lo < 2 ∨ 1019 < word hi lo
  · exact if_pos hlength
  · rw [if_neg hlength]
    exact if_pos (by tauto)

theorem loadCheck_unsound {format hi lo : Byte} {body crc rest : List Byte} (hlen : body.length = word hi lo - 2)
    (hlo : 2 ≤ word hi lo) (hhi : word hi lo ≤ 1019) (hcrc : crc.length = 2)
    (h : crc ≠ crcBytes (format :: hi :: lo :: body) ∨ format ≠ 1 ∨ body.length ≠ 165) :
    loadCheck (.bytes (0x5E :: 0x91 :: format :: hi :: lo :: (body ++ (crc ++ rest)))) = (.corrupt, []) := by
  rw [loadCheck_of_crc hlen hlo hhi hcrc]
  split
  · refine if_neg fun hsize => ?_
    obtain ⟨hformat, hbody⟩ := hsize
    rcases h with h | h | h
    · contradiction
    · exact h hformat
    · exact h (hlen.trans hbody)
  · rfl

/-- Settles O55. -/
theorem theImageLoadEndsLoading : Obligations.TheImageLoadEndsLoading := by
  unfold Obligations.TheImageLoadEndsLoading
  intro s hl ended ends
  have empty {m : MemoryRead} {r : LoadResult} (h : loadCheck m = (r, [])) (hr : r ≠ .loaded) : ends m r :=
    imageLoadComplete_ends hl h hr
  refine ⟨empty rfl nofun, fun s0 s1 rest h => empty (loadCheck_unsigned h rest) nofun,
    fun format hi lo tail h => empty (loadCheck_short h) nofun,
    fun format hi lo body c1 c0 rest hlo hhi hlen h => ?_, fun c rest h hauto hstaged hactivity => ?_,
    fun c rest h hauto h0 hstaged => ?_⟩
  · exact empty (loadCheck_unsound (crc := [c1, c0]) hlen hlo hhi rfl h) nofun
  · obtain ⟨-, -, hdevice, hsequencer⟩ := Ev.applyConfiguration_loads (c := c) (w := ⟨s, [], []⟩) hstaged
    have hv := Ev.completeLoad_image h rest ⟨s, [], []⟩
    rw [hauto] at hv
    generalize hw : Ev.applyConfiguration c ⟨s, [], []⟩ = w at hdevice hsequencer hv
    obtain ⟨u, hu, hconfiguration, -, hend⟩ := imageLoadComplete_applies hl hstaged hw hv (Ev.onDevice_sameStored _ w)
    rw [hauto] at hconfiguration
    rw [Ev.onDevice_s] at hend
    refine ⟨u, hu, hconfiguration, hend.trans ((State.settled_device_of_none ?_).trans ?_)⟩
    · exact (congrArg Sequencer.activity hsequencer).trans hactivity
    · exact congrArg (Device.loadEnded .configuring .loaded .notRequested) hdevice
  · obtain ⟨-, -, hdevice, hsequencer⟩ := Ev.applyConfiguration_loads (c := c) (w := ⟨s, [], []⟩) hstaged
    have hv := Ev.completeLoad_image h rest ⟨s, [], []⟩
    rw [hauto] at hv
    generalize hw : Ev.applyConfiguration c ⟨s, [], []⟩ = w at hdevice hsequencer hv
    cases hfault : startFault w.s with
    | none =>
      rw [hfault] at hv
      have hbegun := Ev.onDevice_sameStored (Device.loadEnded .starting .loaded .started) w
      have hstarting := Ev.onDevice_s (Device.loadEnded .starting .loaded .started) w
      generalize w.onDevice (Device.loadEnded .starting .loaded .started) = x at hbegun hstarting hv
      obtain ⟨hstored, hkept, hon, hnext⟩ := Ev.beginStart_rest (w := x) (by rw [hstarting, hsequencer]; exact h0)
      obtain ⟨hsame, -⟩ := State.settled_of_turn (.inl hon) hnext
      obtain ⟨u, hu, hconfiguration, hchecked, hend⟩ :=
        imageLoadComplete_applies hl hstaged hw hv (hbegun.trans hstored)
      rw [hauto] at hconfiguration
      have hfinal : u.device = s.device.loadEnded .starting .loaded .started := by
        rw [hend, hsame.device, hkept, hstarting]
        exact congrArg (Device.loadEnded .starting .loaded .started) hdevice
      refine ⟨u, hu, hconfiguration, by rw [hfinal]; rfl, fun _ => by rw [hfinal]; exact ⟨rfl, rfl⟩, fun item hitem => ?_⟩
      rw [hchecked, hfault] at hitem
      cases hitem
    | some item =>
      rw [hfault] at hv
      obtain ⟨u, hu, hconfiguration, hchecked, hend⟩ :=
        imageLoadComplete_applies hl hstaged hw hv (Ev.onDevice_sameStored _ w)
      rw [hauto] at hconfiguration
      rw [Ev.onDevice_s] at hend
      refine ⟨u, hu, hconfiguration, ?_, fun hnone => ?_, fun item' hitem hactivity => ?_⟩
      · obtain ⟨st, hst⟩ := State.settled_device { w.s with
          device := w.s.device.loadEnded .configuring .loaded (.refused item)
          outputs := w.s.outputs.followDevice w.s.device.state .configuring }
        exact congrArg Device.loadResult (hend.trans hst)
      · rw [hchecked, hfault] at hnone
        cases hnone
      · rw [hchecked, hfault] at hitem
        cases hitem
        have hfinal := hend.trans (State.settled_device_of_none ((congrArg Sequencer.activity hsequencer).trans hactivity))
        rw [hfinal]
        exact ⟨rfl, rfl⟩

end Sys2Proof.Machine
end
